-- ==== Sys2Proof/Word.lean ====
section
/-! DEFINITION. The word types of the M7 and their plainest arithmetic (spec 00 R2, R9; 04 R95, R96). -/

namespace Sys2Proof

/-- A 32-bit register or instruction word (R14, R71). -/
abbrev Word := BitVec 32

/-- A 64-bit value: a uniform pair, a key, a virtual address (R3, R206, R262). -/
abbrev DWord := BitVec 64

/-- One byte of memory (R3). -/
abbrev Byte := BitVec 8

/-- A set of lanes: bit i is lane i, for the 96 lanes of the widest group (R16, R39). -/
abbrev Mask := BitVec 96

/-- A seven-bit operand field of an instruction word (R71, R72). -/
abbrev F7 := BitVec 7

/-- `wrap(x, n)` of R9. -/
def wrap (x : Int) (n : Nat) : BitVec n := BitVec.ofInt n x

/-- `sat(x, lo, hi)` of R9: x clamped to the range lo to hi. -/
def sat (x lo hi : Int) : Int := max lo (min hi x)

/-- `bits(x, h, l)` of R9, as a natural number. -/
def bitsOf (x h l : Nat) : Nat := (x / 2 ^ l) % 2 ^ (h + 1 - l)

end Sys2Proof
end

