-- ==== Sys2Proof/Config.lean ====
section
/-! DEFINITION. What the manual leaves open, as constants without a body: nothing can evaluate them, so a claim
holds for every value. State.free counts the draws (DESIGN CHOICE, log entry 3). -/

namespace Sys2Proof

/-- A free natural number, one for each draw: which of two versions of a rewritten text word a fetch returns (R79),
which line a cache replaces (R308, R313), what a host memory read returns (R424), what overlapping CPY bytes
become (R247), and the other values named in DESIGN CHOICE, log entry 3. -/
opaque Config.freeNat : Nat → Nat

/-- The hash of a line over the cache-role banks present (R313, which gives no hash): the number, among those banks in ascending
order and modulo their count, of the bank that holds the line (DESIGN CHOICE, log entry 48). -/
opaque Config.cacheHash : List Nat → Nat → Nat

/-- Nearest-even on a tie between neighbours of a format without mantissa bits (R104 names the lowest mantissa bit, and
there is none): whether the larger one is taken, as a function of the two neighbours' magnitudes n and n + 1 in units
of 2^q (DESIGN CHOICE, log entry 43). -/
opaque Config.tieWithoutMantissa : Nat → Int → Bool

/-- SHA-384 (R430, R431): the function itself is not in the manual. -/
opaque Config.sha384 : List Byte → BitVec 384

/-- The signature of an attestation report by the package's identity key (R431). -/
opaque Config.sign : List Byte → List Byte

/-- The body of a message in flits: the manual gives the header only (R410). -/
opaque Config.bodyBytes : Nat → List Byte

end Sys2Proof
end

