-- ==== Sys2Proof/Syntax.lean ====
section
/-! DEFINITION. The syntax of Tarard: every row of spec/opcode_table.json is one constructor of Instr.
The rows with an encoding are the instruction words of R85 to R93 (with their literal words, R55);
the rows without one are the steps the other agents of the package make (95_what_each_step_holds.md):
they have no word and come from State.sched or from the machine itself. -/

namespace Sys2Proof

/-- Access width of loads and stores (R91): code 000 to 100. -/
inductive Width where
  | b8 | b16 | b32 | b64 | b128
  deriving DecidableEq, Repr

/-- Order of an ATOM (R82): SUB bits 1:0. -/
inductive AtomOrder where
  | relaxed | acq | rel | full
  deriving DecidableEq, Repr

/-- Order of a FENCE (R82, R91): the order code minus one. -/
inductive FenceOrder where
  | acq | rel | full
  deriving DecidableEq, Repr

/-- Scope (R82), codes 0 to 7. -/
inductive Scope where
  | group | team | core | pair | cluster | quarter | package | fabric
  deriving DecidableEq, Repr

/-- Sub-group width of SHFL (R90): code 00 is 16, 01 is 32, 10 is 64, 11 is 96. -/
inductive ShflW where
  | w16 | w32 | w64 | w96
  deriving DecidableEq, Repr

/-- What a rank of a communicator brings to a matched COLL (R260): its rank, which of its COLLs on the communicator it is
(from 0), its COUNT and OP, and the elements of its buffer. -/
structure RankData where
  rank  : Nat
  nth   : Nat
  count : Nat
  op    : Nat
  words : List Word
  deriving DecidableEq, Repr

/-- The parts a spot test can concern (R433). -/
inductive PartKind where
  | hbmRow | poolBank | registerBank | sramLine | hostLane | fabricLane
  deriving DecidableEq, Repr

/-- What a spot test finds (R433): whether the error that it follows was corrected, and whether the fault is lasting. -/
structure SpotResult where
  corrected : Bool
  lasting : Bool
  deriving DecidableEq, Repr

/-- What the management controller measures (R434, R438): the power in W of each quarter, then of the module's other parts, and junction
temperatures in °C. -/
structure PowerReadings where
  powers : List Nat
  celsius : List Nat
  deriving DecidableEq, Repr

/-- A firmware image as the boot ROM judges it (R430): whether its signature holds, its security version
and its SHA-384 hash. -/
structure Firmware where
  sigOk : Bool
  svn   : Word
  hash  : BitVec 384
  deriving DecidableEq, Repr

/-- The atomic operations of R217. -/
inductive AtomOp where
  | addI32 | addF32 | minI32 | minN32 | maxI32 | maxN32 | xchg | cas | and | or | xor
  deriving DecidableEq, Repr

/-- An invocation on its way (R282, R283): SERVICE, its eight words, the handle it resolves, the task it
belongs to, and where it is addressed. -/
inductive InvTarget where
  | key (k : DWord)
  | pkg (package quarter : Nat)
  | hdl (h : DWord)
  deriving DecidableEq, Repr

structure Invocation where
  id      : Nat
  target  : InvTarget
  service : Nat
  args    : List Word
  handle  : DWord
  task    : Nat
  sender  : Nat          -- the issuing group, for the order of R286
  level   : Nat
  prio    : Nat
  input   : List Word    -- the result of h for RINV.HDL (R284), else empty
  key     : DWord        -- the covering leaf for RINV.KEY, else 0
  payload : DWord        -- its payload address, else 0
  via     : List DWord   -- the handles from which it has been sent on (R422)
  deriving DecidableEq, Repr

/-- Who makes a remote access: its level (R320), its cell and GROUP for an ordered phase (R278, R397), whether it is the first
of its instruction or command on that line (R397). -/
structure Sender where
  level : Nat
  key   : DWord
  group : Nat
  first : Bool
  phase : Nat
  deriving DecidableEq, Repr

/-- What a package says of the `nth` barrier of a task's ordered phases (R277): its groups have arrived, or (`ready`) its slices have
rebuilt their shared lines; packages without a record of the task that its groups have written in the phase; the conflicts and the spill it has
counted (R279). -/
structure OrdNote where
  pkg    : Nat
  nth    : Nat
  ready  : Bool
  guests : List Nat
  conf   : Nat
  spill  : Bool
  deriving DecidableEq, Repr

/-- What a fabric message asks for or answers (R410). The manual gives the header and the classes; the OP
numbers and the body layouts are not in it, so the model carries the content (DESIGN CHOICE, log entry 21).
Class 0: `load`. Class 1: `store`, with the bits of each byte that are written, and `atom`, with an operand and a compared value for
each lane. Class 2: `invoke`. Class 3: a handle's `result` or break (`broken`) with the handle whose outcome it is (`of`, 0: its own), a
delegation of it to another handle (`forward`), and the length of the chain that leads to a handle (`chain`, R421). Class 4:
`answer`, with the phase conflicts of a load (R397). Class 5: `coll`, what a rank brings to a collective (R260). Class 6: `cost` (R275), `first` (a
reach's FIRST, R404; 0: the reach is empty), the steps of a rebalance (R392): `rebalance` asks the leading package for one, `askRebal` and `rebalOk` ask
the others whether one may start (R276), `askCosts` and `costs` are its snapshot, `plan` carries the new cut list and a package's moves (key, old and
new owner), `gain` begins a copy, `payload` ends it, `copied`, `switchTo`, `moved` (the new owner's quarter has switched), `switched` and `finish` lead
through the switch; and the barrier of an ordered phase over the packages (R277, R399): `ordNote`, and `ordRebuild` to a package without a record of
the task. -/
inductive MsgBody where
  | load (asid : Nat) (va pa : DWord) (size : Nat) (sender : Sender)
  | store (asid : Nat) (va pa : DWord) (data : List (Byte × Byte)) (sender : Sender)
  | atom (op : AtomOp) (asid : Nat) (va pa : DWord) (lanes : List (Word × Word)) (sender : Sender)
  | invoke (i : Invocation)
  | result (h : DWord) (task : Nat) (words : List Word) (of : DWord)
  | broken (h : DWord) (task cause hops : Nat) (of : DWord)
  | forward (h : DWord) (task : Nat) (next : DWord)
  | chain (h : DWord) (task depth : Nat)
  | begun (h : DWord)
  | answer (data : List Byte) (conflicts : Nat)
  | coll (comm : Nat) (data : RankData)
  | cost (task : Nat) (key : DWord) (amount : Word)
  | first (task : Nat) (old new : DWord)
  | rebalance (task : Nat) (h : DWord)
  | askRebal (task : Nat)
  | rebalOk (task pkg : Nat) (ok : Bool)
  | askCosts (task : Nat)
  | costs (task pkg : Nat) (leaves : List (DWord × Nat × Word))
  | plan (task : Nat) (version : DWord) (cuts : List Byte) (moves : List (DWord × Nat × Nat))
  | gain (task : Nat) (key : DWord)
  | payload (task : Nat) (key : DWord) (data : List Byte)
  | copied (task pkg : Nat)
  | switchTo (task : Nat) (version : DWord)
  | moved (task : Nat) (key : DWord)
  | switched (task pkg : Nat)
  | finish (task : Nat)
  | ordNote (task : Nat) (note : OrdNote)
  | ordRebuild (task nth : Nat)
  | other
  deriving DecidableEq, Repr

/-- STAT of a response (R410). -/
inductive MsgStat where
  | accepted | retry | refused (cause : Nat)
  deriving DecidableEq, Repr

/-- A fabric message: the header fields of R410 and its content. -/
structure Message where
  cls    : Nat
  dstPkg : Nat
  dstQtr : Nat
  srcPkg : Nat
  srcQtr : Nat
  msgno  : Word
  stat   : MsgStat
  tag    : Nat
  body   : MsgBody
  deriving DecidableEq, Repr

/-- The rows of spec/opcode_table.json: first the rows without an encoding (the steps of the machine's other
agents), then the instructions of R85 to R93, each in the table's order. Operand fields are the raw seven bits (R80 is checked at issue). -/
inductive Instr where
  | clauseStart
  | clauseBoundary
  | splitRotate
  | timewaitExpire (gid id : Nat)
  | bankroleSwitch (cluster bank : Nat)
  | memoryAccessComplete (gid id : Nat)
  | homeAcknowledge (core k : Nat)
  | sgbEntryTimeout (core k : Nat)
  | walkerStart (cluster : Nat)
  | walkerTimeout (cluster : Nat)
  | logReissue (gid id : Nat)
  | subnormalReplayDone (gid id : Nat)
  | engineAccept (cmd : Nat)
  | boArrival (cmd : Nat)
  | engineCommandComplete (cmd : Nat)
  | engineResume (cmd : Nat)
  | collMatch (cmd comm : Nat)
  | collTimeout (cmd : Nat)
  | queueOpServe (gid id : Nat)
  | teamBarrierComplete (team : Nat)
  | ordBarrierComplete (task : Nat)
  | weirRebuildComplete (task : Nat)
  | migrationCopyStart (task : Nat) (key : BitVec 64)
  | migrationCopyComplete (task : Nat) (key : BitVec 64)
  | quarterSwitch (task quarter : Nat)
  | serviceStart (inv core : Nat)
  | groupRetire (gid : Nat)
  | handleResultArrive (msg : Nat)
  | handleTimeout (quarter index : Nat)
  | heldRequestEffect (gid : Nat)
  | teamSaveDone (team : Nat)
  | mailboxAccept (mailbox : Nat)
  | teamPlace (task core : Nat)
  | oppStable (quarter : Nat)
  | counterSet (master counter : Nat) (value : BitVec 64)
  | counterAdd (master counter : Nat) (value : BitVec 64)
  | counterReset (master counter : Nat) (value : BitVec 64)
  | mailboxKill (master mailbox : Nat) (value : BitVec 32)
  | hostAccessTimeout (gid id : Nat)
  | flitReceive (port : Nat) (flit : List (BitVec 8))
  | flitResendTimeout (port : Nat)
  | portDown (port : Nat)
  | portRetrainComplete (port : Nat)
  | messageReceive (m : Message) (room : Bool)
  | messageRetryResend (stream : Nat)
  | responseReceive (m : Message)
  | fabricTimeout (stream : Nat)
  | spotTestComplete (part : PartKind) (index : Nat) (found : SpotResult) (addr : BitVec 64)
  | powerOn (fw : Firmware)
  | packageReset (fw : Firmware)
  | hostLinkTrain (flitMode : Bool)
  | functionLevelReset (vf : Nat)
  | claim (master : Nat) (value : BitVec 32)
  | give (master : Nat) (value : BitVec 32)
  | take (master : Nat) (value : BitVec 32)
  | minptWrite (master : Nat) (value : BitVec 32)
  | mgmtRegisterWrite (master offset : Nat) (data : List (BitVec 8))
  | attestRequest (master : Nat) (nonce : List (BitVec 8))
  | attestReportReady (master : Nat)
  | lifetimeClear (signed : Bool)
  | svnRaise (signed : Bool) (svn : BitVec 32)
  | thermalThrottle (quarter : Nat)
  | thermalTrip (quarter : Nat)
  | powerCapLimit (readings : PowerReadings)
  | fbInstructionComplete (gid id : Nat)
  | rebalanceSnapshotComplete (task : Nat)
  | mailboxSlotWrite (master mailbox offset : Nat) (data : List (BitVec 8))
  | nop
  | braLikely (a : F7) (lit : BitVec 32)
  | braUnlikely (a : F7) (lit : BitVec 32)
  | braUniform (a : F7) (lit : BitVec 32)
  | bra (a : F7) (lit : BitVec 32)
  | brx (a b : F7)
  | call (d a b : F7)
  | ret (a : F7)
  | ppush (a : F7)
  | pinv
  | ppop
  | setmode (a : F7)
  | getmode (d : F7)
  | setfmt (d a : F7)
  | getfmt (d a : F7)
  | spawn (d a b : F7)
  | exit
  | yield
  | trap (a : F7)
  | bkpt
  | sadd (d a b : F7)
  | ssub (d a b : F7)
  | smul (d a b : F7)
  | smulhiI32 (d a b : F7)
  | smulhiN32 (d a b : F7)
  | sdivI32 (d a b : F7)
  | sdivN32 (d a b : F7)
  | sremI32 (d a b : F7)
  | sremN32 (d a b : F7)
  | sminI32 (d a b : F7)
  | sminN32 (d a b : F7)
  | smaxI32 (d a b : F7)
  | smaxN32 (d a b : F7)
  | saddSatI32 (d a b : F7)
  | saddSatN32 (d a b : F7)
  | ssubSatI32 (d a b : F7)
  | ssubSatN32 (d a b : F7)
  | sand (d a b : F7)
  | sor (d a b : F7)
  | sxor (d a b : F7)
  | sshl (d a b : F7)
  | sshrN32 (d a b : F7)
  | sshrI32 (d a b : F7)
  | snot (d a : F7)
  | spopc (d a : F7)
  | sclz (d a : F7)
  | smov (d a : F7)
  | ssetEq (d a b : F7)
  | ssetNe (d a b : F7)
  | ssetLtI32 (d a b : F7)
  | ssetLeI32 (d a b : F7)
  | ssetLtN32 (d a b : F7)
  | ssetLeN32 (d a b : F7)
  | slit (d : F7) (lit : BitVec 32)
  | slit64 (d : F7) (lo hi : BitVec 32)
  | sadd64 (d a b : F7)
  | ssub64 (d a b : F7)
  | sshl64 (d a b : F7)
  | sshr64 (d a b : F7)
  | aadd (d a b : F7)
  | asub (d a b : F7)
  | aaddC (d a b : F7)
  | asubC (d a b : F7)
  | amov (d a : F7)
  | aaddu (d a b : F7)
  | asubu (d a b : F7)
  | amulu (d a b : F7)
  | ashlu (d a b : F7)
  | aadduC (d a b : F7)
  | asubuC (d a b : F7)
  | amuluC (d a b : F7)
  | ashluC (d a b : F7)
  | astride (d a b : F7)
  | utoa (d a : F7)
  | utov (d a : F7)
  | atov (d a : F7)
  | atou (d a : F7)
  | lanea (d : F7)
  | readfirst (d a : F7)
  | vtouEq (d a : F7)
  | elect (d a : F7)
  | vadd (d a b : F7)
  | vsub (d a b : F7)
  | vmul (d a b : F7)
  | vmulhiI32 (d a b : F7)
  | vmulhiN32 (d a b : F7)
  | vminI32 (d a b : F7)
  | vminN32 (d a b : F7)
  | vmaxI32 (d a b : F7)
  | vmaxN32 (d a b : F7)
  | vaddSatI32 (d a b : F7)
  | vaddSatN32 (d a b : F7)
  | vsubSatI32 (d a b : F7)
  | vsubSatN32 (d a b : F7)
  | vand (d a b : F7)
  | vor (d a b : F7)
  | vxor (d a b : F7)
  | vshl (d a b : F7)
  | vshrN32 (d a b : F7)
  | vshrI32 (d a b : F7)
  | vbfeN32 (d a b : F7)
  | vbfeI32 (d a b : F7)
  | vnot (d a : F7)
  | vpopc (d a : F7)
  | vclz (d a : F7)
  | vmov (d a : F7)
  | vbrev (d a : F7)
  | vbfi (d a b : F7)
  | vcmpEq (d a b : F7)
  | vcmpNe (d a b : F7)
  | vcmpLtI32 (d a b : F7)
  | vcmpLeI32 (d a b : F7)
  | vcmpLtN32 (d a b : F7)
  | vcmpLeN32 (d a b : F7)
  | pand (d a b : F7)
  | por (d a b : F7)
  | pxor (d a b : F7)
  | pnot (d a : F7)
  | pmov (d a : F7)
  | vxrd (d a : F7)
  | vxwr (d a : F7)
  | xset (d a : F7)
  | xget (d a : F7)
  | xadd (d a b : F7)
  | vrand (d a b : F7)
  | shflIdx (d a b : F7) (w : ShflW)
  | shflUp (d a b : F7) (w : ShflW)
  | shflDown (d a b : F7) (w : ShflW)
  | shflXor (d a b : F7) (w : ShflW)
  | reduce (d a b : F7)
  | reduceVarying (d a b : F7)
  | reduceMini (d a b : F7)
  | scan (d a b : F7)
  | scanExcl (d a b : F7)
  | voteAll (d a : F7)
  | voteAny (d a : F7)
  | ballot (d a : F7)
  | spread (d a b : F7)
  | fadd (d a b : F7)
  | fsub (d a b : F7)
  | fmul (d a b : F7)
  | fmin (d a b : F7)
  | fmax (d a b : F7)
  | fabs (d a : F7)
  | fneg (d a : F7)
  | frint (d a : F7)
  | fcmpEq (d a b : F7)
  | fcmpNe (d a b : F7)
  | fcmpLt (d a b : F7)
  | fcmpLe (d a b : F7)
  | fcmpUn (d a b : F7)
  | hadd (d a b : F7)
  | hsub (d a b : F7)
  | hmul (d a b : F7)
  | hmin (d a b : F7)
  | hmax (d a b : F7)
  | hfma (d a b : F7)
  | f2iI32 (d a : F7)
  | f2iN32 (d a : F7)
  | i2fI32 (d a : F7)
  | i2fN32 (d a : F7)
  | h2fLo (d a : F7)
  | h2fHi (d a : F7)
  | f2h (d a b : F7)
  | frcp (d a : F7)
  | frsq (d a : F7)
  | fsqrt (d a : F7)
  | fexp2 (d a : F7)
  | flog2 (d a : F7)
  | fsin (d a : F7)
  | fcos (d a : F7)
  | ffma (d a b c : F7)
  | imad (d a b c : F7)
  | ld (d a b : F7) (w : Width) (byp : Bool)
  | ldVaryingAddress (d a : F7) (w : Width) (byp : Bool)
  | st (d a b : F7) (w : Width)
  | stVaryingAddress (d a : F7) (w : Width)
  | ldc (d a b : F7) (m : BitVec 2) (byp : Bool)
  | ldcVaryingAddress (d a : F7) (m : BitVec 2) (byp : Bool)
  | stc (d a b : F7) (m : BitVec 2)
  | stcVaryingAddress (d a : F7) (m : BitVec 2)
  | ldp (d a b : F7) (w : Width)
  | stp (d a b : F7) (w : Width)
  | boset (a b : F7)
  | boadd (a b : F7)
  | bowait (a b : F7)
  | bopoll (d a b : F7)
  | bar
  | pref (a : F7)
  | atomAddI32 (d a b : F7) (o : AtomOrder)
  | atomAddF32 (d a b : F7) (o : AtomOrder)
  | atomMinI32 (d a b : F7) (o : AtomOrder)
  | atomMinN32 (d a b : F7) (o : AtomOrder)
  | atomMaxI32 (d a b : F7) (o : AtomOrder)
  | atomMaxN32 (d a b : F7) (o : AtomOrder)
  | atomXchg (d a b : F7) (o : AtomOrder)
  | atomCas (d a b : F7) (o : AtomOrder)
  | atomAnd (d a b : F7) (o : AtomOrder)
  | atomOr (d a b : F7) (o : AtomOrder)
  | atomXor (d a b : F7) (o : AtomOrder)
  | qpush (a b : F7)
  | qpushUniform (a b : F7)
  | qpop (d a : F7)
  | qpopUniform (d a : F7)
  | qpopElect (d a : F7)
  | fence (o : FenceOrder) (q : Scope)
  | cpy (a b : F7)
  | gather (a b : F7)
  | scatter (a b : F7)
  | mma (a b : F7)
  | mmadrain (a b : F7)
  | idxwalk (a b : F7)
  | cstore (a b : F7)
  | cload (a b : F7)
  | coll (a b : F7)
  | batchCopy (d : F7)
  | batchGather (d : F7)
  | batchMatrix (d : F7)
  | batchIndex (d : F7)
  | batchColl (d : F7)
  | bwaitCopy (a : F7)
  | bwaitGather (a : F7)
  | bwaitMatrix (a : F7)
  | bwaitIndex (a : F7)
  | bwaitColl (a : F7)
  | bstatCopy (d a : F7)
  | bstatGather (d a : F7)
  | bstatMatrix (d a : F7)
  | bstatIndex (d a : F7)
  | bstatColl (d a : F7)
  | kenc (d a : F7)
  | kdec (d a : F7)
  | klevel (d a : F7)
  | kparent (d a : F7)
  | kchild (d a b : F7)
  | klocate (d a : F7)
  | kowner (d a : F7)
  | knbrXm (d a : F7)
  | knbrXp (d a : F7)
  | knbrYm (d a : F7)
  | knbrYp (d a : F7)
  | knbrZm (d a : F7)
  | knbrZp (d a : F7)
  | krefine (d a : F7)
  | kcoarsen (d a : F7)
  | kcost (a b : F7)
  | kcommit
  | krebal (d a : F7)
  | ordb
  | orde
  | ordstat (d : F7)
  | rinvKey (d a b : F7)
  | rinvPkg (d a b : F7)
  | rinvHdl (d a b : F7)
  | rawait (d a b : F7)
  | rawaitTrap (d a : F7)
  | rpoll (d a : F7)
  | rdrop (a : F7)
  | sysrd (d a : F7)
  | syswr (a b : F7)
  | tlbfill (a b : F7)
  | tlbinv (a : F7)
  | logrd (d a : F7)
  | eret
  | clock (d : F7)
  | timewait (a : F7)
  deriving DecidableEq, Repr

end Sys2Proof
end

