-- ==== Sys2Proof/Decode.lean ====
section
/-! DEFINITION. Instruction words: the kinds of operand fields (R80), the shape of every encoded instruction
(R85 to R93, with the roles its own chapter gives its fields), the clause header (R73), the decoder,
and after it the encoder. The decoder is total and rejects by name: a reserved cell (R84, code 2 of R94),
a non-zero unused field (R81, code 3), literal words missing. Field values outside their kind's range are
judged when the word would issue (Machine/Operands.lean), because they depend on the budget (R22). -/

namespace Sys2Proof

/-- The kinds of operand fields (R80). `sn n` is a run of n uniform registers. -/
inductive Kind where
  | s | s2 | s8 | sn (n : Nat) | a | v | v2 | v3 | v4 | p | x | fm | ix | c | sc
  deriving DecidableEq, Repr

/-- Whether a field is read, written, or both. -/
inductive Role where
  | src | dst | rw
  deriving DecidableEq, Repr

structure Opd where
  kind : Kind
  role : Role
  val  : F7
  deriving DecidableEq, Repr

/-- The shape of an instruction word: CLASS, FN (OP for class 111), SUB, the operand fields that are used,
and the literal words after it (R71, R72, R74). `none` is a field the opcode map marks with a dash. -/
structure Shape where
  cls  : Nat
  fn   : Nat
  sub  : Nat
  d    : Option Opd
  a    : Option Opd
  b    : Option Opd
  c    : Option Opd
  lits : List Word
  deriving DecidableEq, Repr

def Width.code : Width → Nat
  | .b8 => 0 | .b16 => 1 | .b32 => 2 | .b64 => 3 | .b128 => 4

def Width.ofCode : Nat → Option Width
  | 0 => some .b8 | 1 => some .b16 | 2 => some .b32 | 3 => some .b64 | 4 => some .b128
  | _ => none

/-- Bytes of one access (R206). -/
def Width.bytes : Width → Nat
  | .b8 => 1 | .b16 => 2 | .b32 => 4 | .b64 => 8 | .b128 => 16

/-- Registers of the data field (R91). -/
def Width.regs : Width → Nat
  | .b8 => 1 | .b16 => 1 | .b32 => 1 | .b64 => 2 | .b128 => 4

/-- Kind of the data field (R91). -/
def Width.dataKind : Width → Kind
  | .b8 => .v | .b16 => .v | .b32 => .v | .b64 => .v2 | .b128 => .v4

def AtomOrder.code : AtomOrder → Nat
  | .relaxed => 0 | .acq => 1 | .rel => 2 | .full => 3

def AtomOrder.ofCode : Nat → AtomOrder
  | 0 => .relaxed | 1 => .acq | 2 => .rel | _ => .full

def FenceOrder.code : FenceOrder → Nat
  | .acq => 0 | .rel => 1 | .full => 2

def FenceOrder.ofCode : Nat → Option FenceOrder
  | 0 => some .acq | 1 => some .rel | 2 => some .full
  | _ => none

def Scope.code : Scope → Nat
  | .group => 0 | .team => 1 | .core => 2 | .pair => 3 | .cluster => 4 | .quarter => 5
  | .package => 6 | .fabric => 7

def Scope.ofCode : Nat → Scope
  | 0 => .group | 1 => .team | 2 => .core | 3 => .pair | 4 => .cluster | 5 => .quarter
  | 6 => .package | _ => .fabric

def ShflW.code : ShflW → Nat
  | .w16 => 0 | .w32 => 1 | .w64 => 2 | .w96 => 3

def ShflW.ofCode : Nat → ShflW
  | 0 => .w16 | 1 => .w32 | 2 => .w64 | _ => .w96

/-- Lanes of a SHFL sub-group (R90). -/
def ShflW.lanes : ShflW → Nat
  | .w16 => 16 | .w32 => 32 | .w64 => 64 | .w96 => 96

/-- The shape of every instruction with an encoding; `none` for the rows that have no word. -/
@[inline] def Instr.shape : Instr → Option Shape
  | .clauseStart => none
  | .clauseBoundary => none
  | .splitRotate => none
  | .nop => some ⟨0, 0, 0, none, none, none, none, []⟩
  | .braLikely a lit => some ⟨0, 1, 0, none, some ⟨.c, .src, a⟩, none, none, [lit]⟩
  | .braUnlikely a lit => some ⟨0, 1, 1, none, some ⟨.c, .src, a⟩, none, none, [lit]⟩
  | .braUniform a lit => some ⟨0, 1, 2, none, some ⟨.c, .src, a⟩, none, none, [lit]⟩
  | .bra a lit => some ⟨0, 1, 3, none, some ⟨.c, .src, a⟩, none, none, [lit]⟩
  | .brx a b => some ⟨0, 1, 4, none, some ⟨.c, .src, a⟩, some ⟨.s, .src, b⟩, none, []⟩
  | .call d a b => some ⟨0, 1, 5, some ⟨.v, .dst, d⟩, some ⟨.c, .src, a⟩, some ⟨.s, .src, b⟩, none, []⟩
  | .ret a => some ⟨0, 1, 6, none, some ⟨.v, .src, a⟩, none, none, []⟩
  | .ppush a => some ⟨0, 2, 0, none, some ⟨.p, .src, a⟩, none, none, []⟩
  | .pinv => some ⟨0, 2, 1, none, none, none, none, []⟩
  | .ppop => some ⟨0, 2, 2, none, none, none, none, []⟩
  | .setmode a => some ⟨0, 3, 0, none, some ⟨.s, .src, a⟩, none, none, []⟩
  | .getmode d => some ⟨0, 3, 1, some ⟨.v, .dst, d⟩, none, none, none, []⟩
  | .setfmt d a => some ⟨0, 3, 2, some ⟨.fm, .dst, d⟩, some ⟨.s, .src, a⟩, none, none, []⟩
  | .getfmt d a => some ⟨0, 3, 3, some ⟨.v, .dst, d⟩, some ⟨.fm, .src, a⟩, none, none, []⟩
  | .spawn d a b => some ⟨0, 4, 0, some ⟨.p, .dst, d⟩, some ⟨.s8, .src, a⟩, some ⟨.s, .src, b⟩, none, []⟩
  | .exit => some ⟨0, 4, 1, none, none, none, none, []⟩
  | .yield => some ⟨0, 4, 2, none, none, none, none, []⟩
  | .trap a => some ⟨0, 5, 0, none, some ⟨.s, .src, a⟩, none, none, []⟩
  | .bkpt => some ⟨0, 5, 1, none, none, none, none, []⟩
  | .sadd d a b => some ⟨1, 0, 0, some ⟨.s, .dst, d⟩, some ⟨.s, .src, a⟩, some ⟨.s, .src, b⟩, none, []⟩
  | .ssub d a b => some ⟨1, 0, 1, some ⟨.s, .dst, d⟩, some ⟨.s, .src, a⟩, some ⟨.s, .src, b⟩, none, []⟩
  | .smul d a b => some ⟨1, 0, 2, some ⟨.s, .dst, d⟩, some ⟨.s, .src, a⟩, some ⟨.s, .src, b⟩, none, []⟩
  | .smulhiI32 d a b => some ⟨1, 0, 3, some ⟨.s, .dst, d⟩, some ⟨.s, .src, a⟩, some ⟨.s, .src, b⟩, none, []⟩
  | .smulhiN32 d a b => some ⟨1, 0, 4, some ⟨.s, .dst, d⟩, some ⟨.s, .src, a⟩, some ⟨.s, .src, b⟩, none, []⟩
  | .sdivI32 d a b => some ⟨1, 0, 5, some ⟨.s, .dst, d⟩, some ⟨.s, .src, a⟩, some ⟨.s, .src, b⟩, none, []⟩
  | .sdivN32 d a b => some ⟨1, 0, 6, some ⟨.s, .dst, d⟩, some ⟨.s, .src, a⟩, some ⟨.s, .src, b⟩, none, []⟩
  | .sremI32 d a b => some ⟨1, 0, 7, some ⟨.s, .dst, d⟩, some ⟨.s, .src, a⟩, some ⟨.s, .src, b⟩, none, []⟩
  | .sremN32 d a b => some ⟨1, 0, 8, some ⟨.s, .dst, d⟩, some ⟨.s, .src, a⟩, some ⟨.s, .src, b⟩, none, []⟩
  | .sminI32 d a b => some ⟨1, 0, 9, some ⟨.s, .dst, d⟩, some ⟨.s, .src, a⟩, some ⟨.s, .src, b⟩, none, []⟩
  | .sminN32 d a b => some ⟨1, 0, 10, some ⟨.s, .dst, d⟩, some ⟨.s, .src, a⟩, some ⟨.s, .src, b⟩, none, []⟩
  | .smaxI32 d a b => some ⟨1, 0, 11, some ⟨.s, .dst, d⟩, some ⟨.s, .src, a⟩, some ⟨.s, .src, b⟩, none, []⟩
  | .smaxN32 d a b => some ⟨1, 0, 12, some ⟨.s, .dst, d⟩, some ⟨.s, .src, a⟩, some ⟨.s, .src, b⟩, none, []⟩
  | .saddSatI32 d a b => some ⟨1, 0, 13, some ⟨.s, .dst, d⟩, some ⟨.s, .src, a⟩, some ⟨.s, .src, b⟩, none, []⟩
  | .saddSatN32 d a b => some ⟨1, 0, 14, some ⟨.s, .dst, d⟩, some ⟨.s, .src, a⟩, some ⟨.s, .src, b⟩, none, []⟩
  | .ssubSatI32 d a b => some ⟨1, 0, 15, some ⟨.s, .dst, d⟩, some ⟨.s, .src, a⟩, some ⟨.s, .src, b⟩, none, []⟩
  | .ssubSatN32 d a b => some ⟨1, 0, 16, some ⟨.s, .dst, d⟩, some ⟨.s, .src, a⟩, some ⟨.s, .src, b⟩, none, []⟩
  | .sand d a b => some ⟨1, 1, 0, some ⟨.s, .dst, d⟩, some ⟨.s, .src, a⟩, some ⟨.s, .src, b⟩, none, []⟩
  | .sor d a b => some ⟨1, 1, 1, some ⟨.s, .dst, d⟩, some ⟨.s, .src, a⟩, some ⟨.s, .src, b⟩, none, []⟩
  | .sxor d a b => some ⟨1, 1, 2, some ⟨.s, .dst, d⟩, some ⟨.s, .src, a⟩, some ⟨.s, .src, b⟩, none, []⟩
  | .sshl d a b => some ⟨1, 1, 3, some ⟨.s, .dst, d⟩, some ⟨.s, .src, a⟩, some ⟨.s, .src, b⟩, none, []⟩
  | .sshrN32 d a b => some ⟨1, 1, 4, some ⟨.s, .dst, d⟩, some ⟨.s, .src, a⟩, some ⟨.s, .src, b⟩, none, []⟩
  | .sshrI32 d a b => some ⟨1, 1, 5, some ⟨.s, .dst, d⟩, some ⟨.s, .src, a⟩, some ⟨.s, .src, b⟩, none, []⟩
  | .snot d a => some ⟨1, 1, 8, some ⟨.s, .dst, d⟩, some ⟨.s, .src, a⟩, none, none, []⟩
  | .spopc d a => some ⟨1, 1, 9, some ⟨.s, .dst, d⟩, some ⟨.s, .src, a⟩, none, none, []⟩
  | .sclz d a => some ⟨1, 1, 10, some ⟨.s, .dst, d⟩, some ⟨.s, .src, a⟩, none, none, []⟩
  | .smov d a => some ⟨1, 1, 11, some ⟨.s, .dst, d⟩, some ⟨.s, .src, a⟩, none, none, []⟩
  | .ssetEq d a b => some ⟨1, 2, 0, some ⟨.s, .dst, d⟩, some ⟨.s, .src, a⟩, some ⟨.s, .src, b⟩, none, []⟩
  | .ssetNe d a b => some ⟨1, 2, 1, some ⟨.s, .dst, d⟩, some ⟨.s, .src, a⟩, some ⟨.s, .src, b⟩, none, []⟩
  | .ssetLtI32 d a b => some ⟨1, 2, 2, some ⟨.s, .dst, d⟩, some ⟨.s, .src, a⟩, some ⟨.s, .src, b⟩, none, []⟩
  | .ssetLeI32 d a b => some ⟨1, 2, 3, some ⟨.s, .dst, d⟩, some ⟨.s, .src, a⟩, some ⟨.s, .src, b⟩, none, []⟩
  | .ssetLtN32 d a b => some ⟨1, 2, 4, some ⟨.s, .dst, d⟩, some ⟨.s, .src, a⟩, some ⟨.s, .src, b⟩, none, []⟩
  | .ssetLeN32 d a b => some ⟨1, 2, 5, some ⟨.s, .dst, d⟩, some ⟨.s, .src, a⟩, some ⟨.s, .src, b⟩, none, []⟩
  | .slit d lit => some ⟨1, 3, 0, some ⟨.s, .dst, d⟩, none, none, none, [lit]⟩
  | .slit64 d lo hi => some ⟨1, 3, 1, some ⟨.s2, .dst, d⟩, none, none, none, [lo, hi]⟩
  | .sadd64 d a b => some ⟨1, 4, 0, some ⟨.s2, .dst, d⟩, some ⟨.s2, .src, a⟩, some ⟨.s2, .src, b⟩, none, []⟩
  | .ssub64 d a b => some ⟨1, 4, 1, some ⟨.s2, .dst, d⟩, some ⟨.s2, .src, a⟩, some ⟨.s2, .src, b⟩, none, []⟩
  | .sshl64 d a b => some ⟨1, 4, 2, some ⟨.s2, .dst, d⟩, some ⟨.s2, .src, a⟩, some ⟨.s, .src, b⟩, none, []⟩
  | .sshr64 d a b => some ⟨1, 4, 3, some ⟨.s2, .dst, d⟩, some ⟨.s2, .src, a⟩, some ⟨.s, .src, b⟩, none, []⟩
  | .aadd d a b => some ⟨2, 0, 0, some ⟨.a, .dst, d⟩, some ⟨.a, .src, a⟩, some ⟨.a, .src, b⟩, none, []⟩
  | .asub d a b => some ⟨2, 0, 1, some ⟨.a, .dst, d⟩, some ⟨.a, .src, a⟩, some ⟨.a, .src, b⟩, none, []⟩
  | .aaddC d a b => some ⟨2, 0, 8, some ⟨.a, .dst, d⟩, some ⟨.a, .src, a⟩, some ⟨.a, .src, b⟩, none, []⟩
  | .asubC d a b => some ⟨2, 0, 9, some ⟨.a, .dst, d⟩, some ⟨.a, .src, a⟩, some ⟨.a, .src, b⟩, none, []⟩
  | .amov d a => some ⟨2, 0, 16, some ⟨.a, .dst, d⟩, some ⟨.a, .src, a⟩, none, none, []⟩
  | .aaddu d a b => some ⟨2, 1, 0, some ⟨.a, .dst, d⟩, some ⟨.a, .src, a⟩, some ⟨.s, .src, b⟩, none, []⟩
  | .asubu d a b => some ⟨2, 1, 1, some ⟨.a, .dst, d⟩, some ⟨.a, .src, a⟩, some ⟨.s, .src, b⟩, none, []⟩
  | .amulu d a b => some ⟨2, 1, 2, some ⟨.a, .dst, d⟩, some ⟨.a, .src, a⟩, some ⟨.s, .src, b⟩, none, []⟩
  | .ashlu d a b => some ⟨2, 1, 3, some ⟨.a, .dst, d⟩, some ⟨.a, .src, a⟩, some ⟨.s, .src, b⟩, none, []⟩
  | .aadduC d a b => some ⟨2, 1, 8, some ⟨.a, .dst, d⟩, some ⟨.a, .src, a⟩, some ⟨.s, .src, b⟩, none, []⟩
  | .asubuC d a b => some ⟨2, 1, 9, some ⟨.a, .dst, d⟩, some ⟨.a, .src, a⟩, some ⟨.s, .src, b⟩, none, []⟩
  | .amuluC d a b => some ⟨2, 1, 10, some ⟨.a, .dst, d⟩, some ⟨.a, .src, a⟩, some ⟨.s, .src, b⟩, none, []⟩
  | .ashluC d a b => some ⟨2, 1, 11, some ⟨.a, .dst, d⟩, some ⟨.a, .src, a⟩, some ⟨.s, .src, b⟩, none, []⟩
  | .astride d a b => some ⟨2, 1, 16, some ⟨.a, .dst, d⟩, some ⟨.a, .src, a⟩, some ⟨.s, .src, b⟩, none, []⟩
  | .utoa d a => some ⟨2, 2, 0, some ⟨.a, .dst, d⟩, some ⟨.s2, .src, a⟩, none, none, []⟩
  | .utov d a => some ⟨2, 2, 1, some ⟨.v, .dst, d⟩, some ⟨.s, .src, a⟩, none, none, []⟩
  | .atov d a => some ⟨2, 2, 2, some ⟨.v, .dst, d⟩, some ⟨.a, .src, a⟩, none, none, []⟩
  | .atou d a => some ⟨2, 2, 3, some ⟨.s2, .dst, d⟩, some ⟨.a, .src, a⟩, none, none, []⟩
  | .lanea d => some ⟨2, 2, 4, some ⟨.a, .dst, d⟩, none, none, none, []⟩
  | .readfirst d a => some ⟨2, 3, 0, some ⟨.s, .dst, d⟩, some ⟨.v, .src, a⟩, none, none, []⟩
  | .vtouEq d a => some ⟨2, 3, 1, some ⟨.s, .dst, d⟩, some ⟨.v, .src, a⟩, none, none, []⟩
  | .elect d a => some ⟨2, 3, 2, some ⟨.s, .dst, d⟩, some ⟨.p, .src, a⟩, none, none, []⟩
  | .vadd d a b => some ⟨3, 0, 0, some ⟨.v, .dst, d⟩, some ⟨.v, .src, a⟩, some ⟨.v, .src, b⟩, none, []⟩
  | .vsub d a b => some ⟨3, 0, 1, some ⟨.v, .dst, d⟩, some ⟨.v, .src, a⟩, some ⟨.v, .src, b⟩, none, []⟩
  | .vmul d a b => some ⟨3, 0, 2, some ⟨.v, .dst, d⟩, some ⟨.v, .src, a⟩, some ⟨.v, .src, b⟩, none, []⟩
  | .vmulhiI32 d a b => some ⟨3, 0, 3, some ⟨.v, .dst, d⟩, some ⟨.v, .src, a⟩, some ⟨.v, .src, b⟩, none, []⟩
  | .vmulhiN32 d a b => some ⟨3, 0, 4, some ⟨.v, .dst, d⟩, some ⟨.v, .src, a⟩, some ⟨.v, .src, b⟩, none, []⟩
  | .vminI32 d a b => some ⟨3, 0, 9, some ⟨.v, .dst, d⟩, some ⟨.v, .src, a⟩, some ⟨.v, .src, b⟩, none, []⟩
  | .vminN32 d a b => some ⟨3, 0, 10, some ⟨.v, .dst, d⟩, some ⟨.v, .src, a⟩, some ⟨.v, .src, b⟩, none, []⟩
  | .vmaxI32 d a b => some ⟨3, 0, 11, some ⟨.v, .dst, d⟩, some ⟨.v, .src, a⟩, some ⟨.v, .src, b⟩, none, []⟩
  | .vmaxN32 d a b => some ⟨3, 0, 12, some ⟨.v, .dst, d⟩, some ⟨.v, .src, a⟩, some ⟨.v, .src, b⟩, none, []⟩
  | .vaddSatI32 d a b => some ⟨3, 0, 13, some ⟨.v, .dst, d⟩, some ⟨.v, .src, a⟩, some ⟨.v, .src, b⟩, none, []⟩
  | .vaddSatN32 d a b => some ⟨3, 0, 14, some ⟨.v, .dst, d⟩, some ⟨.v, .src, a⟩, some ⟨.v, .src, b⟩, none, []⟩
  | .vsubSatI32 d a b => some ⟨3, 0, 15, some ⟨.v, .dst, d⟩, some ⟨.v, .src, a⟩, some ⟨.v, .src, b⟩, none, []⟩
  | .vsubSatN32 d a b => some ⟨3, 0, 16, some ⟨.v, .dst, d⟩, some ⟨.v, .src, a⟩, some ⟨.v, .src, b⟩, none, []⟩
  | .vand d a b => some ⟨3, 1, 0, some ⟨.v, .dst, d⟩, some ⟨.v, .src, a⟩, some ⟨.v, .src, b⟩, none, []⟩
  | .vor d a b => some ⟨3, 1, 1, some ⟨.v, .dst, d⟩, some ⟨.v, .src, a⟩, some ⟨.v, .src, b⟩, none, []⟩
  | .vxor d a b => some ⟨3, 1, 2, some ⟨.v, .dst, d⟩, some ⟨.v, .src, a⟩, some ⟨.v, .src, b⟩, none, []⟩
  | .vshl d a b => some ⟨3, 1, 3, some ⟨.v, .dst, d⟩, some ⟨.v, .src, a⟩, some ⟨.v, .src, b⟩, none, []⟩
  | .vshrN32 d a b => some ⟨3, 1, 4, some ⟨.v, .dst, d⟩, some ⟨.v, .src, a⟩, some ⟨.v, .src, b⟩, none, []⟩
  | .vshrI32 d a b => some ⟨3, 1, 5, some ⟨.v, .dst, d⟩, some ⟨.v, .src, a⟩, some ⟨.v, .src, b⟩, none, []⟩
  | .vbfeN32 d a b => some ⟨3, 1, 6, some ⟨.v, .dst, d⟩, some ⟨.v, .src, a⟩, some ⟨.v, .src, b⟩, none, []⟩
  | .vbfeI32 d a b => some ⟨3, 1, 7, some ⟨.v, .dst, d⟩, some ⟨.v, .src, a⟩, some ⟨.v, .src, b⟩, none, []⟩
  | .vnot d a => some ⟨3, 1, 8, some ⟨.v, .dst, d⟩, some ⟨.v, .src, a⟩, none, none, []⟩
  | .vpopc d a => some ⟨3, 1, 9, some ⟨.v, .dst, d⟩, some ⟨.v, .src, a⟩, none, none, []⟩
  | .vclz d a => some ⟨3, 1, 10, some ⟨.v, .dst, d⟩, some ⟨.v, .src, a⟩, none, none, []⟩
  | .vmov d a => some ⟨3, 1, 11, some ⟨.v, .dst, d⟩, some ⟨.v, .src, a⟩, none, none, []⟩
  | .vbrev d a => some ⟨3, 1, 12, some ⟨.v, .dst, d⟩, some ⟨.v, .src, a⟩, none, none, []⟩
  | .vbfi d a b => some ⟨3, 1, 13, some ⟨.v, .rw, d⟩, some ⟨.v, .src, a⟩, some ⟨.v, .src, b⟩, none, []⟩
  | .vcmpEq d a b => some ⟨3, 2, 0, some ⟨.p, .dst, d⟩, some ⟨.v, .src, a⟩, some ⟨.v, .src, b⟩, none, []⟩
  | .vcmpNe d a b => some ⟨3, 2, 1, some ⟨.p, .dst, d⟩, some ⟨.v, .src, a⟩, some ⟨.v, .src, b⟩, none, []⟩
  | .vcmpLtI32 d a b => some ⟨3, 2, 2, some ⟨.p, .dst, d⟩, some ⟨.v, .src, a⟩, some ⟨.v, .src, b⟩, none, []⟩
  | .vcmpLeI32 d a b => some ⟨3, 2, 3, some ⟨.p, .dst, d⟩, some ⟨.v, .src, a⟩, some ⟨.v, .src, b⟩, none, []⟩
  | .vcmpLtN32 d a b => some ⟨3, 2, 4, some ⟨.p, .dst, d⟩, some ⟨.v, .src, a⟩, some ⟨.v, .src, b⟩, none, []⟩
  | .vcmpLeN32 d a b => some ⟨3, 2, 5, some ⟨.p, .dst, d⟩, some ⟨.v, .src, a⟩, some ⟨.v, .src, b⟩, none, []⟩
  | .pand d a b => some ⟨3, 2, 8, some ⟨.p, .dst, d⟩, some ⟨.p, .src, a⟩, some ⟨.p, .src, b⟩, none, []⟩
  | .por d a b => some ⟨3, 2, 9, some ⟨.p, .dst, d⟩, some ⟨.p, .src, a⟩, some ⟨.p, .src, b⟩, none, []⟩
  | .pxor d a b => some ⟨3, 2, 10, some ⟨.p, .dst, d⟩, some ⟨.p, .src, a⟩, some ⟨.p, .src, b⟩, none, []⟩
  | .pnot d a => some ⟨3, 2, 11, some ⟨.p, .dst, d⟩, some ⟨.p, .src, a⟩, none, none, []⟩
  | .pmov d a => some ⟨3, 2, 12, some ⟨.p, .dst, d⟩, some ⟨.p, .src, a⟩, none, none, []⟩
  | .vxrd d a => some ⟨3, 3, 0, some ⟨.v, .dst, d⟩, some ⟨.ix, .src, a⟩, none, none, []⟩
  | .vxwr d a => some ⟨3, 3, 1, some ⟨.ix, .dst, d⟩, some ⟨.v, .src, a⟩, none, none, []⟩
  | .xset d a => some ⟨3, 3, 2, some ⟨.x, .dst, d⟩, some ⟨.v, .src, a⟩, none, none, []⟩
  | .xget d a => some ⟨3, 3, 3, some ⟨.v, .dst, d⟩, some ⟨.x, .src, a⟩, none, none, []⟩
  | .xadd d a b => some ⟨3, 3, 4, some ⟨.x, .dst, d⟩, some ⟨.x, .src, a⟩, some ⟨.s, .src, b⟩, none, []⟩
  | .vrand d a b => some ⟨3, 4, 0, some ⟨.v4, .dst, d⟩, some ⟨.s2, .src, a⟩, some ⟨.v4, .src, b⟩, none, []⟩
  | .shflIdx d a b w => some ⟨3, 5, 0 + w.code, some ⟨.v, .dst, d⟩, some ⟨.v, .src, a⟩, some ⟨.v, .src, b⟩, none, []⟩
  | .shflUp d a b w => some ⟨3, 5, 4 + w.code, some ⟨.v, .dst, d⟩, some ⟨.v, .src, a⟩, some ⟨.s, .src, b⟩, none, []⟩
  | .shflDown d a b w => some ⟨3, 5, 8 + w.code, some ⟨.v, .dst, d⟩, some ⟨.v, .src, a⟩, some ⟨.s, .src, b⟩, none, []⟩
  | .shflXor d a b w => some ⟨3, 5, 12 + w.code, some ⟨.v, .dst, d⟩, some ⟨.v, .src, a⟩, some ⟨.s, .src, b⟩, none, []⟩
  | .reduce d a b => some ⟨3, 5, 16, some ⟨.s, .dst, d⟩, some ⟨.s, .src, a⟩, some ⟨.v, .src, b⟩, none, []⟩
  | .reduceVarying d a b => some ⟨3, 5, 17, some ⟨.v, .dst, d⟩, some ⟨.s, .src, a⟩, some ⟨.v, .src, b⟩, none, []⟩
  | .reduceMini d a b => some ⟨3, 5, 18, some ⟨.s2, .dst, d⟩, some ⟨.s, .src, a⟩, some ⟨.v, .src, b⟩, none, []⟩
  | .scan d a b => some ⟨3, 5, 19, some ⟨.v, .dst, d⟩, some ⟨.s, .src, a⟩, some ⟨.v, .src, b⟩, none, []⟩
  | .scanExcl d a b => some ⟨3, 5, 20, some ⟨.v, .dst, d⟩, some ⟨.s, .src, a⟩, some ⟨.v, .src, b⟩, none, []⟩
  | .voteAll d a => some ⟨3, 5, 21, some ⟨.s, .dst, d⟩, some ⟨.p, .src, a⟩, none, none, []⟩
  | .voteAny d a => some ⟨3, 5, 22, some ⟨.s, .dst, d⟩, some ⟨.p, .src, a⟩, none, none, []⟩
  | .ballot d a => some ⟨3, 5, 23, some ⟨.v3, .dst, d⟩, some ⟨.p, .src, a⟩, none, none, []⟩
  | .spread d a b => some ⟨3, 5, 24, some ⟨.v2, .dst, d⟩, some ⟨.v, .src, a⟩, some ⟨.s, .rw, b⟩, none, []⟩
  | .fadd d a b => some ⟨4, 0, 0, some ⟨.v, .dst, d⟩, some ⟨.v, .src, a⟩, some ⟨.v, .src, b⟩, none, []⟩
  | .fsub d a b => some ⟨4, 0, 1, some ⟨.v, .dst, d⟩, some ⟨.v, .src, a⟩, some ⟨.v, .src, b⟩, none, []⟩
  | .fmul d a b => some ⟨4, 0, 2, some ⟨.v, .dst, d⟩, some ⟨.v, .src, a⟩, some ⟨.v, .src, b⟩, none, []⟩
  | .fmin d a b => some ⟨4, 0, 3, some ⟨.v, .dst, d⟩, some ⟨.v, .src, a⟩, some ⟨.v, .src, b⟩, none, []⟩
  | .fmax d a b => some ⟨4, 0, 4, some ⟨.v, .dst, d⟩, some ⟨.v, .src, a⟩, some ⟨.v, .src, b⟩, none, []⟩
  | .fabs d a => some ⟨4, 0, 8, some ⟨.v, .dst, d⟩, some ⟨.v, .src, a⟩, none, none, []⟩
  | .fneg d a => some ⟨4, 0, 9, some ⟨.v, .dst, d⟩, some ⟨.v, .src, a⟩, none, none, []⟩
  | .frint d a => some ⟨4, 0, 10, some ⟨.v, .dst, d⟩, some ⟨.v, .src, a⟩, none, none, []⟩
  | .fcmpEq d a b => some ⟨4, 1, 0, some ⟨.p, .dst, d⟩, some ⟨.v, .src, a⟩, some ⟨.v, .src, b⟩, none, []⟩
  | .fcmpNe d a b => some ⟨4, 1, 1, some ⟨.p, .dst, d⟩, some ⟨.v, .src, a⟩, some ⟨.v, .src, b⟩, none, []⟩
  | .fcmpLt d a b => some ⟨4, 1, 2, some ⟨.p, .dst, d⟩, some ⟨.v, .src, a⟩, some ⟨.v, .src, b⟩, none, []⟩
  | .fcmpLe d a b => some ⟨4, 1, 3, some ⟨.p, .dst, d⟩, some ⟨.v, .src, a⟩, some ⟨.v, .src, b⟩, none, []⟩
  | .fcmpUn d a b => some ⟨4, 1, 4, some ⟨.p, .dst, d⟩, some ⟨.v, .src, a⟩, some ⟨.v, .src, b⟩, none, []⟩
  | .hadd d a b => some ⟨4, 2, 0, some ⟨.v, .dst, d⟩, some ⟨.v, .src, a⟩, some ⟨.v, .src, b⟩, none, []⟩
  | .hsub d a b => some ⟨4, 2, 1, some ⟨.v, .dst, d⟩, some ⟨.v, .src, a⟩, some ⟨.v, .src, b⟩, none, []⟩
  | .hmul d a b => some ⟨4, 2, 2, some ⟨.v, .dst, d⟩, some ⟨.v, .src, a⟩, some ⟨.v, .src, b⟩, none, []⟩
  | .hmin d a b => some ⟨4, 2, 3, some ⟨.v, .dst, d⟩, some ⟨.v, .src, a⟩, some ⟨.v, .src, b⟩, none, []⟩
  | .hmax d a b => some ⟨4, 2, 4, some ⟨.v, .dst, d⟩, some ⟨.v, .src, a⟩, some ⟨.v, .src, b⟩, none, []⟩
  | .hfma d a b => some ⟨4, 2, 5, some ⟨.v, .rw, d⟩, some ⟨.v, .src, a⟩, some ⟨.v, .src, b⟩, none, []⟩
  | .f2iI32 d a => some ⟨4, 3, 0, some ⟨.v, .dst, d⟩, some ⟨.v, .src, a⟩, none, none, []⟩
  | .f2iN32 d a => some ⟨4, 3, 1, some ⟨.v, .dst, d⟩, some ⟨.v, .src, a⟩, none, none, []⟩
  | .i2fI32 d a => some ⟨4, 3, 2, some ⟨.v, .dst, d⟩, some ⟨.v, .src, a⟩, none, none, []⟩
  | .i2fN32 d a => some ⟨4, 3, 3, some ⟨.v, .dst, d⟩, some ⟨.v, .src, a⟩, none, none, []⟩
  | .h2fLo d a => some ⟨4, 3, 4, some ⟨.v, .dst, d⟩, some ⟨.v, .src, a⟩, none, none, []⟩
  | .h2fHi d a => some ⟨4, 3, 5, some ⟨.v, .dst, d⟩, some ⟨.v, .src, a⟩, none, none, []⟩
  | .f2h d a b => some ⟨4, 3, 8, some ⟨.v, .dst, d⟩, some ⟨.v, .src, a⟩, some ⟨.v, .src, b⟩, none, []⟩
  | .frcp d a => some ⟨4, 4, 0, some ⟨.v, .dst, d⟩, some ⟨.v, .src, a⟩, none, none, []⟩
  | .frsq d a => some ⟨4, 4, 1, some ⟨.v, .dst, d⟩, some ⟨.v, .src, a⟩, none, none, []⟩
  | .fsqrt d a => some ⟨4, 4, 2, some ⟨.v, .dst, d⟩, some ⟨.v, .src, a⟩, none, none, []⟩
  | .fexp2 d a => some ⟨4, 4, 3, some ⟨.v, .dst, d⟩, some ⟨.v, .src, a⟩, none, none, []⟩
  | .flog2 d a => some ⟨4, 4, 4, some ⟨.v, .dst, d⟩, some ⟨.v, .src, a⟩, none, none, []⟩
  | .fsin d a => some ⟨4, 4, 5, some ⟨.v, .dst, d⟩, some ⟨.v, .src, a⟩, none, none, []⟩
  | .fcos d a => some ⟨4, 4, 6, some ⟨.v, .dst, d⟩, some ⟨.v, .src, a⟩, none, none, []⟩
  | .ffma d a b c => some ⟨7, 0, 0, some ⟨.v, .dst, d⟩, some ⟨.v, .src, a⟩, some ⟨.v, .src, b⟩, some ⟨.v, .src, c⟩, []⟩
  | .imad d a b c => some ⟨7, 1, 0, some ⟨.v, .dst, d⟩, some ⟨.v, .src, a⟩, some ⟨.v, .src, b⟩, some ⟨.v, .src, c⟩, []⟩
  | .ld d a b w byp => some ⟨5, 0, w.code * 4 + byp.toNat * 2 + 0, some ⟨w.dataKind, .dst, d⟩, some ⟨.a, .src, a⟩, some ⟨.s, .src, b⟩, none, []⟩
  | .ldVaryingAddress d a w byp => some ⟨5, 0, w.code * 4 + byp.toNat * 2 + 1, some ⟨w.dataKind, .dst, d⟩, some ⟨.v2, .src, a⟩, none, none, []⟩
  | .st d a b w => some ⟨5, 1, w.code * 4 + 0, some ⟨w.dataKind, .src, d⟩, some ⟨.a, .src, a⟩, some ⟨.s, .src, b⟩, none, []⟩
  | .stVaryingAddress d a w => some ⟨5, 1, w.code * 4 + 1, some ⟨w.dataKind, .src, d⟩, some ⟨.v2, .src, a⟩, none, none, []⟩
  | .ldc d a b m byp => some ⟨5, 2, m.toNat * 4 + byp.toNat * 2 + 0, some ⟨.v, .dst, d⟩, some ⟨.a, .src, a⟩, some ⟨.s, .src, b⟩, none, []⟩
  | .ldcVaryingAddress d a m byp => some ⟨5, 2, m.toNat * 4 + byp.toNat * 2 + 1, some ⟨.v, .dst, d⟩, some ⟨.v2, .src, a⟩, none, none, []⟩
  | .stc d a b m => some ⟨5, 2, m.toNat * 4 + 16, some ⟨.v, .src, d⟩, some ⟨.a, .src, a⟩, some ⟨.s, .src, b⟩, none, []⟩
  | .stcVaryingAddress d a m => some ⟨5, 2, m.toNat * 4 + 17, some ⟨.v, .src, d⟩, some ⟨.v2, .src, a⟩, none, none, []⟩
  | .ldp d a b w => some ⟨5, 3, 0 + w.code, some ⟨w.dataKind, .dst, d⟩, some ⟨.v, .src, a⟩, some ⟨.s, .src, b⟩, none, []⟩
  | .stp d a b w => some ⟨5, 3, 16 + w.code, some ⟨w.dataKind, .src, d⟩, some ⟨.v, .src, a⟩, some ⟨.s, .src, b⟩, none, []⟩
  | .boset a b => some ⟨5, 3, 8, none, some ⟨.s, .src, a⟩, some ⟨.s, .src, b⟩, none, []⟩
  | .boadd a b => some ⟨5, 3, 9, none, some ⟨.s, .src, a⟩, some ⟨.s, .src, b⟩, none, []⟩
  | .bowait a b => some ⟨5, 3, 10, none, some ⟨.s, .src, a⟩, some ⟨.s, .src, b⟩, none, []⟩
  | .bopoll d a b => some ⟨5, 3, 11, some ⟨.p, .dst, d⟩, some ⟨.s, .src, a⟩, some ⟨.s, .src, b⟩, none, []⟩
  | .bar => some ⟨5, 3, 12, none, none, none, none, []⟩
  | .pref a => some ⟨5, 3, 13, none, some ⟨.a, .src, a⟩, none, none, []⟩
  | .atomAddI32 d a b o => some ⟨5, 4, 0 + o.code, some ⟨.v, .rw, d⟩, some ⟨.sc, .src, a⟩, some ⟨.v, .src, b⟩, none, []⟩
  | .atomAddF32 d a b o => some ⟨5, 4, 4 + o.code, some ⟨.v, .rw, d⟩, some ⟨.sc, .src, a⟩, some ⟨.v, .src, b⟩, none, []⟩
  | .atomMinI32 d a b o => some ⟨5, 4, 8 + o.code, some ⟨.v, .rw, d⟩, some ⟨.sc, .src, a⟩, some ⟨.v, .src, b⟩, none, []⟩
  | .atomMinN32 d a b o => some ⟨5, 4, 12 + o.code, some ⟨.v, .rw, d⟩, some ⟨.sc, .src, a⟩, some ⟨.v, .src, b⟩, none, []⟩
  | .atomMaxI32 d a b o => some ⟨5, 4, 16 + o.code, some ⟨.v, .rw, d⟩, some ⟨.sc, .src, a⟩, some ⟨.v, .src, b⟩, none, []⟩
  | .atomMaxN32 d a b o => some ⟨5, 4, 20 + o.code, some ⟨.v, .rw, d⟩, some ⟨.sc, .src, a⟩, some ⟨.v, .src, b⟩, none, []⟩
  | .atomXchg d a b o => some ⟨5, 4, 24 + o.code, some ⟨.v, .rw, d⟩, some ⟨.sc, .src, a⟩, some ⟨.v, .src, b⟩, none, []⟩
  | .atomCas d a b o => some ⟨5, 4, 28 + o.code, some ⟨.v2, .rw, d⟩, some ⟨.sc, .src, a⟩, some ⟨.v, .src, b⟩, none, []⟩
  | .atomAnd d a b o => some ⟨5, 5, 0 + o.code, some ⟨.v, .rw, d⟩, some ⟨.sc, .src, a⟩, some ⟨.v, .src, b⟩, none, []⟩
  | .atomOr d a b o => some ⟨5, 5, 4 + o.code, some ⟨.v, .rw, d⟩, some ⟨.sc, .src, a⟩, some ⟨.v, .src, b⟩, none, []⟩
  | .atomXor d a b o => some ⟨5, 5, 8 + o.code, some ⟨.v, .rw, d⟩, some ⟨.sc, .src, a⟩, some ⟨.v, .src, b⟩, none, []⟩
  | .qpush a b => some ⟨5, 6, 0, none, some ⟨.s, .src, a⟩, some ⟨.v, .src, b⟩, none, []⟩
  | .qpushUniform a b => some ⟨5, 6, 1, none, some ⟨.s, .src, a⟩, some ⟨.s, .src, b⟩, none, []⟩
  | .qpop d a => some ⟨5, 6, 2, some ⟨.v, .dst, d⟩, some ⟨.s, .src, a⟩, none, none, []⟩
  | .qpopUniform d a => some ⟨5, 6, 3, some ⟨.s, .dst, d⟩, some ⟨.s, .src, a⟩, none, none, []⟩
  | .qpopElect d a => some ⟨5, 6, 4, some ⟨.v, .dst, d⟩, some ⟨.s, .src, a⟩, none, none, []⟩
  | .fence o q => some ⟨5, 7, o.code * 8 + q.code, none, none, none, none, []⟩
  | .cpy a b => some ⟨6, 0, 0, none, some ⟨(.sn 8), .src, a⟩, some ⟨.s, .src, b⟩, none, []⟩
  | .gather a b => some ⟨6, 0, 1, none, some ⟨(.sn 8), .src, a⟩, some ⟨.s, .src, b⟩, none, []⟩
  | .scatter a b => some ⟨6, 0, 2, none, some ⟨(.sn 8), .src, a⟩, some ⟨.s, .src, b⟩, none, []⟩
  | .mma a b => some ⟨6, 0, 3, none, some ⟨(.sn 12), .src, a⟩, some ⟨.s, .src, b⟩, none, []⟩
  | .mmadrain a b => some ⟨6, 0, 4, none, some ⟨(.sn 16), .src, a⟩, some ⟨.s, .src, b⟩, none, []⟩
  | .idxwalk a b => some ⟨6, 0, 5, none, some ⟨(.sn 5), .src, a⟩, some ⟨.s, .src, b⟩, none, []⟩
  | .cstore a b => some ⟨6, 0, 6, none, some ⟨(.sn 8), .src, a⟩, some ⟨.s, .src, b⟩, none, []⟩
  | .cload a b => some ⟨6, 0, 7, none, some ⟨(.sn 8), .src, a⟩, some ⟨.s, .src, b⟩, none, []⟩
  | .coll a b => some ⟨6, 0, 8, none, some ⟨(.sn 6), .src, a⟩, some ⟨.s, .src, b⟩, none, []⟩
  | .batchCopy d => some ⟨6, 0, 16, some ⟨.s, .dst, d⟩, none, none, none, []⟩
  | .batchGather d => some ⟨6, 0, 17, some ⟨.s, .dst, d⟩, none, none, none, []⟩
  | .batchMatrix d => some ⟨6, 0, 18, some ⟨.s, .dst, d⟩, none, none, none, []⟩
  | .batchIndex d => some ⟨6, 0, 19, some ⟨.s, .dst, d⟩, none, none, none, []⟩
  | .batchColl d => some ⟨6, 0, 20, some ⟨.s, .dst, d⟩, none, none, none, []⟩
  | .bwaitCopy a => some ⟨6, 0, 21, none, some ⟨.s, .src, a⟩, none, none, []⟩
  | .bwaitGather a => some ⟨6, 0, 22, none, some ⟨.s, .src, a⟩, none, none, []⟩
  | .bwaitMatrix a => some ⟨6, 0, 23, none, some ⟨.s, .src, a⟩, none, none, []⟩
  | .bwaitIndex a => some ⟨6, 0, 24, none, some ⟨.s, .src, a⟩, none, none, []⟩
  | .bwaitColl a => some ⟨6, 0, 25, none, some ⟨.s, .src, a⟩, none, none, []⟩
  | .bstatCopy d a => some ⟨6, 0, 26, some ⟨.s, .dst, d⟩, some ⟨.s, .src, a⟩, none, none, []⟩
  | .bstatGather d a => some ⟨6, 0, 27, some ⟨.s, .dst, d⟩, some ⟨.s, .src, a⟩, none, none, []⟩
  | .bstatMatrix d a => some ⟨6, 0, 28, some ⟨.s, .dst, d⟩, some ⟨.s, .src, a⟩, none, none, []⟩
  | .bstatIndex d a => some ⟨6, 0, 29, some ⟨.s, .dst, d⟩, some ⟨.s, .src, a⟩, none, none, []⟩
  | .bstatColl d a => some ⟨6, 0, 30, some ⟨.s, .dst, d⟩, some ⟨.s, .src, a⟩, none, none, []⟩
  | .kenc d a => some ⟨6, 1, 0, some ⟨.v2, .dst, d⟩, some ⟨.v4, .src, a⟩, none, none, []⟩
  | .kdec d a => some ⟨6, 1, 1, some ⟨.v4, .dst, d⟩, some ⟨.v2, .src, a⟩, none, none, []⟩
  | .klevel d a => some ⟨6, 1, 2, some ⟨.v, .dst, d⟩, some ⟨.v2, .src, a⟩, none, none, []⟩
  | .kparent d a => some ⟨6, 1, 3, some ⟨.v2, .dst, d⟩, some ⟨.v2, .src, a⟩, none, none, []⟩
  | .kchild d a b => some ⟨6, 1, 4, some ⟨.v2, .dst, d⟩, some ⟨.v2, .src, a⟩, some ⟨.v, .src, b⟩, none, []⟩
  | .klocate d a => some ⟨6, 1, 5, some ⟨.v4, .dst, d⟩, some ⟨.v2, .src, a⟩, none, none, []⟩
  | .kowner d a => some ⟨6, 1, 6, some ⟨.v2, .dst, d⟩, some ⟨.v2, .src, a⟩, none, none, []⟩
  | .knbrXm d a => some ⟨6, 1, 8, some ⟨.v2, .dst, d⟩, some ⟨.v2, .src, a⟩, none, none, []⟩
  | .knbrXp d a => some ⟨6, 1, 9, some ⟨.v2, .dst, d⟩, some ⟨.v2, .src, a⟩, none, none, []⟩
  | .knbrYm d a => some ⟨6, 1, 10, some ⟨.v2, .dst, d⟩, some ⟨.v2, .src, a⟩, none, none, []⟩
  | .knbrYp d a => some ⟨6, 1, 11, some ⟨.v2, .dst, d⟩, some ⟨.v2, .src, a⟩, none, none, []⟩
  | .knbrZm d a => some ⟨6, 1, 12, some ⟨.v2, .dst, d⟩, some ⟨.v2, .src, a⟩, none, none, []⟩
  | .knbrZp d a => some ⟨6, 1, 13, some ⟨.v2, .dst, d⟩, some ⟨.v2, .src, a⟩, none, none, []⟩
  | .krefine d a => some ⟨6, 1, 16, some ⟨.p, .dst, d⟩, some ⟨.v2, .src, a⟩, none, none, []⟩
  | .kcoarsen d a => some ⟨6, 1, 17, some ⟨.p, .dst, d⟩, some ⟨.v2, .src, a⟩, none, none, []⟩
  | .kcost a b => some ⟨6, 1, 18, none, some ⟨.v2, .src, a⟩, some ⟨.v, .src, b⟩, none, []⟩
  | .kcommit => some ⟨6, 1, 19, none, none, none, none, []⟩
  | .krebal d a => some ⟨6, 1, 20, some ⟨.s2, .dst, d⟩, some ⟨(.sn 1), .src, a⟩, none, none, []⟩
  | .ordb => some ⟨6, 2, 0, none, none, none, none, []⟩
  | .orde => some ⟨6, 2, 1, none, none, none, none, []⟩
  | .ordstat d => some ⟨6, 2, 2, some ⟨.s, .dst, d⟩, none, none, none, []⟩
  | .rinvKey d a b => some ⟨6, 3, 0, some ⟨.s2, .dst, d⟩, some ⟨.s8, .src, a⟩, some ⟨(.sn 3), .src, b⟩, none, []⟩
  | .rinvPkg d a b => some ⟨6, 3, 1, some ⟨.s2, .dst, d⟩, some ⟨.s8, .src, a⟩, some ⟨(.sn 3), .src, b⟩, none, []⟩
  | .rinvHdl d a b => some ⟨6, 3, 2, some ⟨.s2, .dst, d⟩, some ⟨.s8, .src, a⟩, some ⟨(.sn 3), .src, b⟩, none, []⟩
  | .rawait d a b => some ⟨6, 3, 3, some ⟨.s8, .dst, d⟩, some ⟨.s2, .src, a⟩, some ⟨.p, .dst, b⟩, none, []⟩
  | .rawaitTrap d a => some ⟨6, 3, 4, some ⟨.s8, .dst, d⟩, some ⟨.s2, .src, a⟩, none, none, []⟩
  | .rpoll d a => some ⟨6, 3, 5, some ⟨.p, .dst, d⟩, some ⟨.s2, .src, a⟩, none, none, []⟩
  | .rdrop a => some ⟨6, 3, 6, none, some ⟨.s2, .src, a⟩, none, none, []⟩
  | .sysrd d a => some ⟨6, 4, 0, some ⟨.s, .dst, d⟩, some ⟨.s, .src, a⟩, none, none, []⟩
  | .syswr a b => some ⟨6, 4, 1, none, some ⟨.s, .src, a⟩, some ⟨.s, .src, b⟩, none, []⟩
  | .tlbfill a b => some ⟨6, 4, 2, none, some ⟨.s2, .src, a⟩, some ⟨.s2, .src, b⟩, none, []⟩
  | .tlbinv a => some ⟨6, 4, 3, none, some ⟨.s2, .src, a⟩, none, none, []⟩
  | .logrd d a => some ⟨6, 4, 4, some ⟨.v, .dst, d⟩, some ⟨.s, .src, a⟩, none, none, []⟩
  | .eret => some ⟨6, 4, 5, none, none, none, none, []⟩
  | .clock d => some ⟨6, 4, 6, some ⟨.s2, .dst, d⟩, none, none, none, []⟩
  | .timewait a => some ⟨6, 4, 7, none, some ⟨.s2, .src, a⟩, none, none, []⟩
  | .timewaitExpire _ _ => none
  | .bankroleSwitch _ _ => none
  | .memoryAccessComplete _ _ => none
  | .homeAcknowledge _ _ => none
  | .sgbEntryTimeout _ _ => none
  | .walkerStart _ => none
  | .walkerTimeout _ => none
  | .logReissue _ _ => none
  | .subnormalReplayDone _ _ => none
  | .engineAccept _ => none
  | .boArrival _ => none
  | .engineCommandComplete _ => none
  | .engineResume _ => none
  | .collMatch _ _ => none
  | .collTimeout _ => none
  | .queueOpServe _ _ => none
  | .teamBarrierComplete _ => none
  | .ordBarrierComplete _ => none
  | .weirRebuildComplete _ => none
  | .migrationCopyStart _ _ => none
  | .migrationCopyComplete _ _ => none
  | .quarterSwitch _ _ => none
  | .serviceStart _ _ => none
  | .groupRetire _ => none
  | .handleResultArrive _ => none
  | .handleTimeout _ _ => none
  | .heldRequestEffect _ => none
  | .teamSaveDone _ => none
  | .mailboxAccept _ => none
  | .teamPlace _ _ => none
  | .oppStable _ => none
  | .counterSet _ _ _ => none
  | .counterAdd _ _ _ => none
  | .counterReset _ _ _ => none
  | .mailboxKill _ _ _ => none
  | .hostAccessTimeout _ _ => none
  | .flitReceive _ _ => none
  | .flitResendTimeout _ => none
  | .portDown _ => none
  | .portRetrainComplete _ => none
  | .messageReceive _ _ => none
  | .messageRetryResend _ => none
  | .responseReceive _ => none
  | .fabricTimeout _ => none
  | .spotTestComplete _ _ _ _ => none
  | .powerOn _ => none
  | .packageReset _ => none
  | .hostLinkTrain _ => none
  | .functionLevelReset _ => none
  | .claim _ _ => none
  | .give _ _ => none
  | .take _ _ => none
  | .minptWrite _ _ => none
  | .mgmtRegisterWrite _ _ _ => none
  | .attestRequest _ _ => none
  | .attestReportReady _ => none
  | .lifetimeClear _ => none
  | .svnRaise _ _ => none
  | .thermalThrottle _ => none
  | .thermalTrip _ => none
  | .powerCapLimit _ => none
  | .fbInstructionComplete _ _ => none
  | .rebalanceSnapshotComplete _ => none
  | .mailboxSlotWrite _ _ _ _ => none

/-- Registers a field of a kind names. -/
def Kind.run : Kind → Nat
  | .s => 1 | .s2 => 2 | .s8 => 8 | .sn n => n | .a => 1 | .v => 1 | .v2 => 2 | .v3 => 3 | .v4 => 4
  | .p => 1 | .x => 1 | .fm => 1 | .ix => 1 | .c => 1 | .sc => 2

/-- R80, R94 for a varying run of `n` registers whose first is a multiple of `m`, under the budget. -/
def varyingFault (budget n m val : Nat) : Option Nat :=
  if budget ≤ val ∧ val < 124 then some 4
  else if val % m ≠ 0 then some 5
  else if val < 124 then (if budget < val + n then some 5 else none)
  else if 128 < val + n then some 5 else none

/-- R80, R94: the detail code that a field value earns for its kind under a varying budget (R22), if any. -/
def Opd.fault (budget : Nat) (o : Opd) : Option Nat :=
  let val := o.val.toNat
  let dst := o.role != .src
  match o.kind with
  | .s => if 64 ≤ val then some 4 else if dst ∧ val = 63 then some 6 else none
  | .s2 => if 64 ≤ val then some 4 else if val % 2 ≠ 0 then some 5 else if dst ∧ val = 62 then some 6 else none
  | .s8 => if 64 ≤ val then some 4 else if val % 8 ≠ 0 ∨ 48 < val then some 5 else none
  | .sn n => if 64 ≤ val then some 4 else if 60 < val + n then some 5 else none
  | .a => if 16 ≤ val then some 4 else none
  | .v => varyingFault budget 1 1 val
  | .v2 => varyingFault budget 2 2 val
  | .v3 => varyingFault budget 3 1 val
  | .v4 => varyingFault budget 4 4 val
  | .p => if 8 ≤ val then some 4 else none
  | .x => if 4 ≤ val then some 4 else none
  | .fm => if 4 ≤ val then some 4 else none
  | .c => if 16 ≤ val ∧ val ≠ 127 then some 4 else none
  | .ix => none
  | .sc => none

/-- The operand fields of a shape, in the order of the assembly form: D, A, B, C. -/
def Shape.opds (sh : Shape) : List Opd :=
  sh.d.toList ++ sh.a.toList ++ sh.b.toList ++ sh.c.toList

/-- The lowest detail code of the field checks of R80, if any (R94). -/
def Shape.fieldFault (sh : Shape) (budget : Nat) : Option Nat :=
  sh.opds.foldl (fun acc o =>
    match acc, o.fault budget with
    | none, r => r
    | some c, none => some c
    | some c, some c' => some (min c c')) none

/-- Literal words an instruction carries (R55, R74). -/
def Instr.litCount (i : Instr) : Nat :=
  match i.shape with
  | some sh => sh.lits.length
  | none => 0

/-- Why the decoder rejects a word. -/
inductive Reject where
  | reservedCell   -- R84: code 2 of R94
  | unusedField    -- R81: code 3 of R94
  | truncated      -- literal words missing (R77: code 8 of R94)
  deriving DecidableEq, Repr

/-- The three-operand format of R71. -/
structure Fields where
  cls : Nat
  fn  : Nat
  d   : F7
  a   : F7
  b   : F7
  sub : Nat
  deriving DecidableEq, Repr

def fieldsOf (w : Word) : Fields :=
  { cls := (w.extractLsb' 29 3).toNat, fn := (w.extractLsb' 26 3).toNat,
    d := w.extractLsb' 19 7, a := w.extractLsb' 12 7, b := w.extractLsb' 5 7,
    sub := (w.extractLsb' 0 5).toNat }

noncomputable section

/-- CLASS 000, FN 000 of the opcode map. -/
def cell00 (_d _a _b : F7) (sub : Nat) : Option Instr :=
  match sub with
  | 0 => some (.nop)
  | _ => none

/-- CLASS 000, FN 001 of the opcode map. -/
def cell01 (d a b : F7) (sub : Nat) (lit : Word) : Option Instr :=
  match sub with
  | 0 => some (.braLikely a lit)
  | 1 => some (.braUnlikely a lit)
  | 2 => some (.braUniform a lit)
  | 3 => some (.bra a lit)
  | 4 => some (.brx a b)
  | 5 => some (.call d a b)
  | 6 => some (.ret a)
  | _ => none

/-- CLASS 000, FN 010 of the opcode map. -/
def cell02 (_d a _b : F7) (sub : Nat) : Option Instr :=
  match sub with
  | 0 => some (.ppush a)
  | 1 => some (.pinv)
  | 2 => some (.ppop)
  | _ => none

/-- CLASS 000, FN 011 of the opcode map. -/
def cell03 (d a _b : F7) (sub : Nat) : Option Instr :=
  match sub with
  | 0 => some (.setmode a)
  | 1 => some (.getmode d)
  | 2 => some (.setfmt d a)
  | 3 => some (.getfmt d a)
  | _ => none

/-- CLASS 000, FN 100 of the opcode map. -/
def cell04 (d a b : F7) (sub : Nat) : Option Instr :=
  match sub with
  | 0 => some (.spawn d a b)
  | 1 => some (.exit)
  | 2 => some (.yield)
  | _ => none

/-- CLASS 000, FN 101 of the opcode map. -/
def cell05 (_d a _b : F7) (sub : Nat) : Option Instr :=
  match sub with
  | 0 => some (.trap a)
  | 1 => some (.bkpt)
  | _ => none

/-- CLASS 001, FN 000 of the opcode map. -/
def cell10 (d a b : F7) (sub : Nat) : Option Instr :=
  match sub with
  | 0 => some (.sadd d a b)
  | 1 => some (.ssub d a b)
  | 2 => some (.smul d a b)
  | 3 => some (.smulhiI32 d a b)
  | 4 => some (.smulhiN32 d a b)
  | 5 => some (.sdivI32 d a b)
  | 6 => some (.sdivN32 d a b)
  | 7 => some (.sremI32 d a b)
  | 8 => some (.sremN32 d a b)
  | 9 => some (.sminI32 d a b)
  | 10 => some (.sminN32 d a b)
  | 11 => some (.smaxI32 d a b)
  | 12 => some (.smaxN32 d a b)
  | 13 => some (.saddSatI32 d a b)
  | 14 => some (.saddSatN32 d a b)
  | 15 => some (.ssubSatI32 d a b)
  | 16 => some (.ssubSatN32 d a b)
  | _ => none

/-- CLASS 001, FN 001 of the opcode map. -/
def cell11 (d a b : F7) (sub : Nat) : Option Instr :=
  match sub with
  | 0 => some (.sand d a b)
  | 1 => some (.sor d a b)
  | 2 => some (.sxor d a b)
  | 3 => some (.sshl d a b)
  | 4 => some (.sshrN32 d a b)
  | 5 => some (.sshrI32 d a b)
  | 8 => some (.snot d a)
  | 9 => some (.spopc d a)
  | 10 => some (.sclz d a)
  | 11 => some (.smov d a)
  | _ => none

/-- CLASS 001, FN 010 of the opcode map. -/
def cell12 (d a b : F7) (sub : Nat) : Option Instr :=
  match sub with
  | 0 => some (.ssetEq d a b)
  | 1 => some (.ssetNe d a b)
  | 2 => some (.ssetLtI32 d a b)
  | 3 => some (.ssetLeI32 d a b)
  | 4 => some (.ssetLtN32 d a b)
  | 5 => some (.ssetLeN32 d a b)
  | _ => none

/-- CLASS 001, FN 011 of the opcode map. -/
def cell13 (d _a _b : F7) (sub : Nat) (lit hi : Word) : Option Instr :=
  match sub with
  | 0 => some (.slit d lit)
  | 1 => some (.slit64 d lit hi)
  | _ => none

/-- CLASS 001, FN 100 of the opcode map. -/
def cell14 (d a b : F7) (sub : Nat) : Option Instr :=
  match sub with
  | 0 => some (.sadd64 d a b)
  | 1 => some (.ssub64 d a b)
  | 2 => some (.sshl64 d a b)
  | 3 => some (.sshr64 d a b)
  | _ => none

/-- CLASS 010, FN 000 of the opcode map. -/
def cell20 (d a b : F7) (sub : Nat) : Option Instr :=
  match sub with
  | 0 => some (.aadd d a b)
  | 1 => some (.asub d a b)
  | 8 => some (.aaddC d a b)
  | 9 => some (.asubC d a b)
  | 16 => some (.amov d a)
  | _ => none

/-- CLASS 010, FN 001 of the opcode map. -/
def cell21 (d a b : F7) (sub : Nat) : Option Instr :=
  match sub with
  | 0 => some (.aaddu d a b)
  | 1 => some (.asubu d a b)
  | 2 => some (.amulu d a b)
  | 3 => some (.ashlu d a b)
  | 8 => some (.aadduC d a b)
  | 9 => some (.asubuC d a b)
  | 10 => some (.amuluC d a b)
  | 11 => some (.ashluC d a b)
  | 16 => some (.astride d a b)
  | _ => none

/-- CLASS 010, FN 010 of the opcode map. -/
def cell22 (d a _b : F7) (sub : Nat) : Option Instr :=
  match sub with
  | 0 => some (.utoa d a)
  | 1 => some (.utov d a)
  | 2 => some (.atov d a)
  | 3 => some (.atou d a)
  | 4 => some (.lanea d)
  | _ => none

/-- CLASS 010, FN 011 of the opcode map. -/
def cell23 (d a _b : F7) (sub : Nat) : Option Instr :=
  match sub with
  | 0 => some (.readfirst d a)
  | 1 => some (.vtouEq d a)
  | 2 => some (.elect d a)
  | _ => none

/-- CLASS 011, FN 000 of the opcode map. -/
def cell30 (d a b : F7) (sub : Nat) : Option Instr :=
  match sub with
  | 0 => some (.vadd d a b)
  | 1 => some (.vsub d a b)
  | 2 => some (.vmul d a b)
  | 3 => some (.vmulhiI32 d a b)
  | 4 => some (.vmulhiN32 d a b)
  | 9 => some (.vminI32 d a b)
  | 10 => some (.vminN32 d a b)
  | 11 => some (.vmaxI32 d a b)
  | 12 => some (.vmaxN32 d a b)
  | 13 => some (.vaddSatI32 d a b)
  | 14 => some (.vaddSatN32 d a b)
  | 15 => some (.vsubSatI32 d a b)
  | 16 => some (.vsubSatN32 d a b)
  | _ => none

/-- CLASS 011, FN 001 of the opcode map. -/
def cell31 (d a b : F7) (sub : Nat) : Option Instr :=
  match sub with
  | 0 => some (.vand d a b)
  | 1 => some (.vor d a b)
  | 2 => some (.vxor d a b)
  | 3 => some (.vshl d a b)
  | 4 => some (.vshrN32 d a b)
  | 5 => some (.vshrI32 d a b)
  | 6 => some (.vbfeN32 d a b)
  | 7 => some (.vbfeI32 d a b)
  | 8 => some (.vnot d a)
  | 9 => some (.vpopc d a)
  | 10 => some (.vclz d a)
  | 11 => some (.vmov d a)
  | 12 => some (.vbrev d a)
  | 13 => some (.vbfi d a b)
  | _ => none

/-- CLASS 011, FN 010 of the opcode map. -/
def cell32 (d a b : F7) (sub : Nat) : Option Instr :=
  match sub with
  | 0 => some (.vcmpEq d a b)
  | 1 => some (.vcmpNe d a b)
  | 2 => some (.vcmpLtI32 d a b)
  | 3 => some (.vcmpLeI32 d a b)
  | 4 => some (.vcmpLtN32 d a b)
  | 5 => some (.vcmpLeN32 d a b)
  | 8 => some (.pand d a b)
  | 9 => some (.por d a b)
  | 10 => some (.pxor d a b)
  | 11 => some (.pnot d a)
  | 12 => some (.pmov d a)
  | _ => none

/-- CLASS 011, FN 011 of the opcode map. -/
def cell33 (d a b : F7) (sub : Nat) : Option Instr :=
  match sub with
  | 0 => some (.vxrd d a)
  | 1 => some (.vxwr d a)
  | 2 => some (.xset d a)
  | 3 => some (.xget d a)
  | 4 => some (.xadd d a b)
  | _ => none

/-- CLASS 011, FN 100 of the opcode map. -/
def cell34 (d a b : F7) (sub : Nat) : Option Instr :=
  match sub with
  | 0 => some (.vrand d a b)
  | _ => none

/-- CLASS 011, FN 101 of the opcode map. -/
def cell35 (d a b : F7) (sub : Nat) : Option Instr :=
  match sub with
  | 0 => some (.shflIdx d a b .w16)
  | 1 => some (.shflIdx d a b .w32)
  | 2 => some (.shflIdx d a b .w64)
  | 3 => some (.shflIdx d a b .w96)
  | 4 => some (.shflUp d a b .w16)
  | 5 => some (.shflUp d a b .w32)
  | 6 => some (.shflUp d a b .w64)
  | 7 => some (.shflUp d a b .w96)
  | 8 => some (.shflDown d a b .w16)
  | 9 => some (.shflDown d a b .w32)
  | 10 => some (.shflDown d a b .w64)
  | 11 => some (.shflDown d a b .w96)
  | 12 => some (.shflXor d a b .w16)
  | 13 => some (.shflXor d a b .w32)
  | 14 => some (.shflXor d a b .w64)
  | 15 => some (.shflXor d a b .w96)
  | 16 => some (.reduce d a b)
  | 17 => some (.reduceVarying d a b)
  | 18 => some (.reduceMini d a b)
  | 19 => some (.scan d a b)
  | 20 => some (.scanExcl d a b)
  | 21 => some (.voteAll d a)
  | 22 => some (.voteAny d a)
  | 23 => some (.ballot d a)
  | 24 => some (.spread d a b)
  | _ => none

/-- CLASS 100, FN 000 of the opcode map. -/
def cell40 (d a b : F7) (sub : Nat) : Option Instr :=
  match sub with
  | 0 => some (.fadd d a b)
  | 1 => some (.fsub d a b)
  | 2 => some (.fmul d a b)
  | 3 => some (.fmin d a b)
  | 4 => some (.fmax d a b)
  | 8 => some (.fabs d a)
  | 9 => some (.fneg d a)
  | 10 => some (.frint d a)
  | _ => none

/-- CLASS 100, FN 001 of the opcode map. -/
def cell41 (d a b : F7) (sub : Nat) : Option Instr :=
  match sub with
  | 0 => some (.fcmpEq d a b)
  | 1 => some (.fcmpNe d a b)
  | 2 => some (.fcmpLt d a b)
  | 3 => some (.fcmpLe d a b)
  | 4 => some (.fcmpUn d a b)
  | _ => none

/-- CLASS 100, FN 010 of the opcode map. -/
def cell42 (d a b : F7) (sub : Nat) : Option Instr :=
  match sub with
  | 0 => some (.hadd d a b)
  | 1 => some (.hsub d a b)
  | 2 => some (.hmul d a b)
  | 3 => some (.hmin d a b)
  | 4 => some (.hmax d a b)
  | 5 => some (.hfma d a b)
  | _ => none

/-- CLASS 100, FN 011 of the opcode map. -/
def cell43 (d a b : F7) (sub : Nat) : Option Instr :=
  match sub with
  | 0 => some (.f2iI32 d a)
  | 1 => some (.f2iN32 d a)
  | 2 => some (.i2fI32 d a)
  | 3 => some (.i2fN32 d a)
  | 4 => some (.h2fLo d a)
  | 5 => some (.h2fHi d a)
  | 8 => some (.f2h d a b)
  | _ => none

/-- CLASS 100, FN 100 of the opcode map. -/
def cell44 (d a _b : F7) (sub : Nat) : Option Instr :=
  match sub with
  | 0 => some (.frcp d a)
  | 1 => some (.frsq d a)
  | 2 => some (.fsqrt d a)
  | 3 => some (.fexp2 d a)
  | 4 => some (.flog2 d a)
  | 5 => some (.fsin d a)
  | 6 => some (.fcos d a)
  | _ => none

/-- CLASS 101, FN 000 of the opcode map. -/
def cell50 (d a b : F7) (sub : Nat) : Option Instr :=
  match Width.ofCode (sub / 4) with
  | some w => if sub % 2 = 0 then some (.ld d a b w (sub / 2 % 2 == 1)) else some (.ldVaryingAddress d a w (sub / 2 % 2 == 1))
  | none => none

/-- CLASS 101, FN 001 of the opcode map. -/
def cell51 (d a b : F7) (sub : Nat) : Option Instr :=
  match Width.ofCode (sub / 4), sub % 4 with
  | some w, 0 => some (.st d a b w)
  | some w, 1 => some (.stVaryingAddress d a w)
  | _, _ => none

/-- CLASS 101, FN 010 of the opcode map. -/
def cell52 (d a b : F7) (sub : Nat) : Option Instr :=
  let m : BitVec 2 := BitVec.ofNat 2 (sub / 4 % 4)
  let byp : Bool := sub / 2 % 2 == 1
  match sub / 16, sub % 4 with
  | 0, 0 => some (.ldc d a b m byp)
  | 0, 2 => some (.ldc d a b m byp)
  | 0, 1 => some (.ldcVaryingAddress d a m byp)
  | 0, 3 => some (.ldcVaryingAddress d a m byp)
  | 1, 0 => some (.stc d a b m)
  | 1, 1 => some (.stcVaryingAddress d a m)
  | _, _ => none

/-- CLASS 101, FN 011 of the opcode map. -/
def cell53 (d a b : F7) (sub : Nat) : Option Instr :=
  match sub with
  | 8 => some (.boset a b)
  | 9 => some (.boadd a b)
  | 10 => some (.bowait a b)
  | 11 => some (.bopoll d a b)
  | 12 => some .bar
  | 13 => some (.pref a)
  | _ =>
    if sub < 8 then (Width.ofCode sub).map fun w => .ldp d a b w
    else if 16 ≤ sub then (Width.ofCode (sub - 16)).map fun w => .stp d a b w
    else none

/-- CLASS 101, FN 100 of the opcode map. -/
def cell54 (d a b : F7) (sub : Nat) : Option Instr :=
  let o := AtomOrder.ofCode (sub % 4)
  match sub / 4 with
  | 0 => some (.atomAddI32 d a b o)
  | 1 => some (.atomAddF32 d a b o)
  | 2 => some (.atomMinI32 d a b o)
  | 3 => some (.atomMinN32 d a b o)
  | 4 => some (.atomMaxI32 d a b o)
  | 5 => some (.atomMaxN32 d a b o)
  | 6 => some (.atomXchg d a b o)
  | 7 => some (.atomCas d a b o)
  | _ => none

/-- CLASS 101, FN 101 of the opcode map. -/
def cell55 (d a b : F7) (sub : Nat) : Option Instr :=
  let o := AtomOrder.ofCode (sub % 4)
  match sub / 4 with
  | 0 => some (.atomAnd d a b o)
  | 1 => some (.atomOr d a b o)
  | 2 => some (.atomXor d a b o)
  | _ => none

/-- CLASS 101, FN 110 of the opcode map. -/
def cell56 (d a b : F7) (sub : Nat) : Option Instr :=
  match sub with
  | 0 => some (.qpush a b)
  | 1 => some (.qpushUniform a b)
  | 2 => some (.qpop d a)
  | 3 => some (.qpopUniform d a)
  | 4 => some (.qpopElect d a)
  | _ => none

/-- CLASS 101, FN 111 of the opcode map. -/
def cell57 (_d _a _b : F7) (sub : Nat) : Option Instr :=
  (FenceOrder.ofCode (sub / 8)).map fun o => .fence o (Scope.ofCode (sub % 8))

/-- CLASS 110, FN 000 of the opcode map. -/
def cell60 (d a b : F7) (sub : Nat) : Option Instr :=
  match sub with
  | 0 => some (.cpy a b)
  | 1 => some (.gather a b)
  | 2 => some (.scatter a b)
  | 3 => some (.mma a b)
  | 4 => some (.mmadrain a b)
  | 5 => some (.idxwalk a b)
  | 6 => some (.cstore a b)
  | 7 => some (.cload a b)
  | 8 => some (.coll a b)
  | 16 => some (.batchCopy d)
  | 17 => some (.batchGather d)
  | 18 => some (.batchMatrix d)
  | 19 => some (.batchIndex d)
  | 20 => some (.batchColl d)
  | 21 => some (.bwaitCopy a)
  | 22 => some (.bwaitGather a)
  | 23 => some (.bwaitMatrix a)
  | 24 => some (.bwaitIndex a)
  | 25 => some (.bwaitColl a)
  | 26 => some (.bstatCopy d a)
  | 27 => some (.bstatGather d a)
  | 28 => some (.bstatMatrix d a)
  | 29 => some (.bstatIndex d a)
  | 30 => some (.bstatColl d a)
  | _ => none

/-- CLASS 110, FN 001 of the opcode map. -/
def cell61 (d a b : F7) (sub : Nat) : Option Instr :=
  match sub with
  | 0 => some (.kenc d a)
  | 1 => some (.kdec d a)
  | 2 => some (.klevel d a)
  | 3 => some (.kparent d a)
  | 4 => some (.kchild d a b)
  | 5 => some (.klocate d a)
  | 6 => some (.kowner d a)
  | 8 => some (.knbrXm d a)
  | 9 => some (.knbrXp d a)
  | 10 => some (.knbrYm d a)
  | 11 => some (.knbrYp d a)
  | 12 => some (.knbrZm d a)
  | 13 => some (.knbrZp d a)
  | 16 => some (.krefine d a)
  | 17 => some (.kcoarsen d a)
  | 18 => some (.kcost a b)
  | 19 => some (.kcommit)
  | 20 => some (.krebal d a)
  | _ => none

/-- CLASS 110, FN 010 of the opcode map. -/
def cell62 (d _a _b : F7) (sub : Nat) : Option Instr :=
  match sub with
  | 0 => some (.ordb)
  | 1 => some (.orde)
  | 2 => some (.ordstat d)
  | _ => none

/-- CLASS 110, FN 011 of the opcode map. -/
def cell63 (d a b : F7) (sub : Nat) : Option Instr :=
  match sub with
  | 0 => some (.rinvKey d a b)
  | 1 => some (.rinvPkg d a b)
  | 2 => some (.rinvHdl d a b)
  | 3 => some (.rawait d a b)
  | 4 => some (.rawaitTrap d a)
  | 5 => some (.rpoll d a)
  | 6 => some (.rdrop a)
  | _ => none

/-- CLASS 110, FN 100 of the opcode map. -/
def cell64 (d a b : F7) (sub : Nat) : Option Instr :=
  match sub with
  | 0 => some (.sysrd d a)
  | 1 => some (.syswr a b)
  | 2 => some (.tlbfill a b)
  | 3 => some (.tlbinv a)
  | 4 => some (.logrd d a)
  | 5 => some (.eret)
  | 6 => some (.clock d)
  | 7 => some (.timewait a)
  | _ => none

/-- The instruction that the cell of the opcode map names (R84 to R93), with its literal words. -/
def decodeCell (w lit lit2 : Word) : Option Instr :=
  let f := fieldsOf w
  match f.cls, f.fn with
  | 0, 0 => cell00 f.d f.a f.b f.sub
  | 0, 1 => cell01 f.d f.a f.b f.sub lit
  | 0, 2 => cell02 f.d f.a f.b f.sub
  | 0, 3 => cell03 f.d f.a f.b f.sub
  | 0, 4 => cell04 f.d f.a f.b f.sub
  | 0, 5 => cell05 f.d f.a f.b f.sub
  | 1, 0 => cell10 f.d f.a f.b f.sub
  | 1, 1 => cell11 f.d f.a f.b f.sub
  | 1, 2 => cell12 f.d f.a f.b f.sub
  | 1, 3 => cell13 f.d f.a f.b f.sub lit lit2
  | 1, 4 => cell14 f.d f.a f.b f.sub
  | 2, 0 => cell20 f.d f.a f.b f.sub
  | 2, 1 => cell21 f.d f.a f.b f.sub
  | 2, 2 => cell22 f.d f.a f.b f.sub
  | 2, 3 => cell23 f.d f.a f.b f.sub
  | 3, 0 => cell30 f.d f.a f.b f.sub
  | 3, 1 => cell31 f.d f.a f.b f.sub
  | 3, 2 => cell32 f.d f.a f.b f.sub
  | 3, 3 => cell33 f.d f.a f.b f.sub
  | 3, 4 => cell34 f.d f.a f.b f.sub
  | 3, 5 => cell35 f.d f.a f.b f.sub
  | 4, 0 => cell40 f.d f.a f.b f.sub
  | 4, 1 => cell41 f.d f.a f.b f.sub
  | 4, 2 => cell42 f.d f.a f.b f.sub
  | 4, 3 => cell43 f.d f.a f.b f.sub
  | 4, 4 => cell44 f.d f.a f.b f.sub
  | 5, 0 => cell50 f.d f.a f.b f.sub
  | 5, 1 => cell51 f.d f.a f.b f.sub
  | 5, 2 => cell52 f.d f.a f.b f.sub
  | 5, 3 => cell53 f.d f.a f.b f.sub
  | 5, 4 => cell54 f.d f.a f.b f.sub
  | 5, 5 => cell55 f.d f.a f.b f.sub
  | 5, 6 => cell56 f.d f.a f.b f.sub
  | 5, 7 => cell57 f.d f.a f.b f.sub
  | 6, 0 => cell60 f.d f.a f.b f.sub
  | 6, 1 => cell61 f.d f.a f.b f.sub
  | 6, 2 => cell62 f.d f.a f.b f.sub
  | 6, 3 => cell63 f.d f.a f.b f.sub
  | 6, 4 => cell64 f.d f.a f.b f.sub
  | 7, _ =>
    let d : F7 := w.extractLsb' 21 7
    let a : F7 := w.extractLsb' 14 7
    let b : F7 := w.extractLsb' 7 7
    let c : F7 := w.extractLsb' 0 7
    if w.getLsbD 28 then some (.imad d a b c) else some (.ffma d a b c)
  | _, _ => none

/-- R81: every field the opcode map marks with a dash is zero. -/
def Shape.unusedZero (sh : Shape) (w : Word) : Bool :=
  let f := fieldsOf w
  sh.cls == 7 || ((sh.d.isSome || f.d == 0) && (sh.a.isSome || f.a == 0) && (sh.b.isSome || f.b == 0))

/-- The decoder: the instruction that stands at the front of a list of words, and the words after it. -/
def decode : List Word → Except Reject (Instr × List Word)
  | [] => .error .truncated
  | w :: rest =>
    match decodeCell w (rest.getD 0 0) (rest.getD 1 0) with
    | none => .error .reservedCell
    | some i =>
      match i.shape with
      | none => .error .reservedCell
      | some sh =>
        if !sh.unusedZero w then .error .unusedField
        else if rest.length < sh.lits.length then .error .truncated
        else .ok (i, rest.drop sh.lits.length)

/-- The shape that the cell of the first word gives, whatever its unused fields hold: what such a word reads and sets. -/
def cellShape : List Word → Option Shape
  | [] => none
  | w :: rest => (decodeCell w (rest.getD 0 0) (rest.getD 1 0)).bind Instr.shape

/-- The little-endian word at the front of a list of bytes (R3); missing bytes leave it incomplete. -/
def wordsOfBytes : List Byte → List Word
  | b0 :: b1 :: b2 :: b3 :: rest => (b3 ++ b2 ++ b1 ++ b0 : BitVec 32) :: wordsOfBytes rest
  | _ => []

/-- The decoder on bytes as they stand in memory, lowest address first. -/
def decodeBytes (bs : List Byte) : Except Reject (Instr × List Word) := decode (wordsOfBytes bs)

/-- The four bytes of a word, lowest address first (R3). -/
def bytesOfWord (w : Word) : List Byte :=
  [w.extractLsb' 0 8, w.extractLsb' 8 8, w.extractLsb' 16 8, w.extractLsb' 24 8]

/-- The three-operand word of R71. -/
def packWord (cls fn : Nat) (d a b : F7) (sub : Nat) : Word :=
  (BitVec.ofNat 3 cls ++ BitVec.ofNat 3 fn ++ d ++ a ++ b ++ BitVec.ofNat 5 sub : BitVec 32)

/-- The four-operand word of R72. -/
def packFour (op : Nat) (d a b c : F7) : Word :=
  ((7 : BitVec 3) ++ BitVec.ofNat 1 op ++ d ++ a ++ b ++ c : BitVec 32)

def Opd.field : Option Opd → F7
  | some o => o.val
  | none => 0

/-- The instruction word of a shape. -/
def Shape.word (sh : Shape) : Word :=
  if sh.cls = 7 then packFour sh.fn (Opd.field sh.d) (Opd.field sh.a) (Opd.field sh.b) (Opd.field sh.c)
  else packWord sh.cls sh.fn (Opd.field sh.d) (Opd.field sh.a) (Opd.field sh.b) sh.sub

/-- The encoder: the words of an instruction, its literal words after it (R55); no words for a row
without an encoding. -/
def encode (i : Instr) : List Word :=
  match i.shape with
  | some sh => sh.word :: sh.lits
  | none => []

/-- A clause header (R73). FA and FB are the flag numbers, 15 for none. -/
structure Header where
  wait : BitVec 12
  len  : Nat
  fa   : Nat
  fb   : Nat
  deriving DecidableEq, Repr

/-- R73: the header a word holds, or `none` when it is malformed. -/
def decodeHeader (w : Word) : Option Header :=
  let len := (w.extractLsb' 9 5).toNat
  let fa := (w.extractLsb' 5 4).toNat
  let fb := (w.extractLsb' 1 4).toNat
  if (w.extractLsb' 26 6).toNat ≠ 0 ∨ w.getLsbD 0 ∨ len = 0 ∨ 24 < len then none
  else if (12 ≤ fa ∧ fa ≤ 14) ∨ (12 ≤ fb ∧ fb ≤ 14) then none
  else some { wait := w.extractLsb' 14 12, len := len, fa := fa, fb := fb }

/-- The header word that swas builds (R53). -/
def encodeHeader (h : Header) : Word :=
  ((0 : BitVec 6) ++ h.wait ++ BitVec.ofNat 5 h.len ++ BitVec.ofNat 4 h.fa ++ BitVec.ofNat 4 h.fb ++ (0 : BitVec 1) : BitVec 32)

/-- The instruction the decoder reads from a table row's bits (bit 0 the least significant of the first
word), laid out in memory little-endian with zeroes above `nbits`. -/
def decodeTableWord (nbits w : Nat) : Option Instr :=
  let v : BitVec 96 := BitVec.ofNat 96 (w % 2 ^ nbits)
  let bytes := bytesOfWord (v.extractLsb' 0 32) ++ bytesOfWord (v.extractLsb' 32 32) ++ bytesOfWord (v.extractLsb' 64 32)
  match decodeBytes bytes with
  | .ok (i, _) => some i
  | .error _ => none

end

end Sys2Proof
end

