-- ==== Sys2Proof/Machine/State.lean ====
section
/-! DEFINITION. The state of an M7 package, as plain data: lane, split and group (01), team and task (18, 20),
cluster, core and memories (13), engines (10, 13), handles and fabric (20, 22), the package (18, 23); and
State.reset, the package right after reset. INVENTORY.md lists every piece with its rule. -/

namespace Sys2Proof.Machine

/-- A finite map from numbers: the first entry of a key counts. -/
abbrev Map (α : Type) := List (Nat × α)

/-- One 32-bit value per lane; a lane beyond the list holds zero. -/
abbrev Row := List Word

/-- An affine register (R21). -/
structure Aff where
  base   : DWord
  stride : Word
  deriving DecidableEq, Repr

/-- A register of a group, as an operand of an instruction. -/
inductive Reg where
  | s (n : Nat) | a (n : Nat) | v (n : Nat) | p (n : Nat) | x (n : Nat)
  deriving DecidableEq, Repr

/-- An entry of the split table, or a parked-split record (R39). `fresh`: just formed by a divergence and no
clause started since (R130); `formed` and `ids` say which accesses are in its prior set (R220): those issued
before access number `formed`, and those issued under one of `ids`. -/
structure Split where
  pc     : DWord
  mask   : Mask
  depth  : Nat
  mode   : Word
  fmts   : List Word
  fresh  : Bool
  formed : Nat
  ids    : List Nat
  deriving DecidableEq, Repr

/-- The clause in progress (R73, R75): header address, LEN, WAIT, FA, FB, words done, the temporaries written in
it (R24), whether a transfer has set the split's program counter, and the words fetched so far (R79). -/
structure Clause where
  start : DWord
  len   : Nat
  wait  : BitVec 12
  fa    : Nat
  fb    : Nat
  pos   : Nat
  tw    : BitVec 4
  taken : Bool
  words : List Word
  deriving DecidableEq, Repr

/-- A source word of an operand-log entry (R38, R304): one value, or one value per lane. -/
inductive SrcWord where
  | uni (w : Word)
  | lanes (r : Row)
  deriving DecidableEq, Repr

/-- An operand-log entry (R38, R304), with the mode and format registers, the seed pair and the scale registers of its issue (R136, R324), the
registers its source words were read from, the temporaries, and the lanes active at its issue (`act`). `waiting`: its page is not filled yet (R324). -/
structure LogEntry where
  pc      : DWord
  word    : Word
  cause   : Word
  lanes   : Mask
  addr    : DWord
  affs    : Map Aff
  regs    : List Reg
  src     : List SrcWord
  temps   : Map Row
  tw      : BitVec 4
  seq     : Nat
  mode    : Word
  fmts    : List Word
  seeds   : DWord
  scales  : List Word
  act     : Mask
  waiting : Bool
  deriving DecidableEq, Repr

/-- One lane's part of an access: its virtual and physical address (an address in the cluster's pool for pool
accesses), its bytes, the package that holds it when it is remote (R320), the cluster that is its home (R313), the bytes to store with
the bits of each that are written (or the bytes that have arrived), an atomic's compared value or a conversion's
stochastic word, and how far it is: 0 to do, 1 a message is out, 2 answered or performed. -/
structure Acc where
  lane : Nat
  va   : DWord
  pa   : Nat
  size : Nat
  rem  : Option Nat
  home : Option Nat
  data : List (Byte × Byte)
  cmp  : Word
  st   : Nat
  deriving DecidableEq, Repr

/-- A register write computed for an instruction: the register, its value (one word, or one per lane), the lanes. -/
structure RegWrite where
  reg   : Reg
  row   : Row
  lanes : Mask
  deriving DecidableEq, Repr

/-- What an issued instruction still has to do (R205). -/
inductive PendBody where
  /-- its register writes, computed at issue -/
  | write
  /-- as `write`, completed by the subnormal replay (R103) -/
  | replay
  | load (w : Width) (byp : Bool)
  | loadConv (fmt scale mode : Word) (byp : Bool)
  | store
  | atom (op : AtomOp)
  | poolLoad (w : Width)
  | poolStore
  | fence (o : FenceOrder) (q : Scope)
  /-- what is left of an order once its instruction has completed (R221, R223, R340) -/
  | order (o : FenceOrder) (q : Scope)
  | bowait (off : Nat) (epoch : Word)
  | bopoll (off : Nat) (epoch : Word)
  | bar (n : Nat)
  | kcommit (n : Nat)
  | ordb (n : Nat)
  | orde (n : Nat)
  | qpush (name : Word) (elems : List Word)
  /-- form 0: one element per lane; 1: a uniform destination; 2: elected -/
  | qpop (name : Word) (form : Nat)
  | bwait (cls n : Nat)
  | timewait (till : DWord)
  | rawait (h : DWord) (trap : Bool)
  | rpoll (h : DWord)
  | klocate
  /-- cost additions made in another package -/
  | kcost
  /-- an invocation that waits for its release (R283) -/
  | rinv (i : Invocation)
  | bankrole (bank role : Nat)
  | tlbinv (scope asid : Nat) (page : Nat)
  | boset (off : Nat) (quota : Word)
  | boadd (off : Nat) (more : Word)
  deriving DecidableEq, Repr

/-- An issued instruction that is not complete, or a store not yet acknowledged (`done`). `killed`: destinations a
later instruction has written (R42). `missed`: waiting for its page (R324), `failed`: pages whose walk ended without a
fill (R322). `wkey` and `wgroup`: the writer of R397 at issue. `left`: accesses not acknowledged (R37). `refused`: the
address of its first refused store (R222). `proto`: the operand-log entry that a fault of it fills (R38, R304). `born`: CLOCK at issue
(R327). `lined`: a memory-class instruction that had to wait for its page, or one issued while such a one was outstanding
(R324). `arrived`: its number in order of arrival at its queue (R233), 0 before. `seen`: entries of the store-gathering buffer
with a lower number are awaited by its release (R340, R341). -/
structure Pend where
  id     : Nat
  sid    : Nat
  ids    : List Nat
  formed : Nat
  pc     : DWord
  word   : Word
  flag   : Option Nat
  lanes  : Mask
  dst    : List Reg
  body   : PendBody
  writes : List RegWrite
  accs   : List Acc
  killed : List (Reg × Mask)
  order  : AtomOrder
  scope  : Scope
  missed : Bool
  done   : Bool
  entry  : Option Nat
  mark   : Nat
  clause : Clause
  refused : Option DWord
  wkey   : DWord
  wgroup : Nat
  failed : List Nat
  left   : Nat
  proto  : LogEntry
  born   : DWord
  lined  : Bool
  arrived : Nat
  seen   : Nat
  deriving DecidableEq, Repr

/-- The batch counter of one engine class (R36), with its commands by batch number: those not complete, all of them;
and the status words (R241, R243). -/
structure Batch where
  openN  : BitVec 16
  doneN  : BitVec 16
  left   : Map Nat
  total  : Map Nat
  status : Map Word
  deriving DecidableEq, Repr

/-- A boundary cause that waits for the group's next clause boundary (R301). -/
structure TrapPend where
  code : Nat
  info : Word
  addr : DWord
  cls  : Nat
  deriving DecidableEq, Repr

/-- The access number of an instruction that is to be issued again after it had issued, with the destinations that later
instructions have written (R42). -/
abbrev Again := Option (Nat × List (Reg × Mask))

/-- What a group goes back to once a word that was issued again alone has issued (R305, R324): the clause that was
interrupted, its temporaries where they are to be put back, the log entry and access number of a word that was
itself to be issued again, and the split entry that was current. -/
structure Back where
  clause : Option Clause
  temps  : Option (Map Row)
  ovr    : Option Nat
  again  : Again
  cur    : Nat
  deriving DecidableEq, Repr

/-- The trap frame (R302): what it saves, the clause that was stopped, the log entry of the fault, whether the cause was
raised at a word, the number of the first access after it; `redo` is the clause position of a word whose
fault came after it had issued (R324), `late` its access number, `lateSid` the divergence number of its split; `ovr`, `again` and `after` belong to a word that was being
issued again when the entry came. -/
structure Frame where
  splits : Map Split
  parked : List Split
  cur    : Nat
  stack  : Map Mask
  preds  : Map Mask
  temps  : Map Row
  tw     : BitVec 4
  unis   : List Word
  level  : Nat
  clause : Option Clause
  entry  : Option Nat
  atWord : Bool
  mark   : Nat
  redo   : Option Clause
  late   : Again
  lateSid : Nat
  ovr    : Option Nat
  again  : Again
  after  : List Back
  deriving DecidableEq, Repr

/-- A GATHER of a group whose bytes the group has not acquired (R329): its command, its pool range, its barrier object, its
batch. -/
structure Gathered where
  id    : Nat
  lo    : Nat
  len   : Nat
  bo    : Word
  batch : BitVec 16
  deriving DecidableEq, Repr

inductive GroupKind where
  | vacant | started | spawned | service | walker
  deriving DecidableEq, Repr

/-- A request held until the transfer count is zero (R326): to shrink, with the banks and the number of accumulator tiles that the
team gives back; and why a group is killed (R369). -/
inductive Held where
  | shrink (banks : List Nat) (units : Nat)
  | swap
  | kill (fault : Bool)
  deriving DecidableEq, Repr

/-- A group and all its state (R13, R14 to R43). `issued`: the handles it has issued (R421); `inv`: the invocation that a
service group runs; `fetchMiss`: the page that a fetch of it waits for, and whether its walk ended without a fill; `pageWaits`: the pages that a word stalled at
issue waits for (R321), likewise;
`ran`: clauses the current split has started while another could, `rotated`: entries that rule 4 has made current since all that could
start a clause were (R130, R131); `again`: the word that issues next had issued
before; `saveMark`: what the core's buffer took before this number is awaited by the save (R347); `after`: what waits behind a word issued again alone; `hidden`: saved registers that the handler has written
(R302); `thand`: THAND of a walker or of a service of the package (R294); `off`: it has left its seat in a RAWAIT.TRAP (R121); `yielded`: it stands aside, but for the groups `served`
(R142); `ready`: the turn since which it can start a clause (R374), 0 while it cannot; `area`: the pieces of memory
of its area in its context region, base and bytes, `region`: that region's mailbox (R285, R375). -/
structure Group where
  kind    : GroupKind
  width   : Nat
  budget  : Nat
  core    : Nat
  seat    : Nat
  ctx     : Nat
  team    : Nat
  task    : Nat
  asid    : Nat
  vf      : Nat
  text    : DWord
  prio    : Nat
  level   : Nat
  s       : Map Word
  a       : Map Aff
  v       : Map Row
  t       : Map Row
  x       : Map Row
  p       : Map Mask
  stack   : Map Mask
  splits  : Map Split
  parked  : List Split
  cur     : Nat
  ran     : Nat
  rotated : List Nat
  exited  : Mask
  flags   : Map Nat
  batches : Map Batch
  gathers : List Gathered
  xfer    : Nat
  log     : Map LogEntry
  logSeq  : Nat
  ovr     : Option Nat
  clause  : Option Clause
  again   : Again
  after   : List Back
  hidden  : List (Reg × Mask)
  pends   : List Pend
  nextId  : Nat
  tcause  : Word
  tinfo   : Word
  tepc    : DWord
  tret    : Word
  taddr   : DWord
  thand   : Word
  tpend   : List TrapPend
  frame   : Option Frame
  held    : Option Held
  waitHeld : List Held
  saveMark : Nat
  faulted : Bool
  off     : Bool
  yielded : Bool
  served  : List Nat
  ready   : Nat
  bars    : Nat
  ords    : Nat
  ordes   : Nat
  issued  : List DWord
  fetchMiss : Option (Nat × Bool)
  pageWaits : List (Nat × Bool)
  inv     : Nat
  area    : List (Nat × Nat)
  ctxBytes : Nat
  region  : Nat
  deriving DecidableEq, Repr

/-- A line of an L1 (R308). -/
structure L1Line where
  asid : Nat
  vline : Nat
  pline : Nat
  data : List Byte
  deriving DecidableEq, Repr

/-- What one writer (R397; task 0 outside a phase) has put into a store-gathering entry: bytes of the line, with the bits written in each. -/
structure SgbPart where
  task  : Nat
  key   : DWord
  group : Nat
  cells : Map (Byte × Byte)
  deriving DecidableEq, Repr

/-- A store-gathering entry (R309): the line, what each writer put there in order, the accesses it carries
(group and access number), its number in order of arrival, whether it has been sent, the cluster that is its home (R313), when it
was taken (`born`). -/
structure SgbEntry where
  pline : Nat
  parts : List SgbPart
  who   : List (Nat × Nat)
  home   : Option Nat
  seq   : Nat
  sent  : Bool
  born  : DWord
  deriving DecidableEq, Repr

structure Core where
  l1   : List L1Line
  sgb  : List SgbEntry
  asid : Nat
  acc  : List Host.Cell
  deriving DecidableEq, Repr

/-- A pool bank: its role (R295), the team that holds it, its FIFO contents. -/
structure Bank where
  role  : Nat
  owner : Option Nat
  fifo  : List Word
  deriving DecidableEq, Repr

/-- A translation in a cluster TLB (R321): the whole leaf entry under its tag. -/
structure TlbEntry where
  asid : Nat
  page : Nat
  leaf : BitVec 128
  deriving DecidableEq, Repr

/-- A TLB miss that waits for the walker (R321, R322). -/
structure Miss where
  asid : Nat
  page : Nat
  kind : Nat
  core : Nat
  deriving DecidableEq, Repr

/-- A line of a cluster cache (R313) and the bank that holds it. -/
structure CLine where
  pline : Nat
  data  : List Byte
  dirty : Bool
  bank  : Nat
  deriving DecidableEq, Repr

structure Cluster where
  banks   : Map Bank
  pool    : List Host.Cell
  tlb     : List TlbEntry
  misses  : List Miss
  walk    : Option (Miss × DWord)     -- the walk in progress and its deadline
  walker  : Option Nat                -- the walker's group
  cache   : List CLine
  deriving DecidableEq, Repr

/-- An engine command (R237, R241): its issuer, class and SUB, the words of its descriptor and s[B] as read at issue
(a command appends what it has read since), the mode, formats, scale words and seed it uses, the text offset of its word, its batch, its place in the group's
issue order, its cell (R246), when it was issued (`mark`). `queued`: not accepted yet; `begun`: it has started its work; `units`: rows, indices,
chunks or row groups done; `part`: bytes written and to be counted once the other packages have acknowledged
their part (`owed`); `asked` and `fetched`: what it reads from other packages; `missed`: the page it waits for, `walkFail`: its walk
ended without a fill; `seen`: lines counted as phase conflicts (R397); `outs`: addresses of the writes not acknowledged (R297);
`rows`: parts of a GATHER's rows that are written, `rivals`: earlier gathers of its group whose bytes were not acquired at its issue
(R329); `ranks`: what the ranks of a COLL brought, once all have matched (R260). -/
structure Cmd where
  id     : Nat
  gid    : Nat
  task   : Nat
  team   : Nat
  core   : Nat
  asid   : Nat
  vf     : Nat
  level  : Nat
  cls    : Nat
  sub    : Nat
  desc   : List Word
  bo     : Word
  mode   : Word
  fmts   : List Word
  scales : List Word
  seeds  : DWord
  off    : Word
  batch  : BitVec 16
  flag   : Option Nat
  sid    : Nat
  ids    : List Nat
  formed : Nat
  seq    : Nat
  key    : DWord
  wgroup : Nat
  queued : Bool
  begun  : Bool
  units  : Nat
  status : Word
  missed : Option Nat
  walkFail : Bool
  seen   : List Nat
  part   : Option Nat
  owed   : Nat
  asked  : List Nat
  fetched : Map (List Byte)
  nth    : Nat
  deadline : DWord
  mark   : Nat
  outs   : List Nat
  rows   : List Nat
  rivals : List Nat
  ranks  : Option (List RankData)
  deriving DecidableEq, Repr

/-- A role entry of a launch record (R361). -/
structure RoleEnt where
  entry  : Word
  groups : Nat
  widthC : Nat
  regs   : Nat
  resBits : Bool
  deriving DecidableEq, Repr

/-- A wait or signal entry of a launch record (R361): its first two words and VALUE. -/
structure CtrEnt where
  w0    : Word
  w1    : Word
  value : DWord
  deriving DecidableEq, Repr

/-- A launch record (R361). -/
structure Record where
  ctrl   : Word
  nteams : Word
  text   : DWord
  thand  : Word
  pool   : Word
  accum  : Word
  qcount : Word
  qtab   : DWord
  kspace : DWord
  roles  : List RoleEnt
  succ   : DWord
  args   : List Word
  waits  : List CtrEnt
  sigs   : List CtrEnt
  result : DWord
  seq    : Word
  deriving DecidableEq, Repr

/-- The keyspace descriptor as the dealer read it (R385). -/
structure KDesc where
  dim     : Nat
  nown    : Nat
  cuts    : DWord
  index   : DWord
  icap    : Nat
  psize   : Nat
  payload : DWord
  deriving DecidableEq, Repr

/-- An entry of a local cut table or a cut cache (R388); every listed entry is valid (V 1), every other one is as after reset. -/
structure CutEnt where
  next  : DWord
  first : DWord
  task  : Nat
  owner : Word
  deriving DecidableEq, Repr

/-- The local cut table of a quarter and its cut cache, most recently used first (R388). -/
structure CutTables where
  loc   : List CutEnt
  cache : List CutEnt
  deriving DecidableEq, Repr

/-- A leaf on the move (R392, R393): its key, its old and new owner (entry numbers), the new slot, how far it is:
0 not begun, 1 copying, 2 copied, 3 switched at its new owner; the cost additions held for it (R394). -/
structure Move where
  key   : DWord
  src   : Nat
  dst   : Nat
  slot  : Nat
  stage : Nat
  held  : Word
  deriving DecidableEq, Repr

/-- A rebalance in progress (R392): its handle, the new version, the moves that this package's owners have a part in, whether the
snapshot is done, the leaves that move in all, the quarters that have switched; the package and quarter that lead it; whether VERSION is
written; of the other packages, those that have brought their costs, completed their copies and switched, and the leaves they brought (key,
owner, cost); the slots in use at each owner when it started; the packages that agreed to it (R276). -/
structure Rebal where
  handle   : DWord
  version  : DWord
  moves    : List Move
  snap     : Bool
  total    : Nat
  switched : List Nat
  leadPkg  : Nat
  leadQtr  : Nat
  header   : Bool
  counted  : List Nat
  copied   : List Nat
  switchedAt : List Nat
  leaves   : List (DWord × Nat × Word)
  used     : Map (List Nat)
  agreed   : List Nat
  deriving DecidableEq, Repr

/-- A weir record (R398): writer key and GROUP, operand, the bits of the word that are written, OP, word of the line. -/
structure WeirRec where
  key   : DWord
  group : Nat
  value : Word
  bmask : Word
  op    : Nat
  word  : Nat
  deriving DecidableEq, Repr

/-- The writer state of a line touched in an ordered phase (R397): `shared` or private, its first writer, the
pre-phase copy, the bits written in each byte, the records in arrival order, the cells that wrote it. -/
structure PhaseLine where
  shared  : Bool
  writer  : DWord × Nat
  pre     : List Byte
  written : List Byte
  recs    : List WeirRec
  cells   : List DWord
  deriving DecidableEq, Repr

/-- The stage of an accepted record (R364, R366, R373): waiting for its counters, ready, started. -/
inductive TaskStage where
  | waiting | ready | started
  deriving DecidableEq, Repr

structure Task where
  record   : Record
  mailbox  : Nat
  slot     : Nat
  succOf   : Option (DWord × Nat)  -- a successor's record address and its address space (R368); none for a mailbox record
  dealer   : Nat
  stage    : TaskStage
  readyAt  : Nat
  plan     : List (Option (Nat × Nat × DWord))   -- teams left to place: none by count, or index, leader core, first key
  placed   : Nat
  thand    : Word
  text     : List Host.Cell        -- memory as it stood when its first group started (R79)
  killed   : Bool
  anyKill  : Bool
  flr      : Bool
  kdesc    : Option KDesc
  versions : Map DWord             -- version each quarter has switched to (R388)
  rebal    : Option Rebal
  phaseNo  : Nat
  inPhase  : Bool
  begun    : Bool                  -- an access of another package has begun the next phase here (R277)
  endNo    : Nat
  spill    : Bool
  conflicts : Nat
  lines    : Map PhaseLine
  spilled  : Nat
  spillArea : List (Nat × Nat)     -- where the spilled records stand (R400)
  wrote    : List Nat              -- other packages that its groups have written in the phase
  notes    : List OrdNote          -- what this package and others have said of the phase's barriers (R277)
  early    : List Message          -- steps of a rebalance that came before its plan (R392)
  racy   : Bool                     -- a race of its accesses has been met (R337)
  deriving DecidableEq, Repr

/-- A team (18): its place, banks, accumulator share and barriers. `saved`: pre-empted and not placed again. -/
structure Team where
  task    : Nat
  index   : Nat
  key     : DWord
  cores   : List Nat
  scratch : List Nat
  fifo    : List Nat
  cache   : List Nat
  accUnits : Nat
  accTiles : List (List Nat)       -- the tiles of its share on each of its cores
  groups  : List Nat
  bars    : Nat                    -- team barriers completed
  staged  : List (Bool × DWord)    -- staged requests (R273): a refinement, or a coarsening, of a key
  startNo : Nat
  ctxBytes : Nat
  saving  : Bool
  saved   : Bool
  area    : List (Nat × Nat)       -- the pieces of memory of its team area (R375)
  saveRoles : List Nat             -- roles of its banks (scratch, FIFO, cache) while it is saved
  deriving DecidableEq, Repr

/-- Where an invocation is: held at a handle, at the owner of its leaf (held while the leaf moves, or waiting for
room), waiting for room in a quarter, or running in a service group. -/
inductive InvPlace where
  | atHandle (quarter index : Nat)
  | atLeaf (owner : Nat)
  | ready (quarter : Nat)
  | running (gid : Nat)
  deriving DecidableEq, Repr

structure InvRec where
  inv   : Invocation
  place : InvPlace
  order : Nat
  deriving DecidableEq, Repr

inductive HandleState where
  | free | pending | ready | broken | forwarded
  deriving DecidableEq, Repr

/-- A handle entry (R418). -/
structure HandleEntry where
  result   : List Word
  fwdh     : DWord
  deadline : DWord
  cause    : Word
  task     : Nat
  waiting  : Nat
  gen      : BitVec 26
  tmo      : Nat
  state    : HandleState
  dropped  : Bool
  lookup   : Option (DWord × Nat)   -- a KLOCATE handle: the key and the asking quarter (R272)
  depth    : Nat                    -- delegations that lead here (R421)
  follows  : List (DWord × Nat)     -- handles of other packages, and their tasks, that take its outcome (R421)
  sentOn   : Nat                    -- invocations sent on from here that have not started yet (R286, R422)
  deriving DecidableEq, Repr

/-- A result or break notice on its way to its handle (class 3 of R410). -/
structure ResultMsg where
  id    : Nat
  h     : DWord
  task  : Nat
  words : List Word
  cause : Word
  fwd   : DWord
  of    : DWord                     -- the handle whose outcome it is, 0 for its own (R421)
  deriving DecidableEq, Repr

structure Mailbox where
  slots    : List Host.Cell
  consumed : Word
  cbase    : Nat
  ccount   : Nat
  owner    : Bool
  parts    : BitVec 64
  ctxbase  : DWord
  ctxsize  : DWord
  deriving DecidableEq, Repr

/-- A timeline counter (R365). -/
structure Counter where
  value : DWord
  errs  : Nat
  last  : Nat
  deriving DecidableEq, Repr

/-- An event of an event log (R432). -/
structure Event where
  time   : DWord
  code   : Nat
  source : Nat
  detail : Word
  addr   : DWord
  deriving DecidableEq, Repr

structure EventLog where
  head    : Word
  overrun : Word
  slots   : Map Event
  deriving DecidableEq, Repr

/-- A flit that waits for room on its port (R408, R410), and the stream and number of its message. -/
structure WaitFlit where
  chan    : Nat
  kind    : Nat
  payload : List Byte
  stream  : Nat
  msgno   : Word
  deriving DecidableEq, Repr

/-- One direction pair of a fabric port (R407 to R409). `kept`: the flits sent and not acknowledged, `refs`: their messages (stream and
number), `since`: the time of the first of them, the last acknowledgement or the last resending, `queue`: flits that wait for room, `turn`: the
class that was given room last. -/
structure Port where
  up       : Bool
  nextSeq  : Nat
  lastSeq  : Nat
  kept     : List (List Byte)
  refs     : List (Nat × Word)
  since    : DWord
  queue    : List WaitFlit
  turn     : Nat
  resends  : Nat
  nakSent  : Bool
  outbox   : List (List Byte)
  inbox    : List (List Byte)
  retries  : Nat
  downs    : Nat
  deriving DecidableEq, Repr

/-- A sending stream (R411 to R414): its next MSGNO; the messages without a final response (in classes 3 and 4, not received whole by
the peer), each with what waits for it and its deadline, all ones while it has none
(what waits: group, access number and lane; 0, command number and virtual function for an engine; group, 0 and 0 for an
invocation); the port it uses; the back-off in nanoseconds and the time of the next try. -/
structure Stream where
  cls     : Nat
  srcQtr  : Nat
  dstPkg  : Nat
  dstQtr  : Nat
  nextNo  : Word
  kept    : List (Message × Option (Nat × Nat × Nat) × DWord)
  route   : Option Nat
  backoff : Nat
  resendAt : DWord
  deriving DecidableEq, Repr

/-- A receiving stream (R411): the last MSGNO accepted plus one, and the last answer. -/
structure RecvStream where
  cls    : Nat
  srcPkg : Nat
  srcQtr : Nat
  dstQtr : Nat
  nextNo : Word
  answers : List (Word × Message)
  deriving DecidableEq, Repr

/-- Management space and what stands behind it (23). -/
structure Device where
  powered  : Bool
  linkUp   : Bool
  owner    : Nat
  offer    : Nat
  ftmo     : Nat
  minpt    : Word
  htmo     : Nat
  recovery : Bool
  fusedSvn : Word
  fwSvn    : Word
  fwHash   : BitVec 384
  attreq   : Map (List Byte)
  attrep   : Map (List Byte)
  access   : Map (BitVec 128)
  walkers  : Map DWord
  spaces   : Map (DWord × Nat)
  routes   : Map (BitVec 16)
  pkg      : Nat
  opp      : Map Nat                -- operating point of each quarter (R370)
  oppNext  : Map Nat                -- a change under way
  lifetime : Map Nat
  spares   : Map Nat
  logs     : Map EventLog
  svctab   : DWord × Nat
  comms    : Map Word
  commNo   : Map Nat                -- COLLs issued on each communicator (R260)
  down     : List Nat               -- quarters in reset or off the fabric (R415)
  deriving DecidableEq, Repr

/-- What a host master can read: management space, a mailbox, a counter block, its own event log, the configuration space of a function;
`header` where it reads a PCI Express capability header (R423, R428). -/
inductive HostWindow where
  | mgmt
  | mailbox (m : Nat)
  | counter (c : Nat)
  | eventLog
  | config (function : Nat) (header : Bool)
  deriving DecidableEq, Repr

/-- A turn: which agent moves next, or that time passes (DESIGN CHOICE, log entry 2). What happens outside the package and has no row in the
opcode table: a host master reads, or writes configuration space (R428, R429); a quarter goes into reset or leaves the fabric, or is back
(R415). -/
inductive Turn where
  | issue (gid : Nat)
  | event (i : Instr)
  | tick (ns : Nat)
  | hostRead (master : Nat) (w : HostWindow) (off n : Nat)
  | configWrite (master function off : Nat)
  | quarterDown (quarter : Nat) (down : Bool)
  deriving DecidableEq, Repr

/-- The whole machine. `cur` is the group whose turn it is; `free` counts the free values drawn; `seq` numbers
arrivals; `turns` counts turns; `guests` holds the lines written here in ordered phases of tasks without a record in this package, by task
(R397); `collIn` the data of other packages' ranks that have come, with their place in the rank list (R260); `slices` the lines that each
slice caches, by `sliceOf` (R315); `texts` gives the bytes of a text section (DESIGN CHOICE, log entry 6). -/
structure State where
  mem      : List Host.Cell
  bad      : List Nat
  groups   : Map Group
  cur      : Nat
  teams    : Map Team
  tasks    : Map Task
  cores    : Map Core
  clusters : Map Cluster
  cmds     : List Cmd
  mailboxes : Map Mailbox
  counters : Map Counter
  handles  : Map HandleEntry
  cuts     : Map CutTables
  guests   : Map (Map PhaseLine)
  collIn   : List (Nat × RankData)
  slices   : Map (List Nat)
  invs     : List InvRec
  results  : List ResultMsg
  ports    : Map Port
  streams  : Map Stream
  recvs    : List RecvStream
  dev      : Device
  clock    : DWord
  sched    : List Turn
  texts    : Map Nat
  free     : Nat
  seq      : Nat
  turns    : Nat
  deriving DecidableEq, Repr

/-- Why the machine stops with a fault. No meaning raises one: what the spec calls a fault or a trap is taken as
an exception (R302) or as a status, and the step answers a next state. -/
inductive Fault where
  /-- raised by no step; kept so that the type has a name for a machine that stops (safe: it never happens) -/
  | stopped
  deriving DecidableEq, Repr

/-- Why an instruction has no meaning here. -/
inductive Refusal where
  /-- raised by `exec` for an instruction whose meaning is not written (safe: nothing is claimed of it) -/
  | notModelled (mnemonic : String)
  deriving DecidableEq, Repr

def Split.empty : Split := ⟨0, 0, 0, 0, [0, 0, 0, 0], false, 0, []⟩

def LogEntry.empty : LogEntry := ⟨0, 0, 0, 0, 0, [], [], [], [], 0, 0, 0, [], 0, [], 0, false⟩

/-- A group context with nothing in it. -/
def Group.vacant : Group :=
  { kind := .vacant, width := 32, budget := 8, core := 0, seat := 0, ctx := 0, team := 0, task := 0,
    asid := 0, vf := 0, text := 0, prio := 0,
    level := 0, s := [], a := [], v := [], t := [], x := [], p := [], stack := [], splits := [], parked := [],
    cur := 0, ran := 0, rotated := [], exited := 0, flags := [], batches := [], gathers := [], xfer := 0, log := [], logSeq := 0, ovr := none,
    clause := none, again := none, after := [], hidden := [], pends := [], nextId := 1, tcause := 0, tinfo := 0, tepc := 0, tret := 0, taddr := 0, thand := 0,
    tpend := [], frame := none, held := none, waitHeld := [], saveMark := 0, faulted := false, off := false, yielded := false, served := [], ready := 0,
    bars := 0, ords := 0, ordes := 0, issued := [], fetchMiss := none, pageWaits := [], inv := 0, area := [], ctxBytes := 0, region := 0 }

def Core.empty : Core := ⟨[], [], 0, []⟩

def Cluster.empty : Cluster := ⟨[], [], [], [], none, none, []⟩

/-- A pool bank after reset: the cache role, no owner (DESIGN CHOICE, log entry 5). -/
def Bank.empty : Bank := ⟨0, none, []⟩

def Mailbox.empty : Mailbox := ⟨[], 0, 0, 0, false, 0, 0, 0⟩

def HandleEntry.empty : HandleEntry := ⟨[], 0, 0, 0, 0, 0, 1, 0, .free, false, none, 0, [], 0⟩

def CutTables.empty : CutTables := ⟨[], []⟩

def EventLog.empty : EventLog := ⟨0, 0, []⟩

def Port.empty : Port := ⟨true, 0, 4095, [], [], 0, [], 0, 0, false, [], [], 0, 0⟩

/-- Management space right after reset (R426, R428, R435): OWNER 0xFF, FTMO 4, HTMO 4, everything else zero. -/
def Device.reset : Device :=
  { powered := false, linkUp := false, owner := 0xFF, offer := 0xFF, ftmo := 4, minpt := 0, htmo := 4,
    recovery := false, fusedSvn := 0, fwSvn := 0, fwHash := 0, attreq := [], attrep := [], access := [],
    walkers := [], spaces := [], routes := [], pkg := 0, opp := [], oppNext := [], lifetime := [], spares := [],
    logs := [], svctab := (0, 0), comms := [], commNo := [], down := [] }

/-- The package right after reset, before its firmware check (R435): no task, no group, memory with nothing
listed, CLOCK 0. -/
def State.reset : State :=
  { mem := [], bad := [], groups := [], cur := 0, teams := [], tasks := [], cores := [], clusters := [],
    cmds := [], mailboxes := [], counters := [], handles := [], cuts := [], guests := [], collIn := [], slices := [], invs := [], results := [], ports := [],
    streams := [], recvs := [], dev := Device.reset, clock := 0, sched := [], texts := [], free := 0, seq := 1, turns := 1 }

end Sys2Proof.Machine
end

