-- ==== Sys2Proof/Machine/Ops.lean ====
section
/-! DEFINITION. The named operations over maps, memory, registers, masks and splits, and taking and returning from
an exception (01, 05, 12). -/

namespace Sys2Proof.Machine

/-! ### Finite maps -/

/-- The first entry of a key. -/
def mget {α : Type} : List (Nat × α) → Nat → Option α
  | [], _ => none
  | (j, y) :: t, k => if j = k then some y else mget t k

/-- The entry of a key, or a default. -/
def mgetD {α : Type} (m : List (Nat × α)) (k : Nat) (d : α) : α := (mget m k).getD d

/-- Sets a key, keeping a rising order. -/
def mput {α : Type} : List (Nat × α) → Nat → α → List (Nat × α)
  | [], k, x => [(k, x)]
  | (j, y) :: t, k, x =>
    if k < j then (k, x) :: (j, y) :: t
    else if k = j then (k, x) :: t
    else (j, y) :: mput t k x

/-- Removes every entry of a key. -/
def mdel {α : Type} (m : List (Nat × α)) (k : Nat) : List (Nat × α) := m.filter (fun e => e.1 != k)

/-- The keys of a map. -/
def mkeys {α : Type} (m : List (Nat × α)) : List Nat := m.map Prod.fst

/-- Applies a function to every value of a map. -/
def mmap {α : Type} (f : Nat → α → α) (m : List (Nat × α)) : List (Nat × α) := m.map (fun e => (e.1, f e.1 e.2))

/-! ### Byte memories in canonical form: rising addresses, no zero byte listed -/

/-- What an unlisted byte reads as (DESIGN CHOICE, log entry 1). -/
def unlisted : Byte := 0

/-- Keys strictly rising, every one above `lo`, no byte equal to what an unlisted one reads as. -/
def bytesOk (lo : Option Nat) : List Host.Cell → Bool
  | [] => true
  | (a, b) :: t => (match lo with | none => true | some l => l < a) && b != unlisted && bytesOk (some a) t

/-- The canonical form of a byte memory. -/
def Memory.wf (m : List Host.Cell) : Bool := bytesOk none m

/-- Reads one byte. -/
def bget (m : List Host.Cell) (a : Nat) : Byte := mgetD m a unlisted

/-- Writes one byte, keeping the canonical form. -/
def bput (m : List Host.Cell) (a : Nat) (b : Byte) : List Host.Cell :=
  if b = unlisted then mdel m a else mput m a b

/-- Reads `n` bytes from an address. -/
def bgetN (m : List Host.Cell) (a n : Nat) : List Byte := (List.range n).map (fun k => bget m (a + k))

/-- Writes bytes from an address. -/
def bputN (m : List Host.Cell) (a : Nat) : List Byte → List Host.Cell
  | [] => m
  | b :: t => bputN (bput m a b) (a + 1) t

/-- The little-endian number of some bytes (R3). -/
def leNat : List Byte → Nat
  | [] => 0
  | b :: t => b.toNat + 256 * leNat t

/-- The `n` little-endian bytes of a number. -/
def leBytes : Nat → Nat → List Byte
  | 0, _ => []
  | n + 1, x => BitVec.ofNat 8 x :: leBytes n (x / 256)

def leWord (bs : List Byte) : Word := BitVec.ofNat 32 (leNat bs)
def leDWord (bs : List Byte) : DWord := BitVec.ofNat 64 (leNat bs)

/-- A little-endian field of some bytes. -/
def fieldAt (bs : List Byte) (off n : Nat) : Nat := leNat ((bs.drop off).take n)
def wordAt (bs : List Byte) (off : Nat) : Word := BitVec.ofNat 32 (fieldAt bs off 4)
def dwordAt (bs : List Byte) (off : Nat) : DWord := BitVec.ofNat 64 (fieldAt bs off 8)

/-- A 64-bit value from its low and high words (R3). -/
def pair (lo hi : Word) : DWord := hi ++ lo

def loWord (x : DWord) : Word := x.extractLsb' 0 32
def hiWord (x : DWord) : Word := x.extractLsb' 32 32

/-! ### The parts of the state -/

def State.group (s : State) (gid : Nat) : Group := mgetD s.groups gid Group.vacant
def State.setGroup (s : State) (gid : Nat) (g : Group) : State := { s with groups := mput s.groups gid g }

/-- The group whose turn it is. -/
def State.G (s : State) : Group := s.group s.cur
def State.setG (s : State) (g : Group) : State := s.setGroup s.cur g

def State.task? (s : State) (t : Nat) : Option Task := mget s.tasks t
def State.setTask (s : State) (t : Nat) (k : Task) : State := { s with tasks := mput s.tasks t k }
def State.team? (s : State) (t : Nat) : Option Team := mget s.teams t
def State.setTeam (s : State) (t : Nat) (k : Team) : State := { s with teams := mput s.teams t k }
def State.core (s : State) (c : Nat) : Core := mgetD s.cores c Core.empty
def State.setCore (s : State) (c : Nat) (k : Core) : State := { s with cores := mput s.cores c k }
def State.cluster (s : State) (c : Nat) : Cluster := mgetD s.clusters c Cluster.empty
def State.setCluster (s : State) (c : Nat) (k : Cluster) : State := { s with clusters := mput s.clusters c k }
def State.mailbox (s : State) (m : Nat) : Mailbox := mgetD s.mailboxes m Mailbox.empty
def State.setMailbox (s : State) (m : Nat) (b : Mailbox) : State := { s with mailboxes := mput s.mailboxes m b }

/-- Draws a free value (Config.freeNat). -/
def State.draw (s : State) : Nat × State := (Config.freeNat s.free, { s with free := s.free + 1 })

/-- The next number in order of arrival. -/
def State.tick1 (s : State) : State := { s with seq := s.seq + 1 }

/-- The cluster of a core (R1): eight cores to a cluster. -/
def clusterOf (core : Nat) : Nat := core / 8

/-- The quarter of a core: 24 clusters to a quarter. -/
def quarterOf (core : Nat) : Nat := core / 192

/-- A group that runs a text of the package and not its task's: the walker, or a service of the package (R296, R322). -/
def State.ofPackage (s : State) (g : Group) : Bool :=
  match s.task? g.task with
  | some t => g.kind == .walker || (g.kind == .service && g.text != t.record.text)
  | none => true

/-- THAND (R294), 0 for none: the task's, which its launch record sets; a group of the package has its own, 0 at its start
(DEDUCED, log entry 47). -/
def State.thand (s : State) (g : Group) : Word :=
  if s.ofPackage g then g.thand
  else match s.task? g.task with
  | some t => t.thand
  | none => g.thand

/-! ### Lanes and masks -/

def lanes96 : List Nat := List.range 96

/-- The row of a function of the lane. -/
def mkRow (f : Nat → Word) : Row := lanes96.map f

/-- The value a row gives a lane. -/
def Row.at (r : Row) (i : Nat) : Word := r.getD i 0

/-- The set of the lanes below 96 for which a test holds. -/
def maskOf (f : Nat → Bool) : Mask :=
  (BitVec.ofBoolListLE (lanes96.map f)).setWidth 96

/-- The lanes of a mask in ascending order. -/
def laneList (m : Mask) : List Nat := lanes96.filter (fun i => m.getLsbD i)

/-- The lanes below a width (R15, R16). -/
def widthMask (w : Nat) : Mask := BitVec.ofNat 96 (2 ^ w - 1)

/-- The lowest lane of a mask. -/
def lowestLane (m : Mask) : Option Nat := (laneList m).head?

/-- The number of lanes of a mask. -/
def laneCount (m : Mask) : Nat := (laneList m).length

/-! ### Splits -/

/-- The executing split (R130). -/
def Group.split (g : Group) : Split := mgetD g.splits g.cur Split.empty

def Group.setSplit (g : Group) (sp : Split) : Group := { g with splits := mput g.splits g.cur sp }

/-- The live mask (R17): the union of the masks of all splits and parked splits. -/
def Group.live (g : Group) : Mask :=
  (g.splits.foldl (fun acc e => acc ||| e.2.mask) 0) ||| (g.parked.foldl (fun acc sp => acc ||| sp.mask) 0)

/-- Every word of a handler runs at a level of at least 1; PRIO and the rest are plain fields. -/
def Group.inHandler (g : Group) : Bool := g.frame.isSome

/-- The stack condition of a depth (R28): entry `d` for d of 1 to 16, every lane for 0. -/
def Group.pass (g : Group) (d : Nat) : Mask := if d = 0 then BitVec.allOnes 96 else mgetD g.stack d 0

def Group.pred (g : Group) (p : Nat) : Mask := mgetD g.p p 0

/-! ### Register reads -/

/-- The operand-log entry that a reissued word takes its sources from (R305, R324). -/
def Group.ovrEntry (g : Group) : Option LogEntry := g.ovr.bind (mget g.log)

/-- The mode register that an instruction uses: as it stood at its issue (R136). -/
def Group.mode (g : Group) : Word :=
  match g.ovrEntry with
  | some e => e.mode
  | none => g.split.mode

/-- The format registers that an instruction uses (R136). -/
def Group.fmt (g : Group) (n : Nat) : Word :=
  match g.ovrEntry with
  | some e => e.fmts.getD n 0
  | none => g.split.fmts.getD n 0

/-- The lanes that pass the guard predicate of the mode register (R31). -/
def Group.guard (g : Group) : Mask :=
  let n := (g.mode.extractLsb' 8 4).toNat
  if n = 0 then BitVec.allOnes 96 else g.pred (n - 1)

/-- active(i) of R9, as the stack condition narrows it (R29); a reissued word acts in the
lanes that were active at its issue (R324). -/
def Group.active (g : Group) : Mask :=
  match g.ovrEntry with
  | some e => e.act
  | none => g.split.mask &&& g.pass g.split.depth &&& g.guard

/-- The source word that the log entry holds for a register. -/
def logSrc : List Reg → List SrcWord → Reg → Option SrcWord
  | r :: rs, w :: ws, q => if r = q then some w else logSrc rs ws q
  | _, _, _ => none

def Group.logged (g : Group) (r : Reg) : Option SrcWord :=
  g.ovrEntry.bind (fun e => logSrc e.regs e.src r)

/-- The uniform file as a plain read (R14 to R16). -/
def Group.uni (g : Group) (n : Nat) : Word :=
  if n < 60 then mgetD g.s n 0
  else if n = 60 then g.split.mask.extractLsb' 0 32
  else if n = 61 then g.split.mask.extractLsb' 32 32
  else if n = 62 then g.split.mask.extractLsb' 64 32
  else BitVec.ofNat 32 g.width

/-- Reads a uniform source. -/
def Group.rdS (g : Group) (n : Nat) : Word :=
  match g.logged (.s n) with
  | some (.uni w) => w
  | _ => g.uni n

/-- Reads a uniform pair, low register first. -/
def Group.rdS2 (g : Group) (n : Nat) : DWord := pair (g.rdS n) (g.rdS (n + 1))

/-- Reads an affine source (R21). -/
def Group.rdA (g : Group) (n : Nat) : Aff :=
  match g.ovrEntry.bind (fun e => mget e.affs n) with
  | some a => a
  | none => mgetD g.a n ⟨0, 0⟩

/-- lane_value of an affine register (R21). -/
def Aff.lane (a : Aff) (i : Nat) : DWord := a.base + a.stride.signExtend 64 * BitVec.ofNat 64 i

/-- A varying register or temporary as a row (R22). -/
def Group.row (g : Group) (n : Nat) : Row := if 124 ≤ n then mgetD g.t (n - 124) [] else mgetD g.v n []

/-- Reads a varying source. -/
def Group.rdRow (g : Group) (n : Nat) : Row :=
  match g.logged (.v n) with
  | some (.lanes r) => r
  | _ => g.row n

def Group.rdV (g : Group) (n i : Nat) : Word := (g.rdRow n).at i

/-- The 64-bit value of a varying pair in a lane. -/
def Group.rdV2 (g : Group) (n i : Nat) : DWord := pair (g.rdV n i) (g.rdV (n + 1) i)

/-- The seed pair that the mode register names (R31). -/
def Group.seedPair (g : Group) : DWord :=
  let n := 2 * (g.mode.extractLsb' 16 5).toNat
  pair (g.uni n) (g.uni (n + 1))

/-- The seed pair that an instruction uses: as it stood at its issue (R136). -/
def Group.seeds (g : Group) : DWord :=
  match g.ovrEntry with
  | some e => e.seeds
  | none => g.seedPair

/-- The scale register that format register `n` names (R33, R114), as it stood at the issue (R136, log entry 47). -/
def Group.scaleAt (g : Group) (n : Nat) : Word :=
  match g.ovrEntry with
  | some e => e.scales.getD n 0
  | none => g.uni ((g.fmt n).extractLsb' 24 6).toNat

/-! ### Register writes -/

/-- The registers that the trap frame saves and the handler has anew (R302). -/
def Reg.saved : Reg → Bool
  | .s n => decide (52 ≤ n ∧ n < 63)
  | .v n => decide (124 ≤ n)
  | .p _ => true
  | _ => false

/-- R42: a write under access number `id` overtakes the pending writes of earlier instructions. A handler that began at
access number `mark` does not overtake what an instruction from before it writes to a saved register (R302). -/
def killPends (mark : Option Nat) (id : Nat) (r : Reg) (m : Mask) (ps : List Pend) : List Pend :=
  ps.map (fun p =>
    if p.id < id ∧ r ∈ p.dst ∧ ¬(r.saved = true ∧ ∃ k ∈ mark, p.id < k ∧ k ≤ id) then
      { p with killed := (r, m) :: p.killed } else p)

/-- A write by an instruction from after the one that is to be issued again. -/
def killAgain (id : Nat) (r : Reg) (m : Mask) : Again → Again
  | some (k, l) => some (k, if k < id then (r, m) :: l else l)
  | none => none

def Back.kill (id : Nat) (r : Reg) (m : Mask) (b : Back) : Back := { b with again := killAgain id r m b.again }

/-- The marks that a write leaves (R42): on the instructions outstanding, on a word that is to be issued again, and
on the saved registers that a handler has written. -/
def Group.kill (g : Group) (id : Nat) (r : Reg) (m : Mask) : Group :=
  let g := { g with pends := killPends (g.frame.map Frame.mark) id r m g.pends }
  match g.frame with
  | none => { g with again := killAgain id r m g.again, after := g.after.map (Back.kill id r m) }
  | some f =>
    if f.mark ≤ id ∨ g.nextId ≤ id then (if r.saved then { g with hidden := (r, m) :: g.hidden } else g)
    else { g with frame := some { f with
      late := killAgain id r m f.late, again := killAgain id r m f.again, after := f.after.map (Back.kill id r m) } }

/-- A row with new values in some lanes (R25). -/
def mergeRow (old : Row) (m : Mask) (f : Nat → Word) : Row :=
  mkRow (fun i => if m.getLsbD i then f i else old.at i)

/-- The register file with a plain uniform register set. -/
def Group.putS (g : Group) (n : Nat) (w : Word) : Group := { g with s := mput g.s n w }

/-- The lanes that a write to the mask registers may set in the executing split (R17). -/
def Group.maskAllowed (g : Group) : Mask :=
  widthMask g.width &&& ~~~g.exited &&& (~~~g.live ||| g.split.mask)

/-- The mask after a write of `w` to s60, s61 or s62 (R17). -/
def Group.maskWrite (g : Group) (old : Mask) (n : Nat) (w : Word) : Mask :=
  let sh := 32 * (n - 60)
  let seg : Mask := BitVec.ofNat 96 (2 ^ 32 - 1) <<< sh
  (old &&& ~~~seg) ||| ((w.zeroExtend 96 <<< sh) &&& g.maskAllowed &&& seg)

/-- The mask after a list of uniform writes, in order. -/
def Group.masksAfter (g : Group) (ws : List (Nat × Word)) : Mask :=
  ws.foldl (fun m e => if 60 ≤ e.1 ∧ e.1 < 63 then g.maskWrite m e.1 e.2 else m) g.split.mask

/-- Performs uniform writes under access number `id`: s60 to s62 set the mask (R17), s63 discards (R14). -/
def Group.putUnis (g : Group) (id : Nat) (ws : List (Nat × Word)) : Group :=
  let m := g.masksAfter ws
  let g := if ws.any (fun e => 60 ≤ e.1 ∧ e.1 < 63) then g.setSplit { g.split with mask := m } else g
  ws.foldl (fun g e =>
    if e.1 < 60 then (g.putS e.1 e.2).kill id (.s e.1) 1 else g) g

/-- Sets an affine register. -/
def Group.putA (g : Group) (n : Nat) (a : Aff) : Group :=
  { g with a := mput g.a n a }.kill g.nextId (.a n) 1

/-- Writes a varying register or temporary in some lanes under access number `id`; a temporary then counts as
written in this clause (R24, R25). -/
def Group.putV (g : Group) (id n : Nat) (m : Mask) (f : Nat → Word) : Group :=
  let r := mergeRow (g.row n) m f
  let g := g.kill id (.v n) m
  if 124 ≤ n then { g with t := mput g.t (n - 124) r } else { g with v := mput g.v n r }

/-- Writes a predicate in some lanes. -/
def Group.putP (g : Group) (id n : Nat) (m val : Mask) : Group :=
  { g with p := mput g.p n ((g.pred n &&& ~~~m) ||| (val &&& m)) }.kill id (.p n) m

/-- Writes an index register in some lanes; bits 31:24 read as zero (R26). -/
def Group.putX (g : Group) (n : Nat) (m : Mask) (f : Nat → Word) : Group :=
  { g with x := mput g.x n (mergeRow (mgetD g.x n []) m (fun i => f i &&& 0x00FFFFFF)) }

/-- The lanes of a register that some marks name. -/
def deadLanes (l : List (Reg × Mask)) (r : Reg) : Mask :=
  l.foldl (fun acc e => if e.1 = r then acc ||| e.2 else acc) 0

/-- The entry of a table whose split issued an instruction under divergence number `sid`. -/
def splitOf (m : Map Split) (sid cur : Nat) : Nat :=
  match m.find? (fun e => e.2.ids.contains sid) with
  | some e => e.1
  | none => cur

/-- A write of s60 to s62 that comes after its word has issued: the mask of the split that issued it (R17, R41). -/
def Group.putMask (g : Group) (sid n : Nat) (w : Word) : Group :=
  let k := splitOf g.splits sid g.cur
  let v := { g with cur := k }
  { v.setSplit { v.split with mask := v.masksAfter [(n, w)] } with cur := g.cur }

/-- The group with the splits that its trap frame holds. -/
def Group.outer (g : Group) (f : Frame) : Group := { g with splits := f.splits, parked := f.parked, cur := f.cur }

/-- A result in the trap frame: what the program finds again at ERET (R302). -/
def Frame.write (f : Frame) (g : Group) (sid : Nat) (w : RegWrite) (m : Mask) : Frame :=
  match w.reg with
  | .s n =>
    if 60 ≤ n then { f with splits := ((g.outer f).putMask sid n (w.row.at 0)).splits }
    else { f with unis := f.unis.set (n - 52) (w.row.at 0) }
  | .v n => { f with temps := mput f.temps (n - 124) (mergeRow (mgetD f.temps (n - 124) []) m w.row.at) }
  | .p n => { f with preds := mput f.preds n ((mgetD f.preds n 0 &&& ~~~m) ||| (maskOf (fun i => w.row.at i != 0) &&& m)) }
  | _ => f

/-- A late result for a temporary goes to the clause that waits behind a word issued again alone (R24, R305), whose temporaries are
back in place once that word has issued. -/
def Group.putTemp (g : Group) (id n : Nat) (m : Mask) (f : Nat → Word) : Group :=
  let h := { g with after := g.after.map (fun b =>
    { b with temps := b.temps.map (fun t => mput t (n - 124) (mergeRow (mgetD t (n - 124) []) m f)) }) }
  match g.after with
  | b :: _ => if b.temps.isSome then h else h.putV id n m f
  | [] => h.putV id n m f

/-- One register written in some lanes by instruction `p`. -/
def Group.writeLate (g : Group) (p : Pend) (w : RegWrite) (m : Mask) : Group :=
  match w.reg with
  | .s n =>
    if !m.getLsbD 0 then g
    else if 60 ≤ n ∧ n < 63 then g.putMask p.sid n (w.row.at 0)
    else g.putUnis p.id [(n, w.row.at 0)]
  | .a n => if m.getLsbD 0 then g.putA n ⟨pair (w.row.at 0) (w.row.at 1), w.row.at 2⟩ else g
  | .v n => if 124 ≤ n then g.putTemp p.id n m w.row.at else g.putV p.id n m w.row.at
  | .p n => g.putP p.id n m (maskOf (fun i => w.row.at i != 0))
  | .x n => g.putX n m w.row.at

/-- A computed result of instruction `p`, in the lanes not overtaken (R42). A saved register written by an instruction
from before the handler's entry is written in the trap frame, and in the handler's own copy where the handler has not
written it (R41, R302); the masks and temporaries of the handler are its own. -/
def Group.applyWrite (g : Group) (p : Pend) (w : RegWrite) : Group :=
  let m := w.lanes &&& ~~~(deadLanes p.killed w.reg)
  match g.frame with
  | none => g.writeLate p w m
  | some f =>
    if p.id < f.mark ∧ w.reg.saved then
      let g' := if m = 0 then g else { g with frame := some (f.write g p.sid w m) }
      match w.reg with
      | .s n => if 60 ≤ n then g' else g'.writeLate p w (m &&& ~~~(deadLanes g.hidden w.reg))
      | .p _ => g'.writeLate p w (m &&& ~~~(deadLanes g.hidden w.reg))
      | _ => g'
    else g.writeLate p w m

def Group.applyWrites (g : Group) (p : Pend) (ws : List RegWrite) : Group := ws.foldl (fun g w => g.applyWrite p w) g

/-! ### Flags (R35) -/

def Group.flag (g : Group) (n : Nat) : Nat := mgetD g.flags n 0

def Group.flagUp (g : Group) : Option Nat → Group
  | some n => { g with flags := mput g.flags n (g.flag n + 1) }
  | none => g

def Group.flagDown (g : Group) : Option Nat → Group
  | some n => { g with flags := mput g.flags n (g.flag n - 1) }
  | none => g

/-- The transfer count one lower (R37). -/
def Group.xferDown (g : Group) (n : Nat) : Group := { g with xfer := g.xfer - n }

/-! ### Results of a meaning -/

/-- A precise fault or trap (R300): cause, detail of R94, TINFO, failing lanes, address, extra source words. -/
structure Trap where
  cause  : Nat
  detail : Nat
  info   : Word
  lanes  : Mask
  addr   : DWord
  words  : List Word
  deriving DecidableEq, Repr

def Trap.of (cause : Nat) : Trap := ⟨cause, 0, 0, 0, 0, []⟩

/-- What an instruction's own effect comes to: it takes effect and the clause goes on; it has
set where the group goes on itself (`done`); it traps precisely (R78), with nothing changed or with only
an event posted (`trapIn`); it does not issue yet. -/
inductive Res where
  | ok (s : State)
  | done (s : State)
  | trap (t : Trap)
  | trapIn (s : State) (t : Trap)
  | stall
  deriving DecidableEq, Repr

/-! ### Exceptions (R300 to R305) -/

/-- TCAUSE (R294). -/
def tcauseWord (precise : Bool) (detail code : Nat) : Word :=
  BitVec.ofNat 32 ((if precise then 65536 else 0) + 256 * detail + code)

/-- The rank of a held request (R326). -/
def Held.rank : Held → Nat
  | .shrink _ _ => 0 | .swap => 1 | .kill _ => 2

/-- Requests that wait, the highest rank first. -/
def queueHeld (h : Held) : List Held → List Held
  | [] => [h]
  | x :: t => if x.rank < h.rank then h :: x :: t else x :: queueHeld h t

/-- Holds a request to kill, swap or shrink a group: one of higher rank replaces one of lower, an equal or lower one waits
behind it (R326). -/
def Group.request (g : Group) (h : Held) : Group :=
  match g.held with
  | none => { g with held := some h }
  | some h' => if h'.rank < h.rank then { g with held := some h } else { g with waitHeld := queueHeld h g.waitHeld }

/-- A double fault: the dealer kills the group under R37 (R303). -/
def Group.doubleFault (g : Group) : Group :=
  { g.request (.kill true) with faulted := true, clause := none }

/-- The trap frame of R302. -/
def Group.makeFrame (g : Group) (entry : Option Nat) (atWord : Bool) (redo : Option Clause) : Frame :=
  { splits := g.splits, parked := g.parked, cur := g.cur, stack := g.stack, preds := g.p, temps := g.t,
    tw := match g.clause with | some c => c.tw | none => 0,
    unis := (List.range 8).map (fun k => mgetD g.s (52 + k) 0), level := g.level, clause := g.clause,
    entry := entry, atWord := atWord, mark := g.nextId, redo := redo, late := none, lateSid := 0, ovr := g.ovr, again := g.again,
    after := g.after }

/-- Taking an exception (R302, R303): the one operation by which every precise fault, trap and boundary cause
enters the handler. `tret` is the resume action, `tepc` the resume address,
`redo` the position of a word whose fault came after its issue. -/
def enterHandler (s : State) (cause tinfo : Word) (tepc taddr : DWord) (tret : Nat) (entry : Option Nat)
    (atWord : Bool) (redo : Option Clause) : State :=
  let g := s.G
  if s.thand g = 0 ∨ g.inHandler ∨ g.kind = .walker then s.setG g.doubleFault
  else
    let live := g.live
    let f := g.makeFrame entry atWord redo
    let g := { g with
      frame := some f, tcause := cause, tinfo := tinfo, tepc := tepc, taddr := taddr,
      tret := BitVec.ofNat 32 tret, level := max 1 g.level, clause := none, ovr := none, again := none,
      after := [], off := false, hidden := [(.s 52, 1), (.s 53, 1), (.s 54, 1), (.s 55, 1)], parked := [], cur := 0,
      ran := 0, rotated := [], pageWaits := [] }
    let g := { g with splits := [(0, { Split.empty with
      pc := g.text + (s.thand g).zeroExtend 64, mask := live, formed := g.nextId, ids := [g.nextId] })],
                      nextId := g.nextId + 1 }
    let g := ((g.putS 52 cause).putS 53 tinfo).putS 54 (loWord tepc)
    s.setG (g.putS 55 (hiWord tepc))

/-- The operand-log slot a new entry takes: the lowest free one of eight (R38). -/
def Group.freeLog (g : Group) : Option Nat := (List.range 8).find? (fun k => (mget g.log k).isNone)

/-- All eight entries in use: the group issues nothing (R38). -/
def Group.logFull (g : Group) : Bool := g.freeLog.isNone

/-- The address of the word being issued. -/
def Group.wordPc (g : Group) : DWord :=
  match g.clause with
  | some c => c.start + 4 * BitVec.ofNat 64 (c.pos + 1)
  | none => g.split.pc

/-- Causes that make an operand-log entry: every precise fault (R38); the illegal-instruction and stack traps
make none (DEDUCED, log entry 7). -/
def causeLogs (cause : Nat) : Bool := 4 ≤ cause

/-- The split removed from a mask of exited lanes. -/
def Split.without (sp : Split) (m : Mask) : Split := { sp with mask := sp.mask &&& ~~~m }

/-- A splits table without empty splits. -/
def dropEmpty (m : Map Split) : Map Split := m.filter (fun e => e.2.mask != 0)

/-- The lowest free entry of the split table (R39). -/
def Group.freeSplit (g : Group) : Option Nat := [0, 1, 2, 3].find? (fun k => (mget g.splits k).isNone)

/-- R39, R130: freed entries go to the oldest parked splits. -/
def Group.unpark (g : Group) : Group :=
  [0, 1, 2, 3].foldl (fun g _ =>
    match g.freeSplit, g.parked with
    | some k, sp :: rest => { g with splits := mput g.splits k sp, parked := rest }
    | _, _ => g) g

/-- The return from an exception, its state part (R305): what R302 saved and the level come back; lanes that the
handler exited stay exited. -/
def Group.restoreFrame (g : Group) (f : Frame) : Group :=
  let g := { g with
    splits := dropEmpty (mmap (fun _ sp => sp.without g.exited) f.splits),
    parked := (f.parked.map (fun sp => sp.without g.exited)).filter (fun sp => sp.mask != 0),
    cur := f.cur, stack := f.stack, p := f.preds, t := f.temps, level := f.level, frame := none, clause := none,
    after := f.after, hidden := [], ran := 0, rotated := [] }
  (List.range 8).foldl (fun g k => g.putS (52 + k) (f.unis.getD k 0)) g

end Sys2Proof.Machine
end

