-- ==== Sys2Proof/Machine/Flags.lean ====
section
/-! DEFINITION. Integer arithmetic, shifts, bit counts and relations on 32-bit and 64-bit values (R150 to R154, R157,
and the varying forms of chapter 07). Tarard keeps no condition flags: a compare writes a predicate or a register. -/

namespace Sys2Proof.Machine

def minI : Int := -(2 ^ 31)
def maxI : Int := 2 ^ 31 - 1
def maxN : Int := 2 ^ 32 - 1

/-- Bits 63:32 of the signed product. -/
def mulHiI (a b : Word) : Word := BitVec.ofInt 32 (a.toInt * b.toInt / 2 ^ 32)

/-- Bits 63:32 of the unsigned product. -/
def mulHiN (a b : Word) : Word := BitVec.ofNat 32 (a.toNat * b.toNat / 2 ^ 32)

/-- Quotients and remainders of R150, truncated toward zero; by zero 0xFFFF_FFFF and the dividend. -/
def divI (a b : Word) : Word := if b = 0 then 0xFFFFFFFF else BitVec.ofInt 32 (a.toInt.tdiv b.toInt)
def divN (a b : Word) : Word := if b = 0 then 0xFFFFFFFF else BitVec.ofNat 32 (a.toNat / b.toNat)
def remI (a b : Word) : Word := if b = 0 then a else BitVec.ofInt 32 (a.toInt.tmod b.toInt)
def remN (a b : Word) : Word := if b = 0 then a else BitVec.ofNat 32 (a.toNat % b.toNat)

/-- Signed and unsigned smaller and larger values. -/
def minIW (a b : Word) : Word := if a.toInt ≤ b.toInt then a else b
def maxIW (a b : Word) : Word := if a.toInt ≤ b.toInt then b else a
def minNW (a b : Word) : Word := if a.toNat ≤ b.toNat then a else b
def maxNW (a b : Word) : Word := if a.toNat ≤ b.toNat then b else a

/-- Saturating sums and differences. -/
def addSatI (a b : Word) : Word := BitVec.ofInt 32 (sat (a.toInt + b.toInt) minI maxI)
def addSatN (a b : Word) : Word := BitVec.ofInt 32 (sat (a.toNat + b.toNat) 0 maxN)
def subSatI (a b : Word) : Word := BitVec.ofInt 32 (sat (a.toInt - b.toInt) minI maxI)
def subSatN (a b : Word) : Word := BitVec.ofInt 32 (sat ((a.toNat : Int) - b.toNat) 0 maxN)

/-- Shifts by an unsigned count: 0 for 32 and more; the arithmetic right shift then gives the sign (R151). -/
def shl (a c : Word) : Word := if 32 ≤ c.toNat then 0 else a <<< c.toNat
def shrN (a c : Word) : Word := if 32 ≤ c.toNat then 0 else a >>> c.toNat
def shrI (a c : Word) : Word := a.sshiftRight (min c.toNat 31)

/-- 64-bit shifts (R154): 0 for a count of 64 and more. -/
def shl64 (a : DWord) (c : Word) : DWord := if 64 ≤ c.toNat then 0 else a <<< c.toNat
def shr64 (a : DWord) (c : Word) : DWord := if 64 ≤ c.toNat then 0 else a >>> c.toNat

/-- The number of set bits, and of zero bits above the highest set one (R151). -/
def popc (a : Word) : Word := BitVec.ofNat 32 ((List.range 32).countP (fun i => a.getLsbD i))
def clz (a : Word) : Word := if a = 0 then 32 else BitVec.ofNat 32 (31 - a.toNat.log2)

/-- The bits in the opposite order. -/
def brev (a : Word) : Word :=
  BitVec.ofNat 32 ((List.range 32).foldl (fun acc i => acc + if a.getLsbD i then 2 ^ (31 - i) else 0) 0)

/-- Relations: `.LT` and `.LE` under the reading their modifier names (R152). -/
def ltI (a b : Word) : Bool := decide (a.toInt < b.toInt)
def leI (a b : Word) : Bool := decide (a.toInt ≤ b.toInt)
def ltN (a b : Word) : Bool := decide (a.toNat < b.toNat)
def leN (a b : Word) : Bool := decide (a.toNat ≤ b.toNat)

/-- 1 when a relation holds, else 0. -/
def bit01 (b : Bool) : Word := if b then 1 else 0

/-- E(a, i) of chapter 06: the exact lane value of an affine register. -/
def Aff.exact (a : Aff) (i : Nat) : Int := a.base.toInt + a.stride.toInt * i

/-- A value outside the signed 32-bit range (R157). -/
def outside32 (r : Int) : Bool := decide (r < minI) || decide (maxI < r)

end Sys2Proof.Machine
end

