-- ==== Sys2Proof/Machine/Operands.lean ====
section
/-! DEFINITION. Operand forms: the registers a field names, the checks before a word issues (R80, R94, R41, R24,
R77), making an issued access, taking a precise fault, and `issue`, the frame of every instruction with a word. -/

namespace Sys2Proof

open Machine

/-- The registers an operand field names. -/
def Opd.regs (o : Opd) : List Reg :=
  let n := o.val.toNat
  match o.kind with
  | .s | .s2 | .s8 | .sn _ => (List.range o.kind.run).map (fun k => .s (n + k))
  | .a => [.a n]
  | .v | .v2 | .v3 | .v4 => (List.range o.kind.run).map (fun k => .v (n + k))
  | .p => [.p n]
  | .c => if n < 8 then [.p n] else if n < 16 then [.p (n - 8)] else []
  | .x => [.x n]
  | .ix => [.x (n / 32)]
  | .sc => [.s (2 * (n % 16)), .s (2 * (n % 16) + 1)]
  | .fm => []

def isSrc (o : Opd) : Bool := o.role != .dst
def isDst (o : Opd) : Bool := o.role != .src

/-- The registers an instruction reads. -/
def Shape.srcs (sh : Shape) : List Reg := (sh.opds.filter isSrc).flatMap Opd.regs

/-- The registers an instruction writes. -/
def Shape.dsts (sh : Shape) : List Reg := (sh.opds.filter isDst).flatMap Opd.regs

/-- A shape of no instruction, for a word that has none. -/
def Shape.empty : Shape := ⟨0, 0, 0, none, none, none, none, []⟩

/-- Terminal instructions (R77). -/
def Shape.terminal (sh : Shape) : Bool :=
  (sh.cls == 0 && (sh.fn == 1 || (sh.fn == 4 && sh.sub != 0) || sh.fn == 5)) ||
  (sh.cls == 6 && sh.fn == 4 && sh.sub == 5)

/-- Code 7 of R94: a temporary read before it is written in the clause (R24). -/
def tempUnread (tw : BitVec 4) (rs : List Reg) : Bool :=
  rs.any (fun r => match r with | .v n => 124 ≤ n && !tw.getLsbD (n - 124) | _ => false)

/-- Words that ignore the guard (R144, R145, R134, R135, R208, R242, R274, R276, R277, R293): uniform and affine ones but those that
take lanes, PPUSH, PINV, PPOP, SETMODE, SETFMT, NOP, YIELD, BAR, FENCE, BATCH, BWAIT, BSTAT, KCOMMIT, KREBAL, ORDB, ORDE, ERET. -/
def Shape.ignoresGuard (sh : Shape) : Bool :=
  match sh.cls, sh.fn with
  | 0, 0 | 0, 2 => true
  | 0, 3 => sh.sub == 0 || sh.sub == 2
  | 0, 4 => sh.sub == 2
  | 1, _ => true
  | 2, _ => sh.d.any (fun o => o.kind == .a || o.kind == .s2)
  | 5, 3 => sh.sub == 12
  | 5, 7 => true
  | 6, 0 => 16 ≤ sh.sub
  | 6, 1 => sh.sub == 19 || sh.sub == 20
  | 6, 2 => sh.sub < 2
  | 6, 4 => sh.sub == 5
  | _, _ => false

/-- Registers that a word reads without naming them: SPAWN s8 to s11 (R44, R138); accesses and engine commands the cell in s9 to
s11 (R278, R397). -/
def Shape.implied (sh : Shape) : List Reg :=
  let cell : List Reg := [.s 9, .s 10, .s 11]
  match sh.cls, sh.fn with
  | 0, 4 => if sh.sub = 0 then .s 8 :: cell else []
  | 5, 0 | 5, 1 | 5, 2 | 5, 4 | 5, 5 => cell
  | 6, 0 => if sh.sub < 16 then cell else []
  | _, _ => []

/-- Words that set the clause's FA flag (R73, R205, R235, R239, R242, R265, R292). -/
def Shape.setsFa (sh : Shape) : Bool :=
  match sh.cls, sh.fn with
  | 5, 3 => sh.sub != 13
  | 5, _ | 6, 3 => true
  | 6, 0 => sh.sub < 16 || (21 ≤ sh.sub && sh.sub < 26)
  | 6, 1 => sh.sub == 5 || sh.sub == 6 || 16 ≤ sh.sub
  | 6, 2 => sh.sub < 3
  | 6, 4 => sh.sub < 5
  | _, _ => false

/-- Memory-class words that have their effect as they issue: KOWNER, KREFINE, KCOARSEN, KCOST, KREBAL, ORDSTAT, RDROP, SYSRD, SYSWR,
TLBFILL, LOGRD (R265, R292). -/
def Shape.actsAtIssue (sh : Shape) : Bool :=
  match sh.cls, sh.fn with
  | 6, 1 => sh.sub == 6 || (16 ≤ sh.sub && sh.sub != 19)
  | 6, 2 => sh.sub == 2
  | 6, 3 => sh.sub == 6
  | 6, 4 => sh.sub < 3 || sh.sub == 4
  | _, _ => false

/-- Words that set the clause's FB flag (R73). -/
def Shape.setsFb (sh : Shape) : Bool := (sh.cls == 4 && (sh.fn == 3 || sh.fn == 4)) || (sh.cls == 3 && sh.fn == 5)

/-- Code 8 of R94: a terminal instruction not last, or literal words beyond LEN (R77). -/
def Shape.misplaced (sh : Shape) (c : Clause) : Bool :=
  let next := c.pos + 1 + sh.lits.length
  c.len < next || (sh.terminal && next != c.len)

end Sys2Proof

namespace Sys2Proof.Machine

/-- The detail code of the first check a word fails when it would issue (R94, codes 4 to 8). -/
def issueCode (g : Group) (c : Clause) (sh : Shape) : Option Nat :=
  match sh.fieldFault g.budget with
  | some k => some k
  | none =>
    if tempUnread c.tw sh.srcs then some 7
    else if sh.misplaced c then some 8 else none

/-- The predicates that a word reads besides its operands: the guard (R31). -/
def Group.guardReg (g : Group) : List Reg :=
  let n := (g.mode.extractLsb' 8 4).toNat
  if n = 0 then [] else [.p (n - 1)]

def isPredReg : Reg → Bool
  | .p _ => true
  | _ => false

def isMaskReg : Reg → Bool
  | .s n => 60 ≤ n && n < 63
  | _ => false

/-- R41: a source waits for an earlier instruction that set no flag; predicates always wait. -/
def interlocked (g : Group) (rs : List Reg) : Bool :=
  g.pends.any (fun p => !p.done &&
    p.dst.any (fun r => rs.contains r && (p.flag.isNone || isPredReg r)))

/-- A held request lets the group end its current clause: only a swap does (R326, R378 step 1). -/
def Group.mayEnd (g : Group) : Bool :=
  match g.held with
  | none | some .swap => true
  | _ => false

/-- R41, R121, R326, R38: no word of the group issues at all. -/
def Group.blocked (g : Group) : Bool :=
  g.kind == .vacant || !g.mayEnd || (g.logFull && g.ovr.isNone) ||
  g.pends.any (fun p => !p.done && (p.dst.any isMaskReg ||
    match p.body with | .rawait _ t => t | _ => false))

/-- The flag that FA names (R73, R205), none for 15. -/
def Group.fa (g : Group) : Option Nat := g.clause.bind (fun c => if c.fa < 12 then some c.fa else none)

/-- The flag that FB names. -/
def Group.fb (g : Group) : Option Nat := g.clause.bind (fun c => if c.fb < 12 then some c.fb else none)

/-- R35: a flag whose count is 63 keeps the word from issuing. -/
def Group.flagFull (g : Group) : Option Nat → Bool
  | some n => decide (63 ≤ g.flag n)
  | none => false

/-- The registers that a word waits for before it issues (R41): its sources, those that it reads unnamed, and the guard where it
heeds it. -/
def Group.waitsOn (g : Group) (sh : Shape) : List Reg :=
  sh.srcs ++ sh.implied ++ (if sh.ignoresGuard then [] else g.guardReg)

/-- The flag that a word sets (R73): FA, FB or none. -/
def Group.flagOf (g : Group) (sh : Shape) : Option Nat :=
  if sh.setsFa then g.fa else if sh.setsFb then g.fb else none

/-- Memory-class (R205): all but special-function, cross-lane and conversion results. -/
def Pend.memory (p : Pend) : Bool :=
  match p.body with
  | .write | .replay | .order _ _ => false
  | _ => true

/-- R324: an instruction that had to wait for its page, or one that is performed in issue order behind it, is not performed yet; a
handler does not wait for what was issued before its entry. -/
def Group.lineOut (g : Group) : Bool :=
  g.pends.any (fun q => q.memory && !q.done && q.lined && (match g.frame with | some f => decide (f.mark ≤ q.id) | none => true))

/-- A word does not issue yet: an operand is not ready (R41, R121), its flag counts 63 (R35), or it would act before an
instruction that R324 puts before it: it then holds the seat (DESIGN CHOICE, log entry 48). -/
def Group.notReady (g : Group) (sh : Shape) : Bool :=
  interlocked g (g.waitsOn sh) || g.flagFull (g.flagOf sh) || (sh.actsAtIssue && g.lineOut)

/-- The source words of the operand log, in the order of the operands (R38, R304). An indexed access's bounds fault logs neither its index nor
the register it names: a reissue reads both as they then stand (R189; DESIGN CHOICE, log entry 47). -/
def Group.sourceWords (g : Group) (sh : Shape) : List (Reg × SrcWord) :=
  sh.srcs.filterMap (fun r =>
    match r with
    | .s n => some (r, .uni (g.rdS n))
    | .v n => some (r, .lanes (g.rdRow n))
    | .a n => some (r, .lanes (mkRow (fun i => loWord ((g.rdA n).lane i))))
    | _ => none)

/-- The operand-log entry of a word (R38, R304): `cause` zero while it only waits for its page. -/
def Group.mkEntry (g : Group) (sh : Shape) (cause : Word) (t : Trap) (waiting : Bool) : LogEntry :=
  let src := g.sourceWords sh
  { pc := g.wordPc, word := sh.word, cause := cause, lanes := t.lanes, addr := t.addr,
    affs := sh.srcs.filterMap (fun r => match r with | .a n => some (n, g.rdA n) | _ => none),
    regs := src.map Prod.fst, src := src.map Prod.snd ++ t.words.map SrcWord.uni,
    temps := g.t, tw := match g.clause with | some c => c.tw | none => 0,
    seq := g.logSeq, mode := g.mode, fmts := (List.range 4).map g.fmt, seeds := g.seeds,
    scales := (List.range 4).map g.scaleAt, act := g.active, waiting := waiting }

/-- Puts an entry into the operand log: into the reissued word's own slot, else the lowest free one (R38). -/
def Group.putEntry (g : Group) (e : LogEntry) : Group × Option Nat :=
  match g.ovr with
  | some k => ({ g with log := mput g.log k e, logSeq := g.logSeq + 1 }, some k)
  | none =>
    match g.freeLog with
    | some k => ({ g with log := mput g.log k e, logSeq := g.logSeq + 1 }, some k)
    | none => (g, none)

/-- Takes a precise fault or trap at the word that issues (R78, R300, R302). -/
def takePrecise (s : State) (sh : Shape) (t : Trap) : State :=
  let g := s.G
  let cause := tcauseWord true t.detail t.cause
  if causeLogs t.cause then
    let (g', k) := g.putEntry (g.mkEntry sh cause t false)
    enterHandler (s.setG g') cause t.info g.wordPc t.addr 0 k true none
  else enterHandler s cause t.info g.wordPc t.addr 1 none true none

/-- The temporaries a list of registers names. -/
def tempBits (rs : List Reg) : BitVec 4 :=
  rs.foldl (fun b r => match r with | .v n => if 124 ≤ n then b ||| (1 <<< (n - 124)) else b | _ => b) 0

/-- A word that was issued again alone has issued: the temporaries of the clause that it interrupted come back (R24,
R305). -/
def Group.endAlone (g : Group) : Group :=
  match g.again, g.after with
  | some _, b :: rest => { g with again := none, t := b.temps.getD g.t, after := { b with temps := none } :: rest }
  | _, _ => { g with again := none }

/-- Frees the log entry of a reissued word when nothing of the word is outstanding (R38, R305). -/
def Group.endReissue (g : Group) : Group :=
  let g := g.endAlone
  match g.ovr with
  | none => g
  | some k =>
    if g.pends.any (fun p => p.entry == some k) then { g with ovr := none }
    else { g with ovr := none, log := mdel g.log k }

/-- The clause after a word has taken effect (R75). -/
def Group.advance (g : Group) (sh : Shape) : Group :=
  let g := g.endReissue
  match g.clause with
  | some c => { g with clause := some { c with pos := c.pos + 1 + sh.lits.length, tw := c.tw ||| tempBits sh.dsts } }
  | none => g

/-- The frame of every instruction with a word: the interlocks of R41 and R35, then R94's checks, the instruction's own
effect, and then the next word of the clause. A word issues only in an open clause, and it is checked when it would issue (R78). -/
def issue (sh : Option Shape) (s : State) (body : State → Res) : Host.Outcome State Fault Refusal :=
  match s.G.clause, sh with
  | some c, some sh =>
    if s.G.blocked || s.G.notReady sh then .next s
    else match issueCode s.G c sh with
      | some code => .next (takePrecise s sh { Trap.of 1 with detail := code, info := sh.word })
      | none =>
        match body s with
        | .ok s' => .next (s'.setG (s'.G.advance sh))
        | .done s' => .next s'
        | .trap t => .next (takePrecise s sh t)
        | .trapIn s' t => .next (takePrecise s' sh t)
        | .stall => .next s
  | _, _ => .next s

/-! ### Common checks of meanings -/

/-- R19: the executing split's mask is the live mask. -/
def Group.whole (g : Group) : Bool := g.split.mask == g.live

/-- Some lane of the split is active (R208, R237, R293). -/
def Group.anyActive (g : Group) : Bool := g.active != 0

/-- R18: uniform writes that would leave the split's mask empty. -/
def Group.emptiesMask (g : Group) (ws : List (Nat × Word)) : Bool :=
  ws.any (fun e => 60 ≤ e.1 && e.1 < 63) && g.masksAfter ws == 0

/-- The uniform-under-split and empty-mask faults log the executing split's mask (R146). -/
def Group.splitTrap (g : Group) (cause : Nat) : Trap := { Trap.of cause with lanes := g.split.mask }

/-- Writes uniform results at once, after R19 and R18; `exempt` instructions skip R19. -/
def writeUnis (s : State) (exempt : Bool) (ws : List (Nat × Word)) : Res :=
  let g := s.G
  if !exempt && !g.whole then .trap (g.splitTrap 4)
  else if g.emptiesMask ws then .trap (g.splitTrap 5)
  else .ok (s.setG (g.putUnis g.nextId ws))

/-- A uniform pair as two writes. -/
def pairWrites (d : Nat) (x : DWord) : List (Nat × Word) := [(d, loWord x), (d + 1, hiWord x)]

/-- Writes an affine result (R19). -/
def writeAff (s : State) (d : Nat) (a : Aff) : Res :=
  if !s.G.whole then .trap (s.G.splitTrap 4) else .ok (s.setG (s.G.putA d a))

/-- Writes one varying register in every active lane (R25). -/
def writeV (s : State) (d : Nat) (f : Nat → Word) : Res :=
  let g := s.G
  .ok (s.setG (g.putV g.nextId d g.active f))

/-- Writes a run of varying registers in every active lane, register `d + k` from `f k`. -/
def writeVs (s : State) (d n : Nat) (f : Nat → Nat → Word) : Res :=
  let g := s.G
  .ok (s.setG ((List.range n).foldl (fun g' k => g'.putV g.nextId (d + k) g.active (f k)) g))

/-- Writes a predicate in every active lane. -/
def writeP (s : State) (d : Nat) (f : Nat → Bool) : Res :=
  let g := s.G
  .ok (s.setG (g.putP g.nextId d g.active (maskOf f)))

/-! ### Issued accesses -/

/-- GROUP of R397: bit 31 of s9 in bit 15, bits 14:0 of s9 below it. -/
def writerGroup (s9 : Word) : Nat := (if s9.getLsbD 31 then 2 ^ 15 else 0) + s9.toNat % 2 ^ 15

/-- A record of the word that issues, under the clause's FA flag (R205); a word that had issued before keeps its number
and its overtaken results (R42). -/
def Group.mkPend (g : Group) (sh : Shape) (flag : Option Nat) (body : PendBody) : Pend :=
  { id := (g.again.map Prod.fst).getD g.nextId, sid := g.split.ids.headD 0, ids := g.split.ids, formed := g.split.formed, pc := g.wordPc,
    word := sh.word, flag := flag, lanes := g.active, dst := sh.dsts, body := body, writes := [], accs := [],
    killed := (g.again.map Prod.snd).getD [], order := .relaxed, scope := .group, missed := false, done := false, entry := g.ovr, mark := 0,
    clause := g.clause.getD ⟨0, 0, 0, 15, 15, 0, 0, false, []⟩, refused := none, wkey := pair (g.uni 10) (g.uni 11),
    wgroup := writerGroup (g.uni 9), failed := [], left := 0,
    proto := g.mkEntry sh 0 (Trap.of 0) false, born := 0, lined := false, arrived := 0, seen := 0 }

/-- R324: memory-class instructions from one that had to wait for its page on are performed in issue order. -/
def Group.lines (g : Group) (p : Pend) : Bool :=
  p.memory && (p.missed || g.pends.any (fun q => q.memory && q.entry.isSome && !q.done))

/-- Adds an issued access: its flag goes up (R35). -/
def State.addPend (s : State) (p : Pend) : State :=
  let g := s.G
  s.setG { (g.flagUp p.flag) with
    pends := g.pends ++ [{ p with born := s.clock, lined := g.lines p, seen := s.seq }], nextId := g.nextId + 1 }

/-- A write of a varying register or a predicate. -/
def Group.putLanes (g : Group) (id : Nat) (w : RegWrite) : Group :=
  match w.reg with
  | .v n => g.putV id n w.lanes w.row.at
  | .p n => g.putP id n w.lanes (maskOf (fun i => w.row.at i != 0))
  | _ => g

/-- Writes results at once: the uniform ones (R17), then varying registers and predicates. -/
def Group.applyNow (g : Group) (unis : List (Nat × Word)) (rest : List RegWrite) : Group :=
  rest.foldl (fun g' w => g'.putLanes g.nextId w) (g.putUnis g.nextId unis)

/-- The results of a cross-lane instruction, the uniform ones first (R73): pending under FB, or written at
once when FB names no flag (R41). A destination among s60 to s62 is written at once too: no later word issues before
it (R41). With `slow` a step meets a subnormal, and the replay brings the results (R103, R192). -/
def finishFB (s : State) (sh : Shape) (slow : Bool) (unis : List (Nat × Word)) (rest : List RegWrite) : Res :=
  let g := s.G
  let ws := unis.map (fun e => RegWrite.mk (.s e.1) [e.2] 1) ++ rest
  if (g.fb.isSome || slow) && !sh.dsts.any isMaskReg then
    .ok (s.addPend { g.mkPend sh g.fb (if slow then .replay else .write) with writes := ws, dst := ws.map RegWrite.reg })
  else .ok (s.setG (g.applyNow unis rest))

end Sys2Proof.Machine
end

