-- ==== Sys2Proof/Machine/Affine.lean ====
section
/-! DEFINITION. Affine and promotion instructions, class 010 (06, R155 to R162). -/

namespace Sys2Proof.Machine

/-- An affine operation: the plain result (R155) and the exact lane value (R156, R157). -/
structure AffOp (β : Type) where
  plain : Aff → β → Aff
  exact : Int → β → Nat → Int

def affAdd : AffOp Aff := ⟨fun x y => ⟨x.base + y.base, x.stride + y.stride⟩, fun e y i => e + y.exact i⟩
def affSub : AffOp Aff := ⟨fun x y => ⟨x.base - y.base, x.stride - y.stride⟩, fun e y i => e - y.exact i⟩
def affAddu : AffOp Word := ⟨fun x y => ⟨x.base + y.signExtend 64, x.stride⟩, fun e y _ => e + y.toInt⟩
def affSubu : AffOp Word := ⟨fun x y => ⟨x.base - y.signExtend 64, x.stride⟩, fun e y _ => e - y.toInt⟩
def affMulu : AffOp Word := ⟨fun x y => ⟨x.base * y.signExtend 64, x.stride * y⟩, fun e y _ => e * y.toInt⟩

/-- A shift by 2^c: zero base from 64, zero stride from 32 (R155). The exact value is only asked for whether it leaves
32 bits, so a count beyond 95 is as good as 96. -/
def affShlu : AffOp Word :=
  ⟨fun x y => ⟨shl64 x.base y, shl x.stride y⟩, fun e y _ => e * 2 ^ (min y.toNat 96)⟩

/-- R157: the lanes below the width whose exact result leaves the signed 32-bit range. -/
def affBad {β : Type} (op : AffOp β) (w : Nat) (x : Aff) (y : β) : Mask :=
  maskOf (fun i => decide (i < w) && outside32 (op.exact (x.exact i) y i))

/-- R146, R157: the split check, then the checked form's own, then the write. -/
def affWrite {β : Type} (s : State) (op : AffOp β) (checked : Bool) (d : Nat) (x : Aff) (y : β) : Res :=
  let g := s.G
  let bad := if checked then affBad op g.width x y else 0
  if !g.whole then .trap (g.splitTrap 4)
  else if bad ≠ 0 then .trap { Trap.of 11 with lanes := bad }
  else writeAff s d (op.plain x y)

def aff2 (sh : Option Shape) (checked : Bool) (d a b : F7) (op : AffOp Aff) (s : State) :
    Host.Outcome State Fault Refusal :=
  issue sh s (fun s => affWrite s op checked d.toNat (s.G.rdA a.toNat) (s.G.rdA b.toNat))

def affU (sh : Option Shape) (checked : Bool) (d a b : F7) (op : AffOp Word) (s : State) :
    Host.Outcome State Fault Refusal :=
  issue sh s (fun s => affWrite s op checked d.toNat (s.G.rdA a.toNat) (s.G.rdS b.toNat))

def execAadd (d a b : F7) (s : State) :=
  aff2 (Instr.shape (.aadd d a b)) false d a b affAdd s
def execAsub (d a b : F7) (s : State) :=
  aff2 (Instr.shape (.asub d a b)) false d a b affSub s
def execAaddC (d a b : F7) (s : State) :=
  aff2 (Instr.shape (.aaddC d a b)) true d a b affAdd s
def execAsubC (d a b : F7) (s : State) :=
  aff2 (Instr.shape (.asubC d a b)) true d a b affSub s
def execAaddu (d a b : F7) (s : State) :=
  affU (Instr.shape (.aaddu d a b)) false d a b affAddu s
def execAadduC (d a b : F7) (s : State) :=
  affU (Instr.shape (.aadduC d a b)) true d a b affAddu s
def execAsubu (d a b : F7) (s : State) :=
  affU (Instr.shape (.asubu d a b)) false d a b affSubu s
def execAsubuC (d a b : F7) (s : State) :=
  affU (Instr.shape (.asubuC d a b)) true d a b affSubu s
def execAmulu (d a b : F7) (s : State) :=
  affU (Instr.shape (.amulu d a b)) false d a b affMulu s
def execAmuluC (d a b : F7) (s : State) :=
  affU (Instr.shape (.amuluC d a b)) true d a b affMulu s
def execAshlu (d a b : F7) (s : State) :=
  affU (Instr.shape (.ashlu d a b)) false d a b affShlu s
def execAshluC (d a b : F7) (s : State) :=
  affU (Instr.shape (.ashluC d a b)) true d a b affShlu s

def execAmov (d a : F7) (s : State) :=
  issue (Instr.shape (.amov d a)) s (fun s => writeAff s d.toNat (s.G.rdA a.toNat))
def execAstride (d a b : F7) (s : State) :=
  issue (Instr.shape (.astride d a b)) s (fun s => writeAff s d.toNat ⟨(s.G.rdA a.toNat).base, s.G.rdS b.toNat⟩)

/-! ### Promotion and demotion (R159 to R162) -/

def execUtoa (d a : F7) (s : State) :=
  issue (Instr.shape (.utoa d a)) s (fun s => writeAff s d.toNat ⟨s.G.rdS2 a.toNat, 0⟩)
def execUtov (d a : F7) (s : State) :=
  issue (Instr.shape (.utov d a)) s (fun s => writeV s d.toNat (fun _ => s.G.rdS a.toNat))
def execAtov (d a : F7) (s : State) :=
  issue (Instr.shape (.atov d a)) s (fun s => writeV s d.toNat (fun i => loWord ((s.G.rdA a.toNat).lane i)))
def execAtou (d a : F7) (s : State) :=
  issue (Instr.shape (.atou d a)) s (fun s => writeUnis s false (pairWrites d.toNat (s.G.rdA a.toNat).base))
def execLanea (d : F7) (s : State) :=
  issue (Instr.shape (.lanea d)) s (fun s => writeAff s d.toNat ⟨0, 1⟩)

/-- READFIRST: the lowest active lane's value; nothing when no lane is active (R160). -/
def execReadfirst (d a : F7) (s : State) :=
  issue (Instr.shape (.readfirst d a)) s (fun s =>
    match lowestLane s.G.active with
    | some i => writeUnis s true [(d.toNat, s.G.rdV a.toNat i)]
    | none => .ok s)

/-- VTOU.EQ (R161), with the checks in the order of R146. -/
def execVtouEq (d a : F7) (s : State) :=
  issue (Instr.shape (.vtouEq d a)) s (fun s =>
    let g := s.G
    if !g.whole then .trap (g.splitTrap 4)
    else match lowestLane g.active with
    | none => .ok s
    | some k =>
      let first := g.rdV a.toNat k
      let bad := maskOf (fun i => g.active.getLsbD i && g.rdV a.toNat i != first)
      if g.emptiesMask [(d.toNat, first)] then .trap (g.splitTrap 5)
      else if bad ≠ 0 then .trap { Trap.of 12 with lanes := bad }
      else writeUnis s false [(d.toNat, first)])

/-- ELECT: the lowest active lane with the predicate set, else 0xFFFF_FFFF (R162). -/
def execElect (d a : F7) (s : State) :=
  issue (Instr.shape (.elect d a)) s (fun s =>
    writeUnis s true [(d.toNat, match lowestLane (s.G.active &&& s.G.pred a.toNat) with
      | some i => BitVec.ofNat 32 i
      | none => 0xFFFFFFFF)])

end Sys2Proof.Machine
end

