-- ==== Sys2Proof/Machine/Translate.lean ====
section
/-! DEFINITION. Translation and protection (R318 to R324), the physical map (R314, R424), the access tables (R428,
R429), and fetching instruction words (R75, R79). -/

namespace Sys2Proof.Machine

/-! ### The physical map -/

/-- Bytes of HBM (R314): 768 GiB. -/
def hbmSize : Nat := 768 * 2 ^ 30

def isHbm (pa : Nat) : Bool := decide (pa < hbmSize)

/-- Apertures of R424 by number: 8 host memory, 9 mailboxes, 10 counters, 11 management space. -/
def aperture (pa : Nat) : Option Nat :=
  let n := pa / 2 ^ 48
  if n = 8 then some 8
  else if n = 9 then (if pa % 2 ^ 48 < 512 * 16384 then some 9 else none)
  else if n = 10 then (if pa % 2 ^ 48 < 4096 * 32 then some 10 else none)
  else if n = 11 then (if pa % 2 ^ 48 < 0x1000000 then some 11 else none)
  else none

/-- A physical address that maps something (R314, R424). -/
def mapped (pa : Nat) : Bool := isHbm pa || (aperture pa).isSome

/-- The stack of a line and the quarter it is attached to (R314). -/
def stackOf (pa : Nat) : Nat := bitsOf pa 39 12 % 12
def homeQuarter (pa : Nat) : Nat := stackOf pa / 3

/-- The home slice within the quarter (R314). -/
def homeSlice (pa : Nat) : Nat := bitsOf pa 14 7 ^^^ bitsOf pa 22 15 ^^^ bitsOf pa 30 23 ^^^ bitsOf pa 38 31

/-! ### The access tables (R428) -/

/-- One rule grants a kind of access to a unit. -/
def ruleGrants (r : BitVec 128) (unit : Nat) (rd wr : Bool) : Bool :=
  r.getLsbD 2 && (!rd || r.getLsbD 0) && (!wr || r.getLsbD 1) &&
  (r.extractLsb' 48 40).toNat ≤ unit && unit ≤ (r.extractLsb' 88 40).toNat

/-- R428: an access of a master to a unit of a target class (0 HBM, 1 mailboxes, 2 counters, 3 configuration space,
4 fabric ports). The owner is allowed everything except fabric ports. -/
def accessOk (d : Device) (master cls unit : Nat) (rd wr : Bool) : Bool :=
  (master == d.owner && cls != 4) ||
  (List.range 16).any (fun r => ruleGrants (mgetD d.access (master * 80 + cls * 16 + r) 0) unit rd wr)

/-- A write of management space that its owner alone may make (R426): all but CLAIM, TAKE and a host master's own
attestation request (R431). -/
def ownerOnly (master off : Nat) : Bool :=
  !(off / 4 == 0 || off / 4 == 3 || (0x1000 + 32 * master ≤ off && off < 0x1020 + 32 * master))

/-- The access-table check of one physical address (R428, R426). Every host master reads management space. -/
def paOk (d : Device) (master pa : Nat) (rd wr : Bool) : Bool :=
  match aperture pa with
  | some 9 => accessOk d master 1 (pa % 2 ^ 48 / 16384) rd wr
  | some 10 => accessOk d master 2 (pa % 2 ^ 48 / 32) rd wr
  | some 11 => decide (master ≤ 64) && (!wr || master == d.owner || !ownerOnly master (pa % 2 ^ 48))
  | some _ => true
  | none => accessOk d master 0 (pa / 4096) rd wr

/-! ### Leaf entries (R319) -/

structure Leaf where
  resident : BitVec 32
  remote   : BitVec 32
  rpkg     : Nat
  pfn      : Nat
  lclu     : Nat
  l        : Bool
  p0       : Bool
  x        : Bool
  w        : Bool
  r        : Bool
  v        : Bool
  deriving DecidableEq, Repr

def leafOf (b : BitVec 128) : Leaf :=
  { resident := b.extractLsb' 96 32, remote := b.extractLsb' 64 32, rpkg := (b.extractLsb' 44 20).toNat,
    pfn := (b.extractLsb' 13 31).toNat, lclu := (b.extractLsb' 6 7).toNat, l := b.getLsbD 5, p0 := b.getLsbD 4,
    x := b.getLsbD 3, w := b.getLsbD 2, r := b.getLsbD 1, v := b.getLsbD 0 }

/-- R319: a leaf that is valid in package `pkg`. -/
def Leaf.valid (f : Leaf) (pkg : Nat) : Bool :=
  f.v && (f.resident &&& f.remote) == 0 && !(f.l && decide (95 < f.lclu)) && !(f.rpkg == pkg && f.remote != 0)

/-- Kinds of access (R320, R322). -/
inductive AccKind where
  | read | write | atomic | fetch
  deriving DecidableEq, Repr

def AccKind.rd : AccKind → Bool
  | .read | .atomic | .fetch => true
  | .write => false

def AccKind.wr : AccKind → Bool
  | .write | .atomic => true
  | .read | .fetch => false

/-- s3 of the walker (R322), without the engine bit. -/
def AccKind.code : AccKind → Nat
  | .read => 0 | .write => 1 | .atomic => 1 | .fetch => 2

/-- Who accesses: address space, level, cluster, master, and whether addresses are physical (the walker). -/
structure Who where
  asid    : Nat
  level   : Nat
  cluster : Nat
  core    : Nat
  master  : Nat
  phys    : Bool
  engine  : Bool
  deriving DecidableEq, Repr

def Group.who (g : Group) : Who :=
  { asid := g.asid, level := g.level, cluster := clusterOf g.core, core := g.core, master := g.vf + 1,
    phys := g.kind == .walker, engine := false }

/-- What translation of one access gives: the physical address, the package of a remote part, the cluster an L page is
homed in. -/
inductive Xlat where
  | hit (pa : Nat) (rem : Option Nat) (home : Option Nat)
  | miss (page : Nat)
  | fault (denied : Bool)
  deriving DecidableEq, Repr

/-- R318: the page of a virtual address and its part. -/
def pageOf (va : DWord) : Nat := bitsOf va.toNat 56 21
def partOf (va : DWord) : Nat := bitsOf va.toNat 20 16

def State.port (s : State) (p : Nat) : Port := mgetD s.ports p Port.empty

/-- The route to a package: the lowest port of its mask that is up. Which port of the mask a stream takes is not stated (DESIGN CHOICE, log
entry 20). -/
def routePort (s : State) (pkg : Nat) : Option Nat :=
  (List.range 16).find? (fun p => (mgetD s.dev.routes pkg 0).getLsbD p && (s.port p).up)

/-- The port that a stream uses: its own while it is up (R413), else the route's. -/
def streamPort (s : State) (st : Stream) : Option Nat :=
  match st.route with
  | some p => if (s.port p).up then some p else routePort s st.dstPkg
  | none => routePort s st.dstPkg

/-- The port that a message of a class from a quarter to a quarter of another package takes now. -/
def sendPort (s : State) (cls srcQ dstPkg dstQ : Nat) : Option Nat :=
  match s.streams.find? (fun e => e.2.cls == cls && e.2.srcQtr == srcQ && e.2.dstPkg == dstPkg && e.2.dstQtr == dstQ) with
  | some e => streamPort s e.2
  | none => routePort s dstPkg

/-- The port that an access to another package's memory takes: class 0 for a load, 1 for a store or an atomic (R410). -/
def accessPort (s : State) (who : Who) (kind : AccKind) (pkg pa : Nat) : Option Nat :=
  sendPort s (if kind.wr then 1 else 0) (quarterOf who.core) pkg (homeQuarter pa)

/-- R428: the access table lets a master use the port that its access takes. -/
def portOk (s : State) (who : Who) (kind : AccKind) (pkg pa : Nat) : Bool :=
  match accessPort s who kind pkg pa with
  | some p => accessOk s.dev who.master 4 p kind.rd kind.wr
  | none => true

/-- The leaf checks of R320 in their order, then what the physical address maps (R314) and the access tables (R428,
R429). -/
def leafCheck (s : State) (who : Who) (kind : AccKind) (f : Leaf) (va : DWord) : Xlat :=
  let k := partOf va
  if !f.p0 && who.level == 0 then .fault false
  else if !(match kind with
      | .read => f.r | .write => f.w | .atomic => f.r && f.w | .fetch => f.x) then .fault false
  else if f.l && f.lclu != who.cluster then .fault false
  else if !(f.resident.getLsbD k || f.remote.getLsbD k) then .fault false
  else
    let pa := f.pfn * 2 ^ 21 + va.toNat % 2 ^ 21
    if f.remote.getLsbD k then
      (if portOk s who kind f.rpkg pa then .hit pa (some f.rpkg) none else .fault true)
    else if !mapped pa then .fault false
    else if !paOk s.dev who.master pa kind.rd kind.wr then .fault true
    else .hit pa none (if f.l then some f.lclu else none)

/-- The TLB entry of a page (R321). -/
def tlbFind (tlb : List TlbEntry) (asid page : Nat) : Option Leaf :=
  (tlb.find? (fun e => e.asid == asid && e.page == page)).map (fun e => leafOf e.leaf)

/-- Translates one access (R320, R321); the walker's addresses are physical (R322). -/
def translate (s : State) (who : Who) (kind : AccKind) (va : DWord) : Xlat :=
  if who.phys then (if mapped va.toNat then .hit va.toNat none none else .fault false)
  else match tlbFind (s.cluster who.cluster).tlb who.asid (pageOf va) with
    | some f => leafCheck s who kind f va
    | none => .miss (pageOf va)

/-- A page is still waiting for its walk, or being walked. -/
def stillMissed (s : State) (cluster asid page : Nat) : Bool :=
  (s.cluster cluster).misses.any (fun m => m.asid == asid && m.page == page) ||
  (match (s.cluster cluster).walk with | some (m, _) => m.asid == asid && m.page == page | none => false)

/-- R321: room for one more page among the 64 misses that wait, the one being walked among them. -/
def missRoom (s : State) (cluster asid page : Nat) : Bool :=
  stillMissed s cluster asid page ||
  decide ((s.cluster cluster).misses.length + (if (s.cluster cluster).walk.isSome then 1 else 0) < 64)

/-- A miss joins the walk of its page, or a new one at the end (R321, R322). -/
def State.addMiss (s : State) (who : Who) (kind : Nat) (page : Nat) : State :=
  let cl := s.cluster who.cluster
  if stillMissed s who.cluster who.asid page then s
  else s.setCluster who.cluster { cl with misses := cl.misses ++
    [⟨who.asid, page, kind + (if who.engine then 4 else 0), if who.engine then 8 else who.core % 8⟩] }

/-! ### Text (R70, R79, R126) -/

/-- Bytes of the text section at a text start (DESIGN CHOICE, log entry 6). -/
def textSize (s : State) (base : DWord) : Nat := mgetD s.texts base.toNat (2 ^ 32 - 4)

/-- R126: an address inside the group's text section. -/
def inText (s : State) (g : Group) (a : DWord) : Bool :=
  decide (g.text.toNat ≤ a.toNat) && decide (a.toNat < g.text.toNat + textSize s g.text)

inductive Fetched where
  | word (w : Word)
  | miss
  /-- the cause that the fetch raises -/
  | fault (cause : Nat)
  deriving DecidableEq, Repr

/-- The word that the task's text held when the dealer started its first group (R79). -/
def textWord (s : State) (g : Group) (pa : Nat) : Word :=
  match s.task? g.task with
  | some t => leWord (bgetN (if s.ofPackage g then s.mem else t.text) pa 4)
  | none => leWord (bgetN s.mem pa 4)

/-- The word a fetch would find, without a choice: used to see whether a clause could start. A page whose walk ended without
a fill faults. -/
def peekWord (s : State) (g : Group) (va : DWord) : Fetched :=
  match translate s g.who .fetch va with
  | .miss page => if g.fetchMiss = some (page, true) then .fault 23 else .miss
  | .fault _ => .fault 23
  | .hit pa _ _ => .word (textWord s g pa)

/-- Literal words after an instruction word (R55, R74). -/
def litsOfWord (w : Word) : Nat :=
  let f := fieldsOf w
  if f.cls = 0 ∧ f.fn = 1 ∧ f.sub < 4 then 1
  else if f.cls = 1 ∧ f.fn = 3 ∧ f.sub = 0 then 1
  else if f.cls = 1 ∧ f.fn = 3 ∧ f.sub = 1 then 2 else 0

end Sys2Proof.Machine
end

