-- ==== Sys2Proof/Machine/Groups.lean ====
section
/-! DEFINITION. Groups on cores: contexts, footprints, seats and context areas (R22, R23, R374, R375), starting a
group (R43, R44), and which clauses can start (R121, R130, R142, R374). -/

namespace Sys2Proof.Machine

/-- A varying budget that R22 allows. -/
def budgetOk (n : Nat) : Bool := n % 4 == 0 && decide (8 ≤ n) && decide (n ≤ 124)

/-- The width a two-bit code names (R137, R361); 11 is not allowed. -/
def widthOfCode : Nat → Option Nat
  | 0 => some 32 | 1 => some 64 | 2 => some 96 | _ => none

/-- A group that holds a context on its core: not vacant, not the walker's, not saved with its team. -/
def State.resident (s : State) (g : Group) : Bool :=
  g.kind != .vacant && g.kind != .walker &&
  (match s.team? g.team with
   | some t => !(t.saved && (g.kind == .started || g.kind == .spawned))
   | none => true)

/-- The groups that hold a context on a core. -/
def State.residents (s : State) (core : Nat) : List Group :=
  (s.groups.map Prod.snd).filter (fun g => g.core == core && s.resident g)

/-- R23: bytes of the varying register file. -/
def footprint (width budget : Nat) : Nat := (budget + 4) * 4 * width

/-- R23: the lowest free one of the 48 contexts of a core. -/
def State.freeCtx (s : State) (core : Nat) : Option Nat :=
  (List.range 48).find? (fun k => (s.residents core).all (fun g => g.ctx != k))

/-- R23: a further group fits beside the resident ones. -/
def State.roomOn (s : State) (core width budget : Nat) : Bool :=
  (s.freeCtx core).isSome &&
  decide ((s.residents core).foldl (fun n g => n + footprint g.width g.budget) 0 + footprint width budget ≤ 512 * 1024)

/-- R374: the seat of a core with the fewest resident groups, the lower on a tie. -/
def State.seatFor (s : State) (core : Nat) : Nat :=
  let n := fun k => ((s.residents core).filter (fun g => g.seat == k)).length
  [1, 2, 3].foldl (fun best k => if n k < n best then k else best) 0

/-- R375: bytes of a group area. -/
def groupArea (w n : Nat) : Nat :=
  1024 + w * (4 * n + 32) + 64 * (w - 4) + 8 * (128 + 40 * w) + (512 + 68 * w)

/-- R375: bytes of a team area. -/
def teamArea (banks accUnits cores : Nat) : Nat := 256 + 65536 * banks + 16384 * accUnits * cores

/-- Bytes in use of a mailbox's context region: group areas, team areas, spilled weir records (R375, R400). -/
def State.ctxUsed (s : State) (m : Nat) : Nat :=
  (s.groups.foldl (fun n e => if e.2.region = m then n + e.2.ctxBytes else n) 0) +
  (s.teams.foldl (fun n e => match s.task? e.2.task with
    | some t => if t.mailbox = m then n + e.2.ctxBytes else n
    | none => n) 0) +
  (s.tasks.foldl (fun n e => if e.2.mailbox = m then n + 16 * e.2.spilled else n) 0)

/-- Bytes free in a mailbox's context region. -/
def State.ctxFree (s : State) (m : Nat) : Nat := (s.mailbox m).ctxsize.toNat - s.ctxUsed m

/-- The next number for a group. -/
def State.newGid (s : State) : Nat := (mkeys s.groups).foldl max 0 + 1

/-- A group at its start (R43): one split at the entry with the full mask, s0 to s11 as given, everything else zero. -/
def Group.start (kind : GroupKind) (width budget core seat ctx team task asid vf : Nat) (text entry : DWord)
    (prio level : Nat) (unis : List (Nat × Word)) (region ctxBytes : Nat) (area : List (Nat × Nat)) : Group :=
  { Group.vacant with
    kind := kind, width := width, budget := budget, core := core, seat := seat, ctx := ctx, team := team,
    task := task, asid := asid, vf := vf, text := text, prio := prio, level := level,
    s := unis.foldl (fun m e => mput m e.1 e.2) [],
    splits := [(0, { Split.empty with pc := entry, mask := widthMask width, formed := 1, ids := [1] })],
    nextId := 2, region := region, ctxBytes := ctxBytes, area := area }

/-! ### Which split and which group can start a clause -/

/-- R222, R288, R299, R272: an instruction that keeps its split, or the whole group, from starting a later clause. -/
def Group.splitWaits (g : Group) (sp : Split) : Bool :=
  g.pends.any (fun p => !p.done && (match p.body with
    | .rawait _ _ => sp.ids.contains p.sid
    | .timewait _ => sp.ids.contains p.sid
    | .fence _ q => q == .fabric
    | _ => false))

/-- R121: no flag of a WAIT field is pending. -/
def Group.waitClear (g : Group) (w : BitVec 12) : Bool :=
  (List.range 12).all (fun n => !(w.getLsbD n) || g.flag n == 0)

/-- R121, R130: a split can start its next clause: a malformed header or a failing fetch starts and traps there, and a fetch
that misses the TLB takes its turn to ask for the page. -/
def splitReady (s : State) (g : Group) (sp : Split) : Bool :=
  sp.mask != 0 && !g.splitWaits sp &&
  match peekWord s g sp.pc with
  | .miss => !stillMissed s (clusterOf g.core) g.asid (pageOf sp.pc) && missRoom s (clusterOf g.core) g.asid (pageOf sp.pc)
  | .fault _ => true
  | .word w =>
    match decodeHeader w with
    | none => true
    | some h => g.waitClear h.wait

/-- The splits of the table that can start a clause. -/
def ableSplits (s : State) (g : Group) : List (Nat × Split) := g.splits.filter (fun e => splitReady s g e.2)

/-- A sibling of the current split can start a clause (R130 rule 4). -/
def siblingAble (s : State) (g : Group) : Bool := (ableSplits s g).any (fun e => e.1 != g.cur)

/-- A boundary cause waits that the group takes now (R301): not in a handler, nor once every lane has exited. -/
def Group.takesCause (g : Group) : Bool := !g.tpend.isEmpty && !g.inHandler && g.live != 0 && g.mayEnd

/-- A group may start clauses at all: it is resident, no request is held (R326), its log is not full (R38), no
boundary cause waits to be taken (R301), its team is not being saved (R378). -/
def State.mayStart (s : State) (g : Group) : Bool :=
  (s.resident g || g.kind == .walker) && g.held.isNone && !g.logFull && (g.tpend.isEmpty || g.inHandler) &&
  (match s.team? g.team with
   | some t => !((t.saving || t.saved) && (g.kind == .started || g.kind == .spawned))
   | none => true)

/-- R121: the group's current split can start a clause. -/
def State.canStart (s : State) (g : Group) : Bool :=
  g.clause.isNone && s.mayStart g && splitReady s g g.split

/-- A group in RAWAIT.TRAP leaves its seat to others (R121, R288). -/
def Group.offSeat (g : Group) : Bool :=
  g.pends.any (fun p => !p.done && (match p.body with | .rawait _ t => t | _ => false))

/-- R121: a group that left its seat inside a clause takes it again once its RAWAIT.TRAP has completed and no other
clause is in progress there. -/
def State.seatTaken (s : State) (gid : Nat) (g : Group) : Bool :=
  g.off && s.groups.any (fun e => e.1 != gid && e.2.core == g.core && e.2.seat == g.seat && e.2.kind != .vacant &&
    e.2.clause.isSome && !e.2.off)

/-- R121: a clause of another group is in progress on the seat, or the seat returns to one. -/
def State.seatBusy (s : State) (gid : Nat) (g : Group) : Bool :=
  s.groups.any (fun e => e.1 != gid && e.2.core == g.core && e.2.seat == g.seat && e.2.kind != .vacant &&
    e.2.clause.isSome && !e.2.offSeat)

/-- R374: the rank of a group on its seat: the walker first, then PRIO. -/
def Group.rank (g : Group) : Nat := if g.kind = .walker then 0 else g.prio + 1

/-- R142: after a YIELD the group stands aside while a group on its seat of the same or a higher priority, which has
started no clause since, can start one. -/
def State.aside (s : State) (gid : Nat) (g : Group) : Bool :=
  g.yielded && s.groups.any (fun e => e.1 != gid && e.2.core == g.core && e.2.seat == g.seat &&
    decide (e.2.rank ≤ g.rank) && !g.served.contains e.1 && s.canStart e.2)

/-- R374: the seat takes group `g` before group `h`: the higher priority, then the one whose clause became able to start
earlier, then the lower context number. -/
def Group.before (g h : Group) : Bool :=
  decide (g.rank < h.rank) ||
  (g.rank == h.rank && (decide (g.ready < h.ready) || (g.ready == h.ready && decide (g.ctx < h.ctx))))

/-- R121, R374: the seat chooses this group now: no clause of another group is in progress, it does not stand aside,
and no other group that can start a clause and does not stand aside comes before it. -/
def State.chosen (s : State) (gid : Nat) : Bool :=
  let g := s.group gid
  s.canStart g && !s.seatBusy gid g && !s.aside gid g &&
  !s.groups.any (fun e => e.1 != gid && e.2.core == g.core && e.2.seat == g.seat && e.2.before g &&
    s.canStart e.2 && !s.aside e.1 e.2)

end Sys2Proof.Machine
end

