-- ==== Sys2Proof/Machine/Context.lean ====
section
/-! DEFINITION. Context regions in memory (R375, R376): where the areas of groups and teams stand, and the bytes of what they
hold: save areas, parked-split records (R39), operand-log entries (R38), spilled weir records (R398, R400); and the handle
tables (R418). -/

namespace Sys2Proof.Machine

/-! ### Areas: pieces of memory, each a base and a number of bytes (DESIGN CHOICE, log entry 18) -/

abbrev Area := List (Nat × Nat)

/-- Some pieces without the bytes of one. -/
def cutPiece (ps : Area) (u : Nat × Nat) : Area :=
  ps.flatMap (fun p =>
    if u.2 = 0 ∨ u.1 + u.2 ≤ p.1 ∨ p.1 + p.2 ≤ u.1 then [p]
    else [(p.1, u.1 - p.1), (u.1 + u.2, (p.1 + p.2) - (u.1 + u.2))].filter (fun q => q.2 != 0))

/-- The first `n` bytes of some pieces. -/
def takePieces : Nat → Area → Area
  | _, [] => []
  | n, p :: t => if n = 0 then [] else if n ≤ p.2 then [(p.1, n)] else p :: takePieces (n - p.2) t

def areaSize (a : Area) : Nat := a.foldl (fun n p => n + p.2) 0

/-- Every area in use. -/
def State.areas (s : State) : Area :=
  s.groups.flatMap (fun e => e.2.area) ++ s.teams.flatMap (fun e => e.2.area) ++ s.tasks.flatMap (fun e => e.2.spillArea)

/-- An area of `n` bytes in the free part of a mailbox's context region: its lowest free bytes. -/
def State.newArea (s : State) (m n : Nat) : Area :=
  let b := s.mailbox m
  takePieces n (s.areas.foldl cutPiece [(b.ctxbase.toNat, b.ctxsize.toNat)])

/-! ### Bytes in one piece and in an area -/

/-- Memory with a range replaced by some bytes. -/
def bsplice (m : List Host.Cell) (a : Nat) (bs : List Byte) : List Host.Cell :=
  m.filter (fun e => decide (e.1 < a)) ++
  ((List.range bs.length).zip bs).filterMap (fun e => if e.2 = unlisted then none else some (a + e.1, e.2)) ++
  m.filter (fun e => decide (a + bs.length ≤ e.1))

/-- The bytes of a rising list of cells from an address on. -/
def fillBytes : Nat → Nat → List Host.Cell → List Byte
  | 0, _, _ => []
  | n + 1, a, [] => unlisted :: fillBytes n (a + 1) []
  | n + 1, a, (k, b) :: t => if k = a then b :: fillBytes n (a + 1) t else unlisted :: fillBytes n (a + 1) ((k, b) :: t)

/-- Bytes of a memory, read in one piece. -/
def bslice (m : List Host.Cell) (a n : Nat) : List Byte :=
  fillBytes n a (m.filter (fun e => decide (a ≤ e.1) && decide (e.1 < a + n)))

/-- Writes bytes at an offset of an area. -/
def areaPut : Area → List Host.Cell → Nat → List Byte → List Host.Cell
  | [], m, _, _ => m
  | p :: t, m, off, bs =>
    if p.2 ≤ off then areaPut t m (off - p.2) bs
    else areaPut t (bsplice m (p.1 + off) (bs.take (p.2 - off))) 0 (bs.drop (p.2 - off))

/-- Reads bytes at an offset of an area. -/
def areaGet : Area → List Host.Cell → Nat → Nat → List Byte
  | [], _, _, _ => []
  | p :: t, m, off, n =>
    if p.2 ≤ off then areaGet t m (off - p.2) n
    else bslice m (p.1 + off) (min n (p.2 - off)) ++ areaGet t m 0 (n - (p.2 - off))

def State.putArea (s : State) (a : Area) (off : Nat) (bs : List Byte) : State := { s with mem := areaPut a s.mem off bs }

/-! ### The layouts of R39, R376 and R38 -/

/-- TPEND. -/
def tpendWord (g : Group) : Word :=
  BitVec.ofNat 32 ((List.range 4).foldl (fun n c => if g.tpend.any (fun t => t.code == 40 + c) then n + 2 ^ c else n) 0)

/-- A source word of one value. -/
def isUniSrc : SrcWord → Bool
  | .uni _ => true
  | _ => false

/-- Header word SEL (R304). -/
def logHeader (e : LogEntry) (sel : Nat) : Word :=
  let aff := match e.affs with | x :: _ => x.2 | [] => ⟨0, 0⟩
  let src := (List.range (min 23 e.src.length)).foldl (fun n k =>
    match e.src[k]? with | some w => if isUniSrc w then n + 2 ^ (8 + k) else n | none => n) (min 63 e.src.length)
  match sel with
  | 0 => loWord e.pc
  | 1 => hiWord e.pc
  | 2 => e.word
  | 3 => e.cause
  | 4 => e.lanes.extractLsb' 0 32
  | 5 => e.lanes.extractLsb' 32 32
  | 6 => e.lanes.extractLsb' 64 32
  | 7 => loWord e.addr
  | 8 => hiWord e.addr
  | 9 => loWord aff.base
  | 10 => hiWord aff.base
  | 11 => aff.stride
  | 12 => BitVec.ofNat 32 src
  | 13 => BitVec.ofNat 32 (2 ^ 31 + e.seq % 65536)
  | _ => 0

/-- A split in 64 bytes (R39), with bit 511 VALID in the save area (R376). -/
def splitBytes (valid : Bool) (sp : Split) : List Byte :=
  leBytes 64 (sp.pc.toNat % 2 ^ 57 + 2 ^ 64 * sp.mask.toNat + 2 ^ 192 * sp.depth + 2 ^ 224 * sp.mode.toNat +
    2 ^ 256 * leNat (sp.fmts.flatMap (fun w => leBytes 4 w.toNat)) + (if valid then 2 ^ 511 else 0))

/-- The split that 64 bytes give; which accesses are in its prior set is the model's own. -/
def splitFrom (old : Split) (bs : List Byte) : Split :=
  { old with
    pc := BitVec.ofNat 64 (fieldAt bs 0 8 % 2 ^ 57), mask := BitVec.ofNat 96 (fieldAt bs 8 12), depth := fieldAt bs 24 1 % 32,
    mode := wordAt bs 28, fmts := (List.range 4).map (fun k => wordAt bs (32 + 4 * k)) }

/-- Bytes of one lane of a save area. -/
def laneBytes (g : Group) (i : Nat) : List Byte :=
  (List.range g.budget).flatMap (fun n => leBytes 4 ((mgetD g.v n []).at i).toNat) ++
  (List.range 4).flatMap (fun n => leBytes 4 ((mgetD g.x n []).at i).toNat) ++
  leBytes 1 ((List.range 8).foldl (fun b k => if (mgetD g.p k 0).getLsbD i then b + 2 ^ k else b) 0) ++
  leBytes 2 ((List.range 16).foldl (fun b k => if (mgetD g.stack (k + 1) 0).getLsbD i then b + 2 ^ k else b) 0) ++
  List.replicate 13 0

/-- The 256 bytes at 0x300, in the order R376 names their contents; TPEND as four bytes (DESIGN CHOICE, log entry 18). -/
def stateBytes (g : Group) : List Byte :=
  let b := fun (c : Nat) => mgetD g.batches c ⟨0, 0, [], [], []⟩
  let bs := (List.range 12).flatMap (fun n => leBytes 1 (mgetD g.flags n 0)) ++
    (List.range 5).flatMap (fun c => leBytes 2 (b c).doneN.toNat ++ leBytes 2 (b c).openN.toNat) ++
    (List.range 5).flatMap (fun c => (List.range 8).flatMap (fun k => leBytes 4 (mgetD (b c).status
      (((List.range 8).map (fun (j : Nat) => ((b c).doneN - 1 - BitVec.ofNat 16 j).toNat)).find? (fun n => n % 8 == k) |>.getD 0) 0).toNat)) ++
    leBytes 2 g.xfer ++ leBytes 12 g.live.toNat ++ leBytes 4 (tpendWord g).toNat ++ leBytes 1 g.level ++ leBytes 1 g.cur
  bs ++ List.replicate (256 - bs.length) 0

/-- A group's save area (R376). -/
def saveBytes (g : Group) : List Byte :=
  (List.range 64).flatMap (fun n => leBytes 4 (g.uni n).toNat) ++
  (List.range 16).flatMap (fun n =>
    let a := mgetD g.a n ⟨0, 0⟩
    leBytes 8 a.base.toNat ++ leBytes 4 a.stride.toNat ++ [0, 0, 0, 0]) ++
  (List.range 4).flatMap (fun k => match mget g.splits k with
    | some sp => splitBytes true sp
    | none => List.replicate 64 0) ++
  stateBytes g ++ (List.range g.width).flatMap (laneBytes g)

/-- The batch counter of a class as its saved bytes give it. -/
def restoreBatch (bs : List Byte) (c : Nat) (b : Batch) : Batch :=
  let doneN := BitVec.ofNat 16 (fieldAt bs (0x30C + 4 * c) 2)
  { b with
    doneN := doneN, openN := BitVec.ofNat 16 (fieldAt bs (0x30E + 4 * c) 2),
    status := (List.range 8).foldl (fun (m : Map Word) j =>
      let n := (doneN - 1 - BitVec.ofNat 16 j).toNat
      mput m n (wordAt bs (0x320 + 32 * c + 4 * (n % 8)))) b.status }

/-- The group that a save area gives (R380): what R376 lists is read back, everything else stays. -/
def restoreGroup (g : Group) (bs : List Byte) : Group :=
  let lane := fun (i : Nat) => 0x400 + i * (4 * g.budget + 32)
  let row := fun (off : Nat) => (List.range g.width).map (fun i => wordAt bs (lane i + off))
  let bits := fun (off n k : Nat) => (List.range g.width).foldl (fun (m : Mask) i =>
    if fieldAt bs (lane i + off) n / 2 ^ k % 2 = 1 then m ||| BitVec.ofNat 96 (2 ^ i) else m) 0
  let tp := fieldAt bs 0x3CE 4
  { g with
    s := (List.range 60).map (fun n => (n, wordAt bs (4 * n))),
    a := (List.range 16).map (fun n => (n, ⟨dwordAt bs (0x100 + 16 * n), wordAt bs (0x108 + 16 * n)⟩)),
    splits := (List.range 4).filterMap (fun k =>
      let b := (bs.drop (0x200 + 64 * k)).take 64
      if fieldAt b 63 1 / 128 = 1 then some (k, splitFrom (mgetD g.splits k Split.empty) b) else none),
    flags := (List.range 12).map (fun n => (n, fieldAt bs (0x300 + n) 1)),
    batches := (List.range 5).map (fun c => (c, restoreBatch bs c (mgetD g.batches c ⟨0, 0, [], [], []⟩))),
    xfer := fieldAt bs 0x3C0 2,
    tpend := g.tpend.filter (fun t => tp / 2 ^ (t.code - 40) % 2 == 1),
    level := fieldAt bs 0x3D2 1 % 4, cur := fieldAt bs 0x3D3 1 % 4,
    v := (List.range g.budget).map (fun n => (n, row (4 * n))),
    x := (List.range 4).map (fun n => (n, row (4 * g.budget + 4 * n))),
    p := (List.range 8).map (fun k => (k, bits (4 * g.budget + 16) 1 k)),
    stack := (List.range 16).map (fun k => (k + 1, bits (4 * g.budget + 17) 2 k)) }

/-- Where the parked-split records and the operand log stand in a group area, after the save area (R375). -/
def Group.parkOff (g : Group) : Nat := 1024 + g.width * (4 * g.budget + 32)
def Group.logOff (g : Group) : Nat := g.parkOff + 64 * (g.width - 4)

/-- The parked-split records, oldest first, and zeros in the free ones. -/
def parkBytes (g : Group) : List Byte :=
  g.parked.flatMap (splitBytes false) ++ List.replicate (64 * (g.width - 4 - g.parked.length)) 0

/-- An operand-log entry (R38): the header words of R304, the uniform source words, the varying ones, t0 to t3. An affine source
has its BASE and STRIDE in the header alone. -/
def entryBytes (w : Nat) (e : LogEntry) : List Byte :=
  let uni := e.src.filterMap (fun x => match x with | .uni y => some y | .lanes _ => none)
  let var := (e.regs.zip e.src).filterMap (fun x => match x with | (.v _, .lanes r) => some r | _ => none)
  (List.range 16).flatMap (fun k => leBytes 4 (logHeader e k).toNat) ++
  (List.range 16).flatMap (fun k => leBytes 4 (uni.getD k 0).toNat) ++
  (List.range 6).flatMap (fun k => (List.range w).flatMap (fun i => leBytes 4 ((var.getD k []).at i).toNat)) ++
  (List.range 4).flatMap (fun k => (List.range w).flatMap (fun i => leBytes 4 ((mgetD e.temps k []).at i).toNat))

/-- Where the trap frame stands in a group area, after the operand log (R375). -/
def Group.frameOff (g : Group) : Nat := g.logOff + 8 * (128 + 40 * g.width)

/-- A split of a trap frame in 44 bytes. -/
def frameSplit (valid : Bool) (sp : Split) : List Byte :=
  leBytes 8 sp.pc.toNat ++ leBytes 12 sp.mask.toNat ++ leBytes 4 (sp.depth + if valid then 2 ^ 31 else 0) ++ leBytes 4 sp.mode.toNat ++
    (List.range 4).flatMap (fun k => leBytes 4 (sp.fmts.getD k 0).toNat)

/-- The trap frame (R302) in its 512 + 68 W bytes: s52 to s59; the level, the current entry and the number of parked splits; the split table
and the parked splits, 44 bytes each; for each lane t0 to t3, p0 to p7 and the predicate stack; the other bytes zero (DESIGN CHOICE, log
entry 18). -/
def frameBytes (w : Nat) (f : Frame) : List Byte :=
  let lane := fun (i : Nat) =>
    (List.range 4).flatMap (fun k => leBytes 4 ((mgetD f.temps k []).at i).toNat) ++
    leBytes 1 ((List.range 8).foldl (fun b k => if (mgetD f.preds k 0).getLsbD i then b + 2 ^ k else b) 0) ++
    leBytes 2 ((List.range 16).foldl (fun b k => if (mgetD f.stack (k + 1) 0).getLsbD i then b + 2 ^ k else b) 0)
  let bs := f.unis.flatMap (fun w => leBytes 4 w.toNat) ++ [BitVec.ofNat 8 f.level, BitVec.ofNat 8 f.cur, BitVec.ofNat 8 f.parked.length, 0] ++
    (List.range 4).flatMap (fun k => match mget f.splits k with
      | some sp => frameSplit true sp
      | none => List.replicate 44 0) ++
    f.parked.flatMap (frameSplit false) ++ (List.range w).flatMap lane
  bs ++ List.replicate (512 + 68 * w - bs.length) 0

/-- What the context areas of a group hold beside the save area: each piece is written when it changes. -/
def keepRecords (old g : Group) (s : State) : State :=
  let s := if g.parked = old.parked then s else s.putArea g.area g.parkOff (parkBytes g)
  let s := match g.frame with
    | some f => if old.frame = some f then s else s.putArea g.area g.frameOff (frameBytes g.width f)
    | none => s
  (List.range 8).foldl (fun s k =>
    match mget g.log k with
    | some e => if mget old.log k = some e then s
        else s.putArea g.area (g.logOff + k * (128 + 40 * g.width)) (entryBytes g.width e)
    | none => s) s

/-! ### A team area (R376) -/

/-- Head and tail of each FIFO bank, 14 bits and 15 bits of a number for bank after bank. -/
def fifoMarks : List (Nat × Nat) → Nat
  | [] => 0
  | f :: t => f.1 + 2 ^ 14 * f.2 + 2 ^ 29 * fifoMarks t

/-- The head and the tail that a header gives for FIFO bank `j`. -/
def fifoMark (header : List Byte) (j : Nat) : Nat × Nat :=
  let n := leNat (header.drop 8) / 2 ^ (29 * j)
  (n % 2 ^ 14, n / 2 ^ 14 % 2 ^ 15)

/-- The 256-byte header: barrier count, count of staged requests, then heads and tails of the FIFO banks, of which a pool has 64 at most
(DESIGN CHOICE, log entry 18); a saved FIFO's elements stand from the bank's start. -/
def headerBytes (t : Team) (fifos : List (List Word)) : List Byte :=
  leBytes 4 t.bars ++ leBytes 4 t.staged.length ++ leBytes 248 (fifoMarks (fifos.map (fun f => (0, f.length))))

/-- A FIFO bank as 64 KiB. -/
def fifoBytes (f : List Word) : List Byte :=
  (f.flatMap (fun w => leBytes 4 w.toNat)) ++ List.replicate (65536 - 4 * f.length) 0

/-- The elements of a saved FIFO bank. -/
def fifoOf (head tail : Nat) (bs : List Byte) : List Word :=
  (List.range ((tail + 16384 - head % 16384) % 16384 + (if tail = head + 16384 then 16384 else 0))).map
    (fun k => wordAt bs (4 * ((head + k) % 16384)))

/-! ### Weir records (R398) and handle entries (R418) -/

/-- BMASK: the bytes of the word that a record writes; which bits of them a nibble store writes is kept beside it (DESIGN CHOICE, log
entry 18). -/
def WeirRec.bytes4 (r : WeirRec) : Nat :=
  (List.range 4).foldl (fun n k => if r.bmask.extractLsb' (8 * k) 8 = 0 then n else n + 2 ^ k) 0

/-- A record in its 16 bytes (R398). -/
def WeirRec.bytes (r : WeirRec) : List Byte :=
  leBytes 16 (r.word + 2 ^ 8 * r.op + 2 ^ 12 * r.bytes4 + 2 ^ 16 * r.group + 2 ^ 32 * r.value.toNat + 2 ^ 64 * r.key.toNat)

/-- STATE of R418. -/
def HandleState.code : HandleState → Nat
  | .free => 0 | .pending => 1 | .ready => 2 | .broken => 3 | .forwarded => 4

/-- A handle entry in its 64 bytes (R418); the dealer's number of a task in its low 16 bits (DESIGN CHOICE, log entry 18). -/
def HandleEntry.bytes (e : HandleEntry) : List Byte :=
  leBytes 64 ((if e.dropped then 2 ^ 29 else 0) + 2 ^ 30 * e.state.code + 2 ^ 33 * e.tmo + 2 ^ 38 * e.gen.toNat +
    2 ^ 64 * (min e.waiting 65535) + 2 ^ 80 * (e.task % 65536) + 2 ^ 96 * e.cause.toNat + 2 ^ 128 * e.deadline.toNat +
    2 ^ 192 * e.fwdh.toNat + 2 ^ 256 * leNat ((List.range 8).flatMap (fun k => leBytes 4 (e.result.getD k 0).toNat)))

/-- Where an entry of a quarter's handle table stands: in the highest blocks of the quarter's first stack (DESIGN CHOICE, log
entry 18). -/
def handleAddr (quarter index : Nat) : Nat :=
  4096 * (12 * (16777216 - 1024 + index / 64) + 3 * quarter) + 64 * (index % 64)

end Sys2Proof.Machine
end

