-- ==== Sys2Proof/Machine/Numbers.lean ====
section
/-! DEFINITION. Number formats and arithmetic (04): exact values, the one rounding function of R104 to R106 for every
format, special values (R100 to R105, R109, R111), conversions (R112 to R115) and the generator (R120). -/

namespace Sys2Proof.Machine

/-! ### The counter-based generator (R120) -/

def philoxRound (c : Word × Word × Word × Word) (k : Word × Word) : Word × Word × Word × Word :=
  let p0 := 0xD2511F53 * c.1.toNat
  let p1 := 0xCD9E8D57 * c.2.2.1.toNat
  (BitVec.ofNat 32 (p1 / 2 ^ 32) ^^^ c.2.1 ^^^ k.1, BitVec.ofNat 32 p1,
   BitVec.ofNat 32 (p0 / 2 ^ 32) ^^^ c.2.2.2 ^^^ k.2, BitVec.ofNat 32 p0)

def philoxRounds : Nat → Word × Word × Word × Word → Word × Word → Word × Word × Word × Word
  | 0, c, _ => c
  | n + 1, c, k => philoxRounds n (philoxRound c k) (k.1 + 0x9E3779B9, k.2 + 0xBB67AE85)

def philox (c : Word × Word × Word × Word) (k : Word × Word) : Word × Word × Word × Word := philoxRounds 10 c k

/-! ### Formats (R97, R107 to R110) -/

/-- Which codes are special (R109). -/
inductive Spec where
  | ieee | nanOnly | finite
  deriving DecidableEq, Repr

/-- A floating-point format: exponent and mantissa widths, bias, sign bit, special codes. -/
structure Fmt where
  ew   : Nat
  mw   : Nat
  bias : Int
  sign : Bool
  spec : Spec
  deriving DecidableEq, Repr

def fp32 : Fmt := ⟨8, 23, 127, true, .ieee⟩
def bf16 : Fmt := ⟨8, 7, 127, true, .ieee⟩

/-- Bits of an element (R107). -/
def Fmt.width (f : Fmt) : Nat := (if f.sign then 1 else 0) + f.ew + f.mw

/-- Bits below the sign. -/
def Fmt.mag (f : Fmt) : Nat := f.ew + f.mw

/-- The largest finite magnitude code (R109). The valid NaN-only descriptor with SIGN 1, EW 0 and MW 0 has no finite code: 0 is taken
(DESIGN CHOICE, log entry 49). -/
def Fmt.maxCode (f : Fmt) : Nat :=
  match f.spec with
  | .ieee => (2 ^ f.ew - 1) * 2 ^ f.mw - 1
  | .nanOnly => 2 ^ f.mag - 2
  | .finite => 2 ^ f.mag - 1

/-- The NaN code, when the format has one (R109). -/
def Fmt.nanCode (f : Fmt) : Option Nat :=
  match f.spec with
  | .ieee => if f.mw = 0 then none else some (if f.ew = 8 then (2 ^ f.ew - 1) * 2 ^ f.mw + 2 ^ (f.mw - 1) else 2 ^ f.mag - 1)
  | .nanOnly => some (2 ^ f.mag - 1)
  | .finite => none

/-- A value: NaN, an infinity, or (−1)^neg × m × 2^e. -/
inductive Num where
  | nan
  | inf (neg : Bool)
  | fin (neg : Bool) (m : Nat) (e : Int)
  deriving DecidableEq, Repr

def Num.zero : Num := .fin false 0 0

/-- The value of a code (R98, R108, R109). -/
def Fmt.value (f : Fmt) (code : Nat) : Num :=
  let neg := f.sign && decide (code / 2 ^ f.mag % 2 = 1)
  let e := code / 2 ^ f.mw % 2 ^ f.ew
  let m := code % 2 ^ f.mw
  let special := match f.spec with
    | .ieee => e == 2 ^ f.ew - 1
    | .nanOnly => code % 2 ^ f.mag == 2 ^ f.mag - 1
    | .finite => false
  if special then (if f.spec = .ieee ∧ m = 0 then .inf neg else .nan)
  else if f.ew = 0 then .fin neg m (-f.bias)
  else if e = 0 then .fin neg m (1 - f.bias - f.mw)
  else .fin neg (2 ^ f.mw + m) ((e : Int) - f.bias - f.mw)

/-- A subnormal code of FP32 or BF16 (R98, R103). -/
def Fmt.subnormal (f : Fmt) (code : Nat) : Bool :=
  code / 2 ^ f.mw % 2 ^ f.ew == 0 && code % 2 ^ f.mw != 0

/-! ### Exact arithmetic -/

/-- m × 2^e brought to a lower exponent. -/
def scaleTo (m : Nat) (e lo : Int) : Nat := m * 2 ^ (e - lo).toNat

/-- The exact signed sum of two finite values; an exact zero of opposite signs is +0, or −0 under down (R102). -/
def addFin (n1 : Bool) (m1 : Nat) (e1 : Int) (n2 : Bool) (m2 : Nat) (e2 : Int) (down : Bool) : Num :=
  let lo := min e1 e2
  let a : Int := scaleTo m1 e1 lo
  let b : Int := scaleTo m2 e2 lo
  let x := (if n1 then -a else a) + (if n2 then -b else b)
  if x = 0 then .fin (if m1 = 0 ∧ m2 = 0 ∧ n1 = n2 then n1 else if n1 = n2 then n1 else down) 0 0
  else .fin (decide (x < 0)) x.natAbs lo

/-- x + y exactly (R99, R102). -/
def Num.add (x y : Num) (down : Bool) : Num :=
  match x, y with
  | .nan, _ => .nan
  | _, .nan => .nan
  | .inf a, .inf b => if a = b then .inf a else .nan
  | .inf a, .fin _ _ _ => .inf a
  | .fin _ _ _, .inf b => .inf b
  | .fin n1 m1 e1, .fin n2 m2 e2 => addFin n1 m1 e1 n2 m2 e2 down

def Num.neg : Num → Num
  | .nan => .nan
  | .inf a => .inf (!a)
  | .fin n m e => .fin (!n) m e

/-- x × y exactly. -/
def Num.mul (x y : Num) : Num :=
  match x, y with
  | .nan, _ => .nan
  | _, .nan => .nan
  | .inf a, .inf b => .inf (a != b)
  | .inf a, .fin n m _ => if m = 0 then .nan else .inf (a != n)
  | .fin n m _, .inf b => if m = 0 then .nan else .inf (n != b)
  | .fin n1 m1 e1, .fin n2 m2 e2 => .fin (n1 != n2) (m1 * m2) (e1 + e2)

/-! ### Rounding (R104 to R106) -/

/-- The rounding that a result takes: RND, SAT, and the stochastic word. -/
structure Rnd where
  mode : Nat
  sat  : Bool
  word : Nat
  deriving DecidableEq, Repr

def nearestEven : Rnd := ⟨0, false, 0⟩

/-- floor(log2 (m × 2^e)) for m above 0. -/
def topExp (m : Nat) (e : Int) : Int := (m.log2 : Int) + e

/-- The exponent of the unit in which magnitudes near m × 2^e are spaced (R104). -/
def Fmt.unit (f : Fmt) (m : Nat) (e : Int) : Int :=
  if f.ew = 0 then -f.bias else max (topExp m e) (1 - f.bias) - f.mw

/-- R104, R106: whether the neighbour of larger magnitude is taken. The magnitude is n + num / den units, more when
`sticky`, and lies strictly between n and n + 1. -/
def roundUp (f : Fmt) (r : Rnd) (neg : Bool) (n num den : Nat) (sticky : Bool) (q : Int) : Bool :=
  match r.mode with
  | 0 =>
    if den < 2 * num ∨ (2 * num = den ∧ sticky) then true
    else if 2 * num = den then
      (if f.mw = 0 ∧ f.ew ≠ 0 then Config.tieWithoutMantissa n q else n % 2 == 1)
    else false
  | 1 => false
  | 2 => !neg
  | 3 => neg
  | 4 => decide (den ≤ 2 * num)
  | _ => decide (r.word < num * 2 ^ 32 / den)

/-- The magnitude code of n units of 2^q, its exponent field not limited. -/
def Fmt.code (f : Fmt) (n : Nat) (q : Int) : Nat :=
  if f.ew = 0 then n
  else if n < 2 ^ f.mw then n
  else ((q + f.mw + f.bias).toNat) * 2 ^ f.mw + (n - 2 ^ f.mw)

/-- R104: the magnitude code that a finite non-zero magnitude rounds to; above `maxCode` it has overflowed. -/
def Fmt.roundMag (f : Fmt) (r : Rnd) (neg : Bool) (m : Nat) (e : Int) (sticky : Bool) : Nat :=
  let q := f.unit m e
  if q ≤ e ∧ !sticky then f.code (scaleTo m e q) q
  else
    let (m, e) := if q ≤ e then (scaleTo m e (q - 1), q - 1) else (m, e)
    let den := 2 ^ (q - e).toNat
    let n := m / den
    let num := m % den
    if num = 0 ∧ !sticky then f.code n q
    else f.code (if roundUp f r neg n num den sticky q then n + 1 else n) q

/-- A code with its sign bit. -/
def Fmt.withSign (f : Fmt) (neg : Bool) (code : Nat) : Nat :=
  if f.sign && neg then 2 ^ f.mag + code else code

/-- R105: an overflow gives the largest finite value: SAT, or a mode that rounds toward it. -/
def overflowStays (r : Rnd) (neg : Bool) : Bool :=
  r.sat || r.mode == 1 || (r.mode == 2 && neg) || (r.mode == 3 && !neg)

/-- The code of an infinity result of an operand (R105, R111). -/
def Fmt.infinity (f : Fmt) (r : Rnd) (neg : Bool) : Nat :=
  if neg && !f.sign then 0
  else match f.spec with
    | .ieee => f.withSign neg ((2 ^ f.ew - 1) * 2 ^ f.mw)
    | .nanOnly => f.withSign neg (if r.sat then f.maxCode else 2 ^ f.mag - 1)
    | .finite => f.withSign neg f.maxCode

/-- The code of an overflow (R105, R111). -/
def Fmt.overflow (f : Fmt) (r : Rnd) (neg : Bool) : Nat :=
  if neg && !f.sign then 0
  else if overflowStays r neg then f.withSign neg f.maxCode
  else f.infinity { r with sat := false } neg

/-- round(x, mode.RND) to a format (R9, R99 to R106, R111), of a finite value known to the unit of its mantissa:
`sticky` says that the value is larger in magnitude, by less than one unit of 2^e. -/
def Fmt.roundFin (f : Fmt) (r : Rnd) (neg : Bool) (m : Nat) (e : Int) (sticky : Bool) : Nat :=
  if neg && !f.sign then 0
  else if m = 0 ∧ !sticky then f.withSign neg 0
  else
    let c := f.roundMag r neg m e sticky
    if f.maxCode < c then f.overflow r neg else f.withSign neg c

/-- round(x, mode.RND) to a format. -/
def Fmt.round (f : Fmt) (r : Rnd) : Num → Nat
  | .nan => f.nanCode.getD 0
  | .inf neg => f.infinity r neg
  | .fin neg m e => f.roundFin r neg m e false

/-- R103: a non-zero value below the smallest normal magnitude. -/
def Fmt.tiny (f : Fmt) : Num → Bool
  | .fin _ m e => m != 0 && decide (topExp m e < 1 - f.bias)
  | _ => false

/-! ### Values of registers -/

def f32 (w : Word) : Num := fp32.value w.toNat
def h16 (w : Word) (k : Nat) : Num := bf16.value (w.toNat / 2 ^ (16 * k) % 2 ^ 16)

/-- FP32 nearest-even with SAT 0 (R116, R118, R217). -/
def roundNe (x : Num) : Word := BitVec.ofNat 32 (fp32.round nearestEven x)

/-- The FP32 sum that the weir, the atomics and the collective engine form. -/
def addF32 (a b : Word) : Word := roundNe ((f32 a).add (f32 b) false)

/-- A comparison of finite values and infinities: −1, 0 or 1; none with a NaN (R177). -/
def Num.cmp (x y : Num) : Option Int :=
  match x, y with
  | .nan, _ => none
  | _, .nan => none
  | .inf a, .inf b => some (if a = b then 0 else if a then -1 else 1)
  | .inf a, .fin _ _ _ => some (if a then -1 else 1)
  | .fin _ _ _, .inf b => some (if b then 1 else -1)
  | .fin n1 m1 e1, .fin n2 m2 e2 =>
    match addFin n1 m1 e1 (!n2) m2 e2 false with
    | .fin n m _ => some (if m = 0 then 0 else if n then -1 else 1)
    | _ => none

/-- Floating-point min and max on codes (R101): the numeric operand beside a NaN, −0 below +0. -/
def Fmt.minMax (f : Fmt) (isMax : Bool) (a b : Nat) : Nat :=
  match f.value a, f.value b with
  | .nan, .nan => f.nanCode.getD 0
  | .nan, _ => b
  | _, .nan => a
  | x, y =>
    match x.cmp y with
    | some (-1) => if isMax then b else a
    | some 1 => if isMax then a else b
    | _ =>
      let an := a / 2 ^ f.mag % 2 == 1
      if isMax then (if an then b else a) else (if an then a else b)

/-- x rounded to an integral value: numerator over the unit 1 (R176, R115). -/
def roundInt (r : Rnd) (neg : Bool) (m : Nat) (e : Int) : Nat :=
  if 0 ≤ e then m * 2 ^ e.toNat
  else
    let den := 2 ^ (-e).toNat
    let n := m / den
    let num := m % den
    if num = 0 then n
    else if roundUp fp32 r neg n num den false 0 then n + 1 else n

/-- FRINT in a format (R176): infinities as they are, NaN canonical, the operand's sign. -/
def Fmt.frint (f : Fmt) (r : Rnd) (code : Nat) : Nat :=
  match f.value code with
  | .nan => f.nanCode.getD 0
  | .inf _ => code
  | .fin neg m e => f.roundFin { r with sat := true } neg (roundInt r neg m e) 0 false

/-- Float to integer (R115): rounded, then narrowed by saturation; NaN gives 0. -/
def toInt (r : Rnd) (lo hi : Int) : Num → Word
  | .nan => 0
  | .inf neg => BitVec.ofInt 32 (if neg then lo else hi)
  | .fin neg m e =>
    let x : Int := if 64 ≤ topExp (max m 1) e then 2 ^ 64 else roundInt r neg m e
    BitVec.ofInt 32 (sat (if neg then -x else x) lo hi)

/-- An exact integer as a value; 0 is +0 (R102). -/
def ofInt (x : Int) : Num := .fin (decide (x < 0)) x.natAbs 0

/-! ### Narrow formats (R33, R34, R107 to R114) -/

/-- The fields of a format register (R33). -/
def fmtScale (w : Word) : Nat := (w.extractLsb' 30 2).toNat
def fmtSreg (w : Word) : Nat := (w.extractLsb' 24 6).toNat
def fmtSpec (w : Word) : Nat := (w.extractLsb' 22 2).toNat

def fmtOf (w : Word) : Fmt :=
  { ew := (w.extractLsb' 18 3).toNat, mw := (w.extractLsb' 15 3).toNat, bias := (w.extractLsb' 7 8).toInt,
    sign := w.getLsbD 21, spec := match fmtSpec w with | 0 => .ieee | 1 => .nanOnly | _ => .finite }

/-- R34: a valid descriptor. -/
def fmtValid (w : Word) : Bool :=
  let f := fmtOf w
  decide (1 ≤ f.width) && decide (f.width ≤ 8) && fmtSpec w != 3 && fmtScale w != 3 &&
  (fmtSpec w != 0 || decide (2 ≤ f.ew)) && (fmtScale w != 2 || decide (fmtSreg w ≤ 59))

/-- Elements of 1 to 4 bits are packed two to a byte (R107). -/
def Fmt.nibble (f : Fmt) : Bool := decide (f.width ≤ 4)

/-- R114: a per-tensor scale that is zero, infinite or a NaN is not usable. -/
def scaleBad (s : Word) : Bool :=
  match f32 s with
  | .fin _ m _ => m == 0
  | _ => true

/-- A narrow element as an exact value with its scale (R112). -/
def narrowValue (desc : Word) (code : Nat) (scale : Num) : Num :=
  let x := (fmtOf desc).value (code % 2 ^ (fmtOf desc).width)
  if fmtScale desc = 0 then x else x.mul scale

/-- x ÷ s as a mantissa of at least 64 further bits and a sticky bit, for finite x and s not zero. -/
def divNum (x s : Num) : Bool × Nat × Int × Bool :=
  match x, s with
  | .fin n1 m1 e1, .fin n2 m2 e2 =>
    let k := 200 + (m2.log2 - m1.log2)
    let a := m1 * 2 ^ k
    (n1 != n2, a / m2, e1 - e2 - k, a % m2 != 0)
  | _, _ => (false, 0, 0, false)

/-- A conversion into a narrow format under a scale (R111, R114). -/
def toNarrow (desc : Word) (r : Rnd) (x : Num) (scale : Num) : Nat :=
  let f := fmtOf desc
  match x with
  | .nan => f.nanCode.getD 0
  | .inf neg => f.infinity r (if fmtScale desc = 0 then neg else
      match scale with | .fin sn _ _ => neg != sn | _ => neg)
  | .fin neg m e =>
    if fmtScale desc = 0 then f.roundFin r neg m e false
    else
      let (n, q, ex, st) := divNum x scale
      f.roundFin r n q ex st

/-- The unbiased exponent of a format's largest finite value (R113); 0 where that value is zero or does not exist (DESIGN CHOICE,
log entry 49). -/
def Fmt.maxExp (f : Fmt) : Int :=
  match f.value f.maxCode with
  | .fin _ m e => if m = 0 then 0 else topExp m e
  | _ => 0

/-- The scale byte of a Microscaling block (R113). -/
def blockScale (f : Fmt) (xs : List Num) : Nat :=
  if xs.any (fun x => match x with | .fin _ _ _ => false | _ => true) then 255
  else
    let tops := xs.filterMap (fun x => match x with
      | .fin _ m e => if m = 0 then none else some (topExp m e)
      | _ => none)
    match tops with
    | [] => 127
    | t :: ts => (max 0 (min 254 (ts.foldl max t - f.maxExp + 127))).toNat

/-- The value of an E8M0 scale byte (R113). -/
def scaleValue (c : Nat) : Num := if c = 255 then .nan else .fin false 1 ((c : Int) - 127)

/-- An element stored within a Microscaling block (R113): an overflow takes the largest finite value. -/
def toBlock (f : Fmt) (r : Rnd) (c : Nat) : Num → Nat
  | .fin neg m e =>
    if c = 255 then 0
    else if neg && !f.sign then 0
    else if m = 0 then f.withSign neg 0
    else f.withSign neg (min (f.roundMag r neg m (e - ((c : Int) - 127)) false) f.maxCode)
  | _ => 0

/-! ### The rounding of an instruction (R106, R136) -/

/-- RND, SAT, ETYPE and SEED of the mode register (R31). -/
def modeRnd (mode : Word) : Nat := (mode.extractLsb' 0 3).toNat
def modeSat (mode : Word) : Bool := mode.getLsbD 5
def modeBf16 (mode : Word) : Bool := mode.getLsbD 4
def modeSeed (mode : Word) : Nat := (mode.extractLsb' 16 5).toNat

/-- The stochastic word of R106 for an element of a lane of the word at a text offset. -/
def stochastic (k0 k1 : Word) (elem lane : Nat) (off : Word) : Nat :=
  (philox (BitVec.ofNat 32 elem, BitVec.ofNat 32 lane, off, 0xFFFFFFFF) (k0, k1)).1.toNat

/-- The rounding of one element of a result under the split's mode register. -/
def Group.rnd (g : Group) (lane elem : Nat) : Rnd :=
  let mode := g.mode
  { mode := modeRnd mode, sat := modeSat mode,
    word := if modeRnd mode = 5 then
        stochastic (loWord g.seeds) (hiWord g.seeds) elem lane (loWord (g.wordPc - g.text))
      else 0 }

end Sys2Proof.Machine
end

