-- ==== Sys2Proof/Machine/Home.lean ====
section
/-! DEFINITION. Lines and their homes (13): the cluster cache (R313), L1 (R308, R316), the store-gathering buffer (R309 to
R311), the writer counters and the weir (R397 to R400), and the atomic step (R217). -/

namespace Sys2Proof.Machine

/-- Bytes of a line to write, by offset, with the bits of each that are written. -/
abbrev Cells := Map (Byte × Byte)

def mergeByte (old d m : Byte) : Byte := (old &&& ~~~m) ||| (d &&& m)

/-- A line with cells written over it. -/
def overlay (line : List Byte) (cs : Cells) : List Byte :=
  (List.range line.length).map (fun k => match mget cs k with
    | some e => mergeByte (line.getD k 0) e.1 e.2
    | none => line.getD k 0)

/-- Later cells over earlier ones. -/
def mergeCells (old new : Cells) : Cells :=
  new.foldl (fun c e => mput c e.1 (match mget c e.1 with
    | some o => (mergeByte o.1 e.2.1 e.2.2, o.2 ||| e.2.2)
    | none => e.2)) old

/-- Every byte of the line is written whole. -/
def cellsFull (cs : Cells) : Bool := (List.range 128).all (fun k => match mget cs k with | some e => e.2 == 0xFF | none => false)

/-- The cells of the line `pline` that bytes from a physical address cover. -/
def lineCells (pline pa : Nat) (data : List (Byte × Byte)) : Cells :=
  (List.range 128).filterMap (fun k =>
    let a := 128 * pline + k
    if pa ≤ a then (data[a - pa]?).map (fun e => (k, e)) else none)

/-- The lines that `n` bytes from a physical address touch. -/
def linesOf (pa n : Nat) : List Nat :=
  if n = 0 then [] else (List.range ((pa + n - 1) / 128 - pa / 128 + 1)).map (fun k => pa / 128 + k)

/-- Whole bytes. -/
def wholeBytes (bs : List Byte) : List (Byte × Byte) := bs.map (fun b => (b, 0xFF))

/-! ### The cluster cache (R313) -/

/-- The banks in the cache role that teams hold in a cluster. -/
def cacheBankList (cl : Cluster) : List Nat := mkeys (cl.banks.filter (fun e => e.2.role == 0 && e.2.owner.isSome))

def cacheBanks (cl : Cluster) : Nat := (cacheBankList cl).length

/-- The bank that a line is held in (R313). -/
def cachePlace (cl : Cluster) (pline : Nat) : Option Nat :=
  let bs := cacheBankList cl
  bs[Config.cacheHash bs pline % bs.length]?

def cacheLine (cl : Cluster) (pline : Nat) : Option CLine := cl.cache.find? (fun l => l.pline == pline)

/-- The cluster that is home of an L page: none while it holds no cache-role bank. -/
def homeOf (s : State) (home : Option Nat) : Option Nat :=
  home.bind (fun c => if cacheBanks (s.cluster c) = 0 then none else some c)

/-- A line at its home slice. -/
def memLine (s : State) (pline : Nat) : List Byte := bgetN s.mem (128 * pline) 128

/-- A line at its home. -/
def homeLine (s : State) (home : Option Nat) (pline : Nat) : List Byte :=
  match homeOf s home with
  | some c => match cacheLine (s.cluster c) pline with
    | some l => l.data
    | none => memLine s pline
  | none => memLine s pline

/-- Bytes at their home. -/
def homeBytes (s : State) (home : Option Nat) (pa n : Nat) : List Byte :=
  (linesOf pa n).flatMap (fun l =>
    let line := homeLine s home l
    (List.range 128).filterMap (fun k =>
      let a := 128 * l + k
      if pa ≤ a ∧ a < pa + n then some (line.getD k 0) else none))

/-- A dirty line goes back to its home slice; a marked line stays marked (R317). -/
def writeBack (s : State) (l : CLine) : State :=
  if l.dirty then { s with mem := bputN s.mem (128 * l.pline) l.data } else s

/-- Puts a line into its bank of a cluster cache, which holds 512 lines; which line it replaces there is free (DESIGN CHOICE,
log entry 3). -/
def cacheInsert (s : State) (c pline : Nat) (data : List Byte) (dirty : Bool) : State :=
  let cl := s.cluster c
  match cachePlace cl pline with
  | none => s
  | some b =>
    let l : CLine := ⟨pline, data, dirty, b⟩
    let rest := cl.cache.filter (fun x => x.pline != pline)
    let mates := rest.filter (fun x => x.bank == b)
    if mates.length < 512 then s.setCluster c { cl with cache := l :: rest }
    else
      let (n, s) := s.draw
      match mates[n % mates.length]? with
      | some v => (writeBack s v).setCluster c { cl with cache := l :: rest.filter (fun x => x.pline != v.pline) }
      | none => s

/-- The home slice removes a line from every cluster cache before it acknowledges a write (R313). -/
def dropCached (s : State) (pline : Nat) : State :=
  s.clusters.foldl (fun s e =>
    match cacheLine e.2 pline with
    | some l => (writeBack s l).setCluster e.1 { e.2 with cache := e.2.cache.filter (fun x => x.pline != pline) }
    | none => s) s

/-- A bank has joined or left the cache role: a line that no longer maps to its bank is written back and dropped (R295,
R313). -/
def rehash (s : State) (c : Nat) : State :=
  let cl := s.cluster c
  let gone := cl.cache.filter (fun l => cachePlace cl l.pline != some l.bank)
  (gone.foldl writeBack s).setCluster c { cl with cache := cl.cache.filter (fun l => cachePlace cl l.pline == some l.bank) }

/-! ### The lines that the slices cache (R315) -/

/-- The slice of a line, by its number in the package. -/
def sliceOf (pline : Nat) : Nat := 256 * homeQuarter (128 * pline) + homeSlice (128 * pline)

/-- The set of its slice that a line falls into, of 256 (DESIGN CHOICE, log entry 19). -/
def sliceSet (pline : Nat) : Nat := pline / 256 % 256

/-- A line that a slice caches no longer has no presence vector: the cluster caches keep no copy of it (R313; DEDUCED, log entry 42). -/
def dropCopies (s : State) (pline : Nat) : State :=
  { s with clusters := mmap (fun _ (cl : Cluster) => { cl with cache := cl.cache.filter (fun x => x.pline != pline || x.dirty) }) s.clusters }

/-- A line has writer state in an ordered phase: its slice keeps it (R315). -/
def hasWriter (s : State) (pline : Nat) : Bool :=
  s.tasks.any (fun t => (mget t.2.lines pline).isSome) || s.guests.any (fun t => (mget t.2 pline).isSome)

/-- An access at a line's home slice: the slice caches the line, in a set of 16 ways; which line it replaces there is free (DESIGN CHOICE, log
entry 3). -/
def sliceTouch (s : State) (pline : Nat) : State :=
  let k := sliceOf pline
  let ls := mgetD s.slices k []
  if ls.contains pline then s
  else
    let mates := ls.filter (fun l => sliceSet l == sliceSet pline)
    if mates.length < 16 then { s with slices := mput s.slices k (pline :: ls) }
    else
      let free := mates.filter (fun l => !hasWriter s l)
      let (n, s) := s.draw
      match free[n % free.length]? with
      | some v => dropCopies { s with slices := mput s.slices k (pline :: ls.filter (· != v)) } v
      | none => s

/-- A read of a line where its home is its slice. -/
def touchHome (s : State) (home : Option Nat) (pline : Nat) : State := if (homeOf s home).isNone then sliceTouch s pline else s

/-- A write performed at a line's home: a marked line that the home cluster does not hold is not passed on to its cache, so
that it is written at the home slice (R317; DEDUCED, log entry 42). A marked line written in full is whole again (R317; DEDUCED, log entry 42). -/
def homeStore (s : State) (home : Option Nat) (pline : Nat) (cs : Cells) : State :=
  match (homeOf s home).bind (fun c =>
      if s.bad.contains pline && (cacheLine (s.cluster c) pline).isNone then none else some c) with
  | some c => cacheInsert s c pline (overlay (homeLine s home pline) cs) true
  | none =>
    let s := sliceTouch (dropCached s pline) pline
    { s with
      mem := cs.foldl (fun m e => bput m (128 * pline + e.1) (mergeByte (bget m (128 * pline + e.1)) e.2.1 e.2.2)) s.mem,
      bad := if cellsFull cs then s.bad.filter (· != pline) else s.bad }

/-! ### Ordered phases (R397 to R400) -/

/-- The words of a line that cells touch: word, value, bits written. -/
def cellWords (cs : Cells) : List (Nat × Word × Word) :=
  (List.range 32).filterMap (fun w =>
    let bs := (List.range 4).map (fun k => mgetD cs (4 * w + k) (0, 0))
    let m := leWord (bs.map Prod.snd)
    if m = 0 then none else some (w, leWord (bs.map Prod.fst), m))

/-- WRITE records of cells (R398). -/
def writeRecs (key : DWord) (group : Nat) (cs : Cells) : List WeirRec :=
  (cellWords cs).map (fun e => ⟨key, group, e.2.1, e.2.2, 0, e.1⟩)

/-- The record places in use at a slice: a pre-phase copy takes eight (R398). -/
def slicePlaces (s : State) (slice : Nat) : Nat :=
  (s.tasks.map (fun t => t.2.lines) ++ s.guests.map Prod.snd).foldl (fun n ls => ls.foldl (fun n e =>
    if sliceOf e.1 = slice then n + 8 + e.2.recs.length else n) n) 0

/-- A line's writer state replaced in its task; records beyond the 4,096 places spill (R400), but for those of a task without a record
here, whose context region is not here either (DESIGN CHOICE, log entry 50). -/
def setPhaseLine (s : State) (tid pline : Nat) (l : PhaseLine) : State :=
  match s.task? tid with
  | none => { s with guests := mput s.guests tid (mput (mgetD s.guests tid []) pline l) }
  | some t =>
    let s1 := s.setTask tid { t with lines := mput t.lines pline l }
    let excess := slicePlaces s1 (sliceOf pline) - 4096
    let before := slicePlaces s (sliceOf pline) - 4096
    if before < excess then
      s1.setTask tid { t with lines := mput t.lines pline l, spill := true, spilled := t.spilled + (excess - before) }
    else s1

/-- The lines written in the task's ordered phase, if one is open; an access of another package that belongs to the phase has opened it
here too (R277). -/
def phaseLines (s : State) (tid : Nat) : Option (Map PhaseLine) :=
  match s.task? tid with
  | some t => if t.inPhase || t.begun then some t.lines else none
  | none => mget s.guests tid

/-- A write of a phase has come from another package (R277, R397). -/
def openPhase (s : State) (tid : Nat) : State :=
  if tid = 0 then s
  else match s.task? tid with
  | some t => if t.inPhase || t.begun then s else s.setTask tid { t with begun := true, spill := false, conflicts := 0 }
  | none => if (mget s.guests tid).isSome then s else { s with guests := mput s.guests tid [] }

/-- The line with its first writer's bytes turned into records (R397). -/
def shareLine (s : State) (pline : Nat) (l : PhaseLine) : PhaseLine :=
  if l.shared then l
  else
    let line := memLine s pline
    let cs : Cells := (List.range 128).filterMap (fun k =>
      let m := l.written.getD k 0
      if m = 0 then none else some (k, (line.getD k 0, m)))
    { l with shared := true, recs := writeRecs l.writer.1 l.writer.2 cs }

def addCell (k : DWord) (ks : List DWord) : List DWord := if ks.contains k then ks else ks ++ [k]

/-- A store or engine write of a writer within a phase (R397). -/
def phaseWrite (s : State) (tid : Nat) (ls : Map PhaseLine) (pline : Nat) (key : DWord) (group : Nat) (cs : Cells) : State :=
  let masks := (List.range 128).map (fun k => (mgetD cs k (0, 0)).2)
  let s := dropCached s pline
  let s :=
    match mget ls pline with
    | none =>
      setPhaseLine s tid pline ⟨false, (key, group), memLine s pline, masks, [], [key]⟩
    | some l =>
      if !l.shared && l.writer == (key, group) then
        setPhaseLine s tid pline
          { l with written := (List.range 128).map (fun k => l.written.getD k 0 ||| masks.getD k 0) }
      else
        let l := shareLine s pline l
        setPhaseLine s tid pline
          { l with recs := l.recs ++ writeRecs key group cs, cells := addCell key l.cells }
  homeStore s none pline cs

/-- A write of a writer of a task at a line's home. -/
def lineWrite (s : State) (home : Option Nat) (pline : Nat) (task : Nat) (key : DWord) (group : Nat) (cs : Cells) : State :=
  match phaseLines s task with
  | some ls => phaseWrite s task ls pline key group cs
  | none => homeStore s home pline cs

/-- An engine write of bytes at their home (R246, R331). -/
def spanWrite (s : State) (home : Option Nat) (pa : Nat) (task : Nat) (key : DWord) (group : Nat)
    (data : List (Byte × Byte)) : State :=
  (linesOf pa data.length).foldl (fun s l => lineWrite s home l task key group (lineCells l pa data)) s

/-- R397: the lines among some that a cell other than the reading one has written in the task's phase. -/
def conflictLines (ps : Map PhaseLine) (key : DWord) (ls : List Nat) : Nat :=
  (ls.eraseDups.filter (fun l => match mget ps l with
    | some p => p.cells.any (· != key)
    | none => false)).length

/-- Adds phase conflicts to a task's count (R279). -/
def addConflicts (s : State) (task n : Nat) : State :=
  match s.task? task with
  | some t => if n = 0 then s else s.setTask task { t with conflicts := min (2 ^ 30 - 1) (t.conflicts + n) }
  | none => s

/-- Counts the phase conflicts of one instruction or command (R279, R397). -/
def countConflicts (s : State) (task : Nat) (key : DWord) (ls : List Nat) : State :=
  match phaseLines s task with
  | some ps => addConflicts s task (conflictLines ps key ls)
  | none => s

/-! ### The atomic step (R217) -/

def atomStep (op : AtomOp) (old y cmp : Word) : Word :=
  match op with
  | .addI32 => old + y
  | .addF32 => addF32 old y
  | .minI32 => minIW old y
  | .minN32 => minNW old y
  | .maxI32 => maxIW old y
  | .maxN32 => maxNW old y
  | .xchg => y
  | .cas => if old = cmp then y else old
  | .and => old &&& y
  | .or => old ||| y
  | .xor => old ^^^ y

/-- The OP code of a weir record (R398). -/
def weirCode : AtomOp → Nat
  | .addI32 => 1 | .addF32 => 2 | .minI32 => 3 | .minN32 => 4 | .maxI32 => 5 | .maxN32 => 6
  | .and => 7 | .or => 8 | .xor => 9 | .xchg => 0 | .cas => 10

/-- The records of an atomic (R398). -/
def atomRecs (op : AtomOp) (key : DWord) (group word : Nat) (y cmp : Word) : List WeirRec :=
  match op with
  | .cas => [⟨key, group, y, 0xFFFFFFFF, 10, word⟩, ⟨key, group, cmp, 0xFFFFFFFF, 11, word⟩]
  | _ => [⟨key, group, y, 0xFFFFFFFF, weirCode op, word⟩]

/-- A word as cells of its line. -/
def wordCells (pa : Nat) (w : Word) : Cells := lineCells (pa / 128) pa (wholeBytes (leBytes 4 w.toNat))

/-- One atomic at its home (R217 to R219): the old value and the state. -/
def atomAt (s : State) (home : Option Nat) (pa : Nat) (op : AtomOp) (y cmp : Word) (task : Nat) (key : DWord)
    (group : Nat) : Word × State :=
  let pline := pa / 128
  match phaseLines s task with
  | some ps =>
    let s := dropCached s pline
    let old := leWord (homeBytes s none pa 4)
    let l := match mget ps pline with
      | none => (⟨true, (key, group), memLine s pline, [], [], []⟩ : PhaseLine)
      | some l => shareLine s pline l
    let s := setPhaseLine s task pline
      { l with recs := l.recs ++ atomRecs op key group (pa % 128 / 4) y cmp, cells := addCell key l.cells }
    (old, homeStore s none pline (wordCells pa (atomStep op old y cmp)))
  | none =>
    let old := leWord (homeBytes s home pa 4)
    (old, homeStore s home pline (wordCells pa (atomStep op old y cmp)))

/-! ### Rebuilding a shared line (R118, R399) -/

/-- The atomic of a record's OP. -/
def weirOp : Nat → AtomOp
  | 1 => .addI32 | 2 => .addF32 | 3 => .minI32 | 4 => .minN32 | 5 => .maxI32 | 6 => .maxN32
  | 7 => .and | 8 => .or | 9 => .xor | _ => .xchg

/-- Records in ascending KEY, then GROUP, then arrival order. -/
def insertRec (r : WeirRec) : List WeirRec → List WeirRec
  | [] => [r]
  | x :: t =>
    if r.key.toNat < x.key.toNat ∨ (r.key = x.key ∧ r.group < x.group) then r :: x :: t else x :: insertRec r t

def sortRecs (rs : List WeirRec) : List WeirRec := rs.foldl (fun acc r => insertRec r acc) []

/-- One record applied to the words of a line; a CAS takes the record after it too. -/
def applyRecs : List WeirRec → (Nat → Word) → Nat → Word
  | [], ws => ws
  | [r], ws => fun w => if w = r.word then (ws w &&& ~~~r.bmask) ||| (r.value &&& r.bmask) else ws w
  | r :: c :: t, ws =>
    if r.op = 10 then
      applyRecs t (fun w => if w = r.word ∧ ws w = c.value then r.value else ws w)
    else
      applyRecs (c :: t) (fun w =>
        if w = r.word then
          (if r.op = 0 then (ws w &&& ~~~r.bmask) ||| (r.value &&& r.bmask)
           else atomStep (weirOp r.op) (ws w) r.value 0)
        else ws w)

/-- Word `w` of a line. -/
def lineWord (line : List Byte) (w : Nat) : Word := leWord ((line.drop (4 * w)).take 4)

/-- A shared line rebuilt from its pre-phase copy. -/
def rebuildLine (l : PhaseLine) : List Byte :=
  let ws := applyRecs (sortRecs l.recs ++ [⟨0, 0, 0, 0, 0, 0⟩]) (lineWord l.pre)
  (List.range 32).flatMap (fun w => leBytes 4 (ws w).toNat)

/-- Every byte of the line has been written by some record. -/
def rebuiltWhole (l : PhaseLine) : Bool :=
  (List.range 32).all (fun w => l.recs.any (fun r => r.word == w && r.op == 0 && r.bmask == 0xFFFFFFFF))

/-- A slice puts a rebuilt line in place of the running copy (R399). A marked line stays marked unless it was written whole: the bytes that
were not have the pre-phase copy's uncorrectable data (R317). -/
def rebuildAt (s : State) (pline : Nat) (l : PhaseLine) : State :=
  let s' := homeStore s none pline (lineCells pline (128 * pline) (wholeBytes (rebuildLine l)))
  if rebuiltWhole l then s' else { s' with bad := s.bad }

/-! ### The store-gathering buffer (R309, R310) -/

/-- Everything an entry holds, later stores over earlier ones. -/
def SgbEntry.cells (e : SgbEntry) : Cells := e.parts.foldl (fun c p => mergeCells c p.cells) []

/-- The bytes that a core's buffer holds for a line. -/
def sgbCells (c : Core) (pline : Nat) : Cells :=
  (c.sgb.filter (fun e => e.pline == pline)).foldl (fun cs e => mergeCells cs e.cells) []

/-- Adds one writer's bytes at the end of an entry. -/
def addPart (p : SgbPart) : List SgbPart → List SgbPart
  | [] => [p]
  | [x] => if x.task = p.task ∧ x.key = p.key ∧ x.group = p.group then [{ x with cells := mergeCells x.cells p.cells }]
      else [x, p]
  | x :: t => x :: addPart p t

/-- A store enters its core's buffer: merged into the open entry of its line, or in a free entry; none when the
buffer is full (R309). The line leaves the core's L1 (R212). -/
def sgbPut (s : State) (core pline : Nat) (home : Option Nat) (p : SgbPart) (who : Nat × Nat) : Option State :=
  let c := s.core core
  let c := { c with l1 := c.l1.filter (fun l => l.pline != pline) }
  let close := fun (e : SgbEntry) => { e with sent := cellsFull e.cells }
  if c.sgb.any (fun e => e.pline == pline && !e.sent) then
    some (s.setCore core { c with sgb := c.sgb.map (fun e =>
      if e.pline == pline && !e.sent then close { e with parts := addPart p e.parts, who := e.who ++ [who] } else e) })
  else if c.sgb.length < 64 then
    some ((s.setCore core { c with sgb := c.sgb ++ [close ⟨pline, [p], [who], home, s.seq, false, s.clock⟩] }).tick1)
  else none

/-- Sends the entries of a core for which a test holds. -/
def sgbSend (s : State) (core : Nat) (f : SgbEntry → Bool) : State :=
  let c := s.core core
  s.setCore core { c with sgb := c.sgb.map (fun e => if f e then { e with sent := true } else e) }

/-- Sends a core's oldest entry that has not been sent. -/
def sgbSendOldest (s : State) (core : Nat) : State :=
  match (s.core core).sgb.find? (fun e => !e.sent) with
  | some e => sgbSend s core (fun x => x.seq == e.seq)
  | none => s

/-- The core's buffer holds bytes of a line. -/
def sgbHas (s : State) (core pline : Nat) : Bool := (s.core core).sgb.any (fun e => e.pline == pline)

/-! ### L1 (R211, R308, R316) -/

def l1Find (c : Core) (asid vline : Nat) : Option L1Line :=
  if c.asid = asid then c.l1.find? (fun l => l.asid == asid && l.vline == vline) else none

/-- The acquire of R220: the core's L1 is empty. -/
def l1Drop (s : State) (core : Nat) : State := s.setCore core { s.core core with l1 := [] }

/-- A group's own L1 keeps no line that the group has written at its home (R209, R335). -/
def l1DropLines (s : State) (core : Nat) (ls : List Nat) : State :=
  s.setCore core { s.core core with l1 := (s.core core).l1.filter (fun l => !ls.contains l.pline) }

/-- An access of an address space reaches a core's L1: the lines of another one go (R308). -/
def l1Space (s : State) (core asid : Nat) : State :=
  let c := s.core core
  if c.asid = asid then s else s.setCore core { c with asid := asid, l1 := [] }

/-- The tag under which a load of a group looks a line up in its L1: none for `.BYP`, and for the walker, whose addresses
are physical (R308, R322). -/
def Group.l1Tag (g : Group) (va : DWord) (byp : Bool) : Option (Nat × Nat) :=
  if byp || g.kind == .walker then none else some (g.asid, va.toNat / 128)

/-- Puts a line into an L1 of 128 sets of 8 ways: the core's lines of another address space go, every line of the
cluster's L1s that holds the same line under another tag goes, and which line of a full set is replaced is free (DESIGN CHOICE, log entry 3). -/
def l1Insert (s : State) (core : Nat) (l : L1Line) : State :=
  let purge := fun (k : Nat) (c : Core) =>
    if clusterOf k = clusterOf core then
      { c with l1 := c.l1.filter (fun x => !(x.pline == l.pline && !(x.asid == l.asid && x.vline == l.vline))) }
    else c
  let s := { s with cores := mmap purge s.cores }
  let c := s.core core
  let lines := if c.asid = l.asid then c.l1.filter (fun x => x.vline != l.vline) else []
  let mates := lines.filter (fun x => x.vline % 128 == l.vline % 128)
  if mates.length < 8 then s.setCore core { c with l1 := l :: lines, asid := l.asid }
  else
    let (n, s) := s.draw
    match mates[n % mates.length]? with
    | some v => s.setCore core { c with l1 := l :: lines.filter (fun x => x.vline != v.vline), asid := l.asid }
    | none => s

/-- Every byte from an offset is held whole by the buffer. -/
def sgbCovers (cs : Cells) (off n : Nat) : Bool :=
  (List.range n).all (fun k => match mget cs (off + k) with | some e => e.2 == 0xFF | none => false)

/-- Where a load without `.BYP` that missed L1 finds its line: the cluster cache, else the home, which the cluster
cache then keeps (R313). -/
def fillLine (s : State) (core : Nat) (home : Option Nat) (pline : Nat) : List Byte × State :=
  let k := clusterOf core
  let cl := s.cluster k
  match cacheLine cl pline with
  | some l => (l.data, s)
  | none =>
    let line := homeLine s home pline
    let s := touchHome s home pline
    (line, if cacheBanks cl = 0 then s else cacheInsert s k pline line false)

/-- A load of a group (R211, R310): the buffer's bytes first, then L1 under its tag, or its fill, or the home for `.BYP`; without a
tag and without `.BYP` the cluster cache or the home. -/
def loadBytes (s : State) (core : Nat) (tag : Option (Nat × Nat)) (pa : Nat) (home : Option Nat) (n : Nat) (byp : Bool) :
    List Byte × State :=
  let pline := pa / 128
  let off := pa % 128
  let cs := sgbCells (s.core core) pline
  let pick := fun (line : List Byte) => ((overlay line cs).drop off).take n
  if sgbCovers cs off n then (pick (memLine s pline), s)
  else if byp then (pick (homeLine s home pline), touchHome s home pline)
  else match tag with
    | none => let (line, s) := fillLine s core home pline; (pick line, s)
    | some (asid, vline) =>
      let s := l1Space s core asid
      match l1Find (s.core core) asid vline with
      | some l => (pick l.data, s)
      | none =>
        let (line, s) := fillLine s core home pline
        (pick line, l1Insert s core ⟨asid, vline, pline, overlay line cs⟩)

/-- R317: a load would take a byte from an uncorrectable home. -/
def loadBad (s : State) (core : Nat) (tag : Option (Nat × Nat)) (pa : Nat) (home : Option Nat) (n : Nat) (byp : Bool) : Bool :=
  let pline := pa / 128
  s.bad.contains pline && !sgbCovers (sgbCells (s.core core) pline) (pa % 128) n &&
  (byp || ((match tag with | some t => (l1Find (s.core core) t.1 t.2).isNone | none => true) &&
    (cacheLine (s.cluster (clusterOf core)) pline).isNone)) &&
  (match homeOf s home with | some c => (cacheLine (s.cluster c) pline).isNone | none => true)

/-- R317: a read at the home meets uncorrectable data. -/
def spanBad (s : State) (home : Option Nat) (pa n : Nat) : Bool :=
  (linesOf pa n).any (fun l => s.bad.contains l &&
    (match homeOf s home with | some c => (cacheLine (s.cluster c) l).isNone | none => true))

end Sys2Proof.Machine
end

