-- ==== Sys2Proof/Machine/Walk.lean ====
section
/-! DEFINITION. The tables of an address space (R318, R319) as hardware reads them without a TLB: the dealer, the queues'
home slices, the keyspace hardware and remote accesses at their destination. -/

namespace Sys2Proof.Machine

/-- A table entry of 8 bytes: the next table when it is valid (R318). -/
def tableNext (s : State) (base idx : Nat) : Option Nat :=
  let e := leNat (bgetN s.mem (base + 8 * idx) 8)
  if e % 2 = 1 then some (bitsOf e 51 12 * 4096) else none

/-- The root of an address space (R426) and the virtual function that owns it. -/
def spaceRoot (s : State) (asid : Nat) : Option (Nat × Nat) :=
  match mget s.dev.spaces asid with
  | some (r, vf) => if r.toNat % 2 = 1 then some (r.toNat - 1, vf) else none
  | none => none

/-- The 16 bytes of a leaf entry. -/
def leafBits (s : State) (pa : Nat) : BitVec 128 := BitVec.ofNat 128 (leNat (bgetN s.mem pa 16))

/-- The valid leaf of a virtual address. -/
def walkLeaf (s : State) (asid : Nat) (va : DWord) : Option Leaf :=
  (spaceRoot s asid).bind (fun r =>
    (tableNext s r.1 (bitsOf va.toNat 56 45)).bind (fun t2 =>
      (tableNext s t2 (bitsOf va.toNat 44 33)).bind (fun t3 =>
        let f := leafOf (leafBits s (t3 + 16 * bitsOf va.toNat 32 21))
        if f.valid s.dev.pkg then some f else none)))

/-- The hardware's own access, at level 2, of a master: an address this package holds, with its L home. -/
def hwXlat (s : State) (asid master : Nat) (va : DWord) (kind : AccKind) : Option (Nat × Option Nat) :=
  if va.toNat / 2 ^ 57 ≠ 0 then none
  else (walkLeaf s asid va).bind (fun f =>
    match leafCheck s ⟨asid, 2, f.lclu, 0, master, false, false⟩ kind f va with
    | .hit pa none home => some (pa, home)
    | _ => none)

/-- Splits a virtual range at line boundaries: address and length of each piece. -/
def pieces : Nat → Nat → Nat → List (Nat × Nat)
  | 0, _, _ => []
  | fuel + 1, a, n =>
    if n = 0 then []
    else
      let k := min n (128 - a % 128)
      (a, k) :: pieces fuel (a + k) (n - k)

def piecesOf (a n : Nat) : List (Nat × Nat) := pieces (n / 128 + 2) a n

/-- Reads bytes as the hardware does; none where a byte cannot be read (R317, R320). Only memory is read so. -/
def hwRead (s : State) (asid master : Nat) (va : DWord) (n : Nat) : Option (List Byte) :=
  (piecesOf va.toNat n).foldl (fun acc p =>
    acc.bind (fun bs =>
      (hwXlat s asid master (BitVec.ofNat 64 p.1) .read).bind (fun x =>
        if !isHbm x.1 || spanBad s x.2 x.1 p.2 then none
        else some (bs ++ homeBytes s x.2 x.1 p.2)))) (some [])

/-- Writes bytes as the hardware does; none where a byte cannot be written. -/
def hwWrite (s : State) (asid master : Nat) (va : DWord) (data : List Byte) : Option State :=
  (piecesOf va.toNat data.length).foldl (fun acc p =>
    acc.bind (fun s =>
      (hwXlat s asid master (BitVec.ofNat 64 p.1) .write).bind (fun x =>
        if !isHbm x.1 then none
        else some (spanWrite s x.2 x.1 0 0 0 (wholeBytes ((data.drop (p.1 - va.toNat)).take p.2)))))) (some s)

/-- The first address of a range at which the access tables deny the hardware's access (R429). -/
def hwDenial (s : State) (asid master : Nat) (kind : AccKind) (va : DWord) (n : Nat) : Option DWord :=
  ((piecesOf va.toNat n).map (fun p => BitVec.ofNat 64 p.1)).find? (fun a =>
    match walkLeaf s asid a with
    | some f => (match leafCheck s ⟨asid, 2, f.lclu, 0, master, false, false⟩ kind f a with | .fault d => d | _ => false)
    | none => false)

/-- Splits a range at the boundaries of the access tables' units of 4 KiB (R428), within one part (R318). -/
def units : Nat → Nat → Nat → List (Nat × Nat)
  | 0, _, _ => []
  | fuel + 1, a, n =>
    if n = 0 then []
    else
      let k := min n (4096 - a % 4096)
      (a, k) :: units fuel (a + k) (n - k)

/-- Splits a virtual range at the boundaries of 64 KiB parts. -/
def parts : Nat → Nat → Nat → List (Nat × Nat)
  | 0, _, _ => []
  | fuel + 1, a, n =>
    if n = 0 then []
    else
      let k := min n (65536 - a % 65536)
      (a, k) :: parts fuel (a + k) (n - k)

/-- Every unit of a range can be read and written as the hardware does, and none of it is uncorrectable (R385, R428). -/
def hwReach (s : State) (asid master : Nat) (va : DWord) (n : Nat) : Bool :=
  (units (n / 4096 + 2) va.toNat n).all (fun p =>
    match hwXlat s asid master (BitVec.ofNat 64 p.1) .atomic with
    | some x => isHbm x.1 && !s.bad.any (fun l => decide (x.1 ≤ 128 * l + 127) && decide (128 * l < x.1 + p.2))
    | none => false)

end Sys2Proof.Machine
end

