-- ==== Sys2Proof/Machine/Fabric.lean ====
section
/-! DEFINITION. Sending on the fabric (22, R407 to R414): flits, ports, streams. -/

namespace Sys2Proof.Machine

/-! ### Flits (R407) -/

/-- One step of CRC-64 with the ECMA-182 polynomial, high bit first. -/
def crcBit (c : BitVec 64) : BitVec 64 :=
  if c.getLsbD 63 then (c <<< 1) ^^^ 0x42F0E1EBA9EA3693 else c <<< 1

def crcByte (c : BitVec 64) (b : Byte) : BitVec 64 :=
  (List.range 8).foldl (fun c _ => crcBit c) (c ^^^ (b.zeroExtend 64 <<< 56))

/-- CHECK of a flit: the register starts at zero and is not complemented (PRESUMED, log entry 20). -/
def crc64 (bs : List Byte) : BitVec 64 := bs.foldl crcByte 0

/-- The bytes of a flit before its SEQ, ACK and CHECK are set. -/
structure Flit where
  chan    : Nat
  nak     : Bool
  kind    : Nat
  payload : List Byte
  deriving DecidableEq, Repr

def padTo (n : Nat) (bs : List Byte) : List Byte := (bs ++ List.replicate (n - bs.length) 0).take n

/-- A flit of 256 bytes. -/
def flitBytes (seq : Nat) (ack : Nat) (f : Flit) : List Byte :=
  let body := leBytes 2 (seq % 4096) ++ leBytes 2 (2 ^ 15 + ack % 4096) ++
    [BitVec.ofNat 8 (f.chan % 8 + if f.nak then 128 else 0), BitVec.ofNat 8 f.kind] ++
    leBytes 2 f.payload.length ++ padTo 240 f.payload
  body ++ leBytes 8 (crc64 body).toNat

/-- Fields of a flit that arrived. -/
def flitSeq (f : List Byte) : Nat := leNat (f.take 2) % 4096
def flitAck (f : List Byte) : Nat := leNat ((f.drop 2).take 2)
def flitChan (f : List Byte) : Nat := (f.getD 4 0).toNat
def flitKind (f : List Byte) : Nat := (f.getD 5 0).toNat
def flitGood (f : List Byte) : Bool :=
  f.length == 256 && leNat (f.drop 248) == (crc64 (f.take 248)).toNat

def State.setPort (s : State) (p : Nat) (x : Port) : State := { s with ports := mput s.ports p x }

/-- Sends a flit: it takes the next SEQ and is kept until it is acknowledged (R408). -/
def Port.send (x : Port) (now : DWord) (w : WaitFlit) : Port :=
  let b := flitBytes x.nextSeq x.lastSeq ⟨w.chan, false, w.kind, w.payload⟩
  { x with nextSeq := (x.nextSeq + 1) % 4096, kept := x.kept ++ [b], refs := x.refs ++ [(w.stream, w.msgno)],
           since := if x.kept = [] then now else x.since, outbox := x.outbox ++ [b] }

/-- The class whose turn it is among those with flits that wait, from the one after the last that was given room: no class waits
for another (R410; DEDUCED, log entry 20). -/
def Port.nextClass (x : Port) : Option Nat :=
  ((List.range 8).map (fun k => (x.turn + 1 + k) % 8)).find? (fun c => x.queue.any (fun w => w.chan == c))

/-- Sends flits that wait while fewer than 512 are kept (R408). -/
def Port.fill : Nat → DWord → Port → Port
  | 0, _, x => x
  | fuel + 1, now, x =>
    match x.nextClass with
    | none => x
    | some c => match x.queue.find? (fun w => w.chan == c) with
      | some w =>
        if 512 ≤ x.kept.length then x
        else Port.fill fuel now ({ x with queue := x.queue.erase w, turn := c }.send now w)
      | none => x

/-- Gives a port one more flit: it goes out when fewer than 512 are kept, else it waits (R408). -/
def Port.push (x : Port) (now : DWord) (w : WaitFlit) : Port :=
  if x.kept.length < 512 then x.send now w else { x with queue := x.queue ++ [w] }

/-- An idle flit: it repeats the SEQ of the last flit sent and takes none (R407). -/
def Port.idle (x : Port) (nak : Bool) : Port :=
  { x with outbox := x.outbox ++ [flitBytes ((x.nextSeq + 4095) % 4096) x.lastSeq ⟨0, nak, 0, []⟩] }

/-! ### Messages (R410) -/

/-- Splits a message's bytes over flits. -/
def chunks : Nat → List Byte → List (List Byte)
  | 0, _ => []
  | fuel + 1, bs => if bs.length ≤ 240 then [bs] else bs.take 240 :: chunks fuel (bs.drop 240)

def statCode : MsgStat → Nat
  | .accepted => 0 | .retry => 1 | .refused _ => 2

def statCause : MsgStat → Nat
  | .refused c => c | _ => 0

/-- The header and body of a message; OP and the body's layout are not given and stay free (DESIGN CHOICE, log entry 21). -/
def messageBytes (m : Message) (op : Nat) (body : List Byte) : List Byte :=
  leBytes 4 (m.dstPkg % 2 ^ 20 + 2 ^ 20 * (m.dstQtr % 4)) ++ leBytes 4 (m.srcPkg % 2 ^ 20 + 2 ^ 20 * (m.srcQtr % 4)) ++
  leBytes 4 m.msgno.toNat ++
  [BitVec.ofNat 8 op, BitVec.ofNat 8 (statCode m.stat), BitVec.ofNat 8 (statCause m.stat), 0] ++
  leBytes 2 body.length ++ leBytes 14 m.tag ++ body

/-- Puts a message's flits on a port, for a stream. -/
def transmit (s : State) (p k : Nat) (m : Message) : State :=
  let (op, s) := s.draw
  let (n, s) := s.draw
  let body := (Config.bodyBytes n).take 65535
  let cs := chunks 280 (messageBytes m op body)
  s.setPort p ((List.range cs.length).foldl (fun x i =>
    x.push s.clock ⟨m.cls, if i = 0 then 1 else 2, cs.getD i [], k, m.msgno⟩) (s.port p))

/-- The fabric transfer timeout in nanoseconds (R414). -/
def fabricTimeoutNs (d : Device) : Nat := 64000 * 2 ^ d.ftmo

/-- The number of a stream (R411): the one in use, or a new one. -/
def streamKey (s : State) (cls srcQ dstPkg dstQ : Nat) : Nat :=
  match s.streams.find? (fun e => e.2.cls == cls && e.2.srcQtr == srcQ && e.2.dstPkg == dstPkg && e.2.dstQtr == dstQ) with
  | some e => e.1
  | none => (mkeys s.streams).foldl max 0 + 1

def addNs (t : DWord) (ns : Nat) : DWord := BitVec.ofNat 64 (min (t.toNat + ns) (2 ^ 64 - 1))

/-- Classes whose messages the destination answers: all but results and responses (R410, R412; DEDUCED, log entry 45). -/
def answered (cls : Nat) : Bool := cls != 3 && cls != 4

/-- The time by which a message sent now must have its final response (R414), all ones for a class that has none. -/
def sendDeadline (s : State) (cls : Nat) : DWord :=
  if answered cls then addNs s.clock (fabricTimeoutNs s.dev) else BitVec.allOnes 64

/-- Messages that go out for the first time get their deadline. -/
def Stream.stamp (st : Stream) (till : DWord) : Stream :=
  { st with kept := st.kept.map (fun e => if e.2.2 = BitVec.allOnes 64 then (e.1, e.2.1, till) else e) }

/-- A stream's kept messages go out in MSGNO order over the route it now has, or wait for one (R412, R413); while it backs off,
none does, or only the one sent again after a RETRY. -/
def resendStream (s : State) (k : Nat) : State :=
  match mget s.streams k with
  | none => s
  | some st =>
    match streamPort s st with
    | none => { s with streams := mput s.streams k { st with route := none } }
    | some p =>
      let out := if st.backoff = 0 then st.kept else if st.resendAt = BitVec.allOnes 64 then st.kept.take 1 else []
      let st' := if st.backoff = 0 then st.stamp (sendDeadline s st.cls) else st
      out.foldl (fun s e => transmit s p k e.1) { s with streams := mput s.streams k { st' with route := some p } }

/-- Sends a message on its stream (R411 to R414), none without a route (CAUSE 4 of R415). It is kept until its final response, under
a TAG of its own, in classes 3 and 4 until the peer has all its flits (DEDUCED, log entry 45); a stream that waits after a RETRY sends nothing later
yet. -/
def sendMsg (s : State) (cls srcQ dstPkg dstQ : Nat) (stat : MsgStat) (tag : Nat) (body : MsgBody)
    (link : Option (Nat × Nat × Nat)) : Option State :=
  let k := streamKey s cls srcQ dstPkg dstQ
  let st := mgetD s.streams k ⟨cls, srcQ, dstPkg, dstQ, 0, [], none, 0, 0⟩
  match streamPort s st with
  | none => none
  | some p =>
    let m : Message := ⟨cls, dstPkg, dstQ, s.dev.pkg, srcQ, st.nextNo, stat,
      if answered cls then 2 ^ 32 * k + st.nextNo.toNat else tag, body⟩
    let add := fun (st : Stream) => { st with nextNo := st.nextNo + 1, kept := st.kept ++ [(m, link, BitVec.allOnes 64)] }
    if st.backoff ≠ 0 then some { s with streams := mput s.streams k (add st) }
    else if st.route.isSome ∨ st.kept = [] then
      some (transmit { s with streams := mput s.streams k { (add st).stamp (sendDeadline s cls) with route := some p } } p k m)
    else some (resendStream { s with streams := mput s.streams k (add st) } k)

end Sys2Proof.Machine
end

