-- ==== Sys2Proof/Machine/Handles.lean ====
section
/-! DEFINITION. The handle table (11 R280 to R289; 22 R418 to R422): issuing, resolving, waiting, forwarding. -/

namespace Sys2Proof.Machine

/-- A handle (R280). -/
def handleWord (pkg q idx : Nat) (gen : BitVec 26) : DWord :=
  BitVec.ofNat 64 (pkg % 2 ^ 20 * 2 ^ 44 + q % 4 * 2 ^ 42 + idx % 2 ^ 16 * 2 ^ 26 + gen.toNat)

def handlePkg (h : DWord) : Nat := h.toNat / 2 ^ 44
def handleQtr (h : DWord) : Nat := h.toNat / 2 ^ 42 % 4
def handleIdx (h : DWord) : Nat := h.toNat / 2 ^ 26 % 2 ^ 16
def handleGen (h : DWord) : BitVec 26 := h.extractLsb' 0 26

/-- The entry of a handle in this package's tables, by quarter and index. -/
def handleKey (h : DWord) : Nat := 65536 * handleQtr h + handleIdx h

def State.handle (s : State) (k : Nat) : HandleEntry := mgetD s.handles k HandleEntry.empty
def State.setHandle (s : State) (k : Nat) (e : HandleEntry) : State := { s with handles := mput s.handles k e }

/-- The handle that names an entry. -/
def entryHandle (s : State) (k : Nat) (e : HandleEntry) : DWord := handleWord s.dev.pkg (k / 65536) (k % 65536) e.gen

/-- The lowest FREE entry of a quarter (R419). -/
def freeIndex (m : Map HandleEntry) (q : Nat) : Nat → Nat → Option Nat
  | 0, _ => none
  | n + 1, k => if (mgetD m (65536 * q + k) HandleEntry.empty).state = .free then some k else freeIndex m q n (k + 1)

/-- Takes an entry for a task (R419): the handle, or none when the table is full. -/
def issueHandle (s : State) (q task tmo : Nat) (lookup : Option (DWord × Nat)) : Option (DWord × State) :=
  match freeIndex s.handles q 65536 0 with
  | none => none
  | some k =>
    let e := s.handle (65536 * q + k)
    let e' : HandleEntry := { HandleEntry.empty with
      gen := e.gen, state := .pending, tmo := tmo, task := task, lookup := lookup,
      deadline := addNs s.clock (16000 * 2 ^ tmo) }
    some (handleWord s.dev.pkg q k e.gen, s.setHandle (65536 * q + k) e')

/-- GEN of an entry that becomes FREE (R419). -/
def nextGen (g : BitVec 26) : BitVec 26 := if g = BitVec.allOnes 26 then 1 else g + 1

/-- A cause word of R287. -/
def breakWord (cause hops : Nat) : Word := BitVec.ofNat 32 (min hops 65535 * 65536 + cause % 256)

/-- The same cause one handle further. -/
def hopOn (w : Word) : Word := breakWord (w.toNat % 256) (w.toNat / 65536 + 1)

/-- Sends a message about a handle from a quarter to its home in another package (class 3 of R410). -/
def sendNotice (s : State) (q : Nat) (h : DWord) (body : MsgBody) : State :=
  (sendMsg s 3 q (handlePkg h) (handleQtr h) .accepted 0 body none).getD s

/-- The outcome of a handle as a message: its words, or its cause word. -/
def outcomeBody (h : DWord) (task : Nat) (words : List Word) (cause : Word) (of : DWord) : MsgBody :=
  if cause = 0 then .result h task words of else .broken h task (cause.toNat % 256) (cause.toNat / 65536) of

/-- What a use of a handle by a task finds (R281, R289, R419). -/
inductive Found where
  | pending
  | ready (words : List Word)
  | broken (cause : Word)
  | forwarded (h : DWord)
  | elsewhere
  deriving DecidableEq, Repr

/-- A handle names an issued entry of this package that the task may use (R281, R289, R419). -/
def namesEntry (s : State) (h : DWord) (task : Nat) : Bool :=
  let e := s.handle (handleKey h)
  h != 0 && handlePkg h == s.dev.pkg && e.state != .free && e.gen == handleGen h && e.task == task && !e.dropped

def findHandle (s : State) (h : DWord) (task : Nat) (useDropped : Bool) : Found :=
  if h = 0 then .broken (breakWord 6 0)
  else if handlePkg h ≠ s.dev.pkg then .elsewhere
  else
    let e := s.handle (handleKey h)
    if e.state = .free ∨ e.gen ≠ handleGen h ∨ e.task ≠ task ∨ (e.dropped ∧ !useDropped) then .broken (breakWord 5 0)
    else match e.state with
      | .ready => .ready e.result
      | .broken => .broken e.cause
      | .forwarded => .forwarded e.fwdh
      | _ => .pending

/-- A handle of another package takes the outcome of the handle `fwd` of this one (R421): it is told at once where that is resolved, else
when it is. -/
def followAway (s : State) (q : Nat) (h : DWord) (task : Nat) (fwd : DWord) : State :=
  let s := sendNotice s q h (.forward h task fwd)
  match findHandle s fwd task true with
  | .ready ws => sendNotice s q h (outcomeBody h task ws 0 fwd)
  | .broken c => sendNotice s q h (outcomeBody h task [] (hopOn c) fwd)
  | _ =>
    let f := s.handle (handleKey fwd)
    s.setHandle (handleKey fwd) { f with follows := f.follows ++ [(h, task)] }

/-- Sends a result (`cause` 0), a break or a delegation (`fwd`) from a quarter to a handle's home; `of` names the handle whose outcome
the handle takes, 0 for its own. -/
def tellHandle (s : State) (q : Nat) (h : DWord) (task : Nat) (words : List Word) (cause : Word) (fwd of : DWord) : State :=
  if handlePkg h = s.dev.pkg then
    { s with results := s.results ++ [⟨s.seq, h, task, words, cause, fwd, of⟩], seq := s.seq + 1 }
  else if fwd = 0 then sendNotice s q h (outcomeBody h task words cause of)
  else followAway s q h task fwd

/-- An issued instruction of a group still needs a handle: a wait on it, or an invocation to it not sent yet. -/
def Pend.needs (p : Pend) (h : DWord) : Bool :=
  !p.done && match p.body with
    | .rawait x _ => x == h
    | .rinv i => i.target == .hdl h
    | _ => false

/-- Something is addressed to an entry and has not left it. -/
def addressedTo (s : State) (h : DWord) : Bool :=
  s.invs.any (fun r => match r.place with
    | .atHandle q i => q == handleQtr h && i == handleIdx h
    | _ => false) ||
  s.groups.any (fun e => e.2.pends.any (fun p => p.needs h))

/-- A handle of this package that is not stale. -/
def namesIssued (s : State) (h : DWord) : Bool :=
  h != 0 && handlePkg h == s.dev.pkg && (s.handle (handleKey h)).gen == handleGen h

/-- R289: a dropped entry becomes FREE once it is resolved and nothing addressed to it remains; what was sent on from it keeps its order
until it has started. -/
def freeIfDone (s : State) (k : Nat) : State :=
  let e := s.handle k
  if e.dropped ∧ (e.state = .ready ∨ e.state = .broken) ∧ e.sentOn = 0 ∧ !addressedTo s (entryHandle s k e) then
    s.setHandle k { HandleEntry.empty with gen := nextGen e.gen }
  else s

/-- One invocation that was sent on from a handle has started, or is broken. -/
def begunFrom (s : State) (h : DWord) : State :=
  if namesIssued s h then
    let k := handleKey h
    freeIfDone (s.setHandle k { s.handle k with sentOn := (s.handle k).sentOn - 1 }) k
  else s

/-- The handles that an invocation was sent on from learn that it has started, or is broken: later ones to them may start (R286, R422). -/
def begunVia (s : State) (q : Nat) (i : Invocation) : State :=
  i.via.foldl (fun s h => if handlePkg h = s.dev.pkg then begunFrom s h else sendNotice s q h (.begun h)) s

/-- Breaks an invocation's own handle, from the quarter where it is. -/
def breakInv (s : State) (q : Nat) (i : Invocation) (cause : Word) : State :=
  tellHandle (begunVia s q i) q i.handle i.task [] cause 0 0

/-- An invocation leaves an entry for the handle that this one has been forwarded to. -/
def sentFrom (s : State) (r : InvRec) (h : DWord) : InvRec × State :=
  let k := handleKey h
  ({ r with inv := { r.inv with via := h :: r.inv.via } }, s.setHandle k { s.handle k with sentOn := (s.handle k).sentOn + 1 })

/-- Sends an invocation from a quarter to one of another package (class 2). -/
def sendInvAway (s : State) (q : Nat) (i : Invocation) (pkg dst : Nat) : State :=
  match sendMsg s 2 q pkg dst .accepted 0 (.invoke i) none with
  | some s => s
  | none => breakInv s q i (breakWord 3 0)

/-- An invocation in a quarter reaches the handle it is addressed to (R287, R422): it waits there, runs, breaks, or is sent on. -/
def reachHandle : Nat → State → Nat → InvRec → DWord → State
  | 0, s, q, r, _ => breakInv s q r.inv (breakWord 3 0)
  | fuel + 1, s, q, r, h =>
    match findHandle s h r.inv.task true with
    | .elsewhere => sendInvAway s q { r.inv with target := .hdl h } (handlePkg h) (handleQtr h)
    | .pending =>
      let k := handleKey h
      let e := s.handle k
      { (s.setHandle k { e with waiting := min 65535 (e.waiting + 1) }) with
        invs := s.invs ++ [{ r with inv := { r.inv with target := .hdl h }, place := .atHandle (handleQtr h) (handleIdx h) }] }
    | .ready ws =>
      { s with invs := s.invs ++ [{ r with inv := { r.inv with input := ws }, place := .ready (handleQtr h) }] }
    | .broken c =>
      let s := breakInv s (if handlePkg h = s.dev.pkg then handleQtr h else q) r.inv (hopOn c)
      if namesIssued s h then freeIfDone s (handleKey h) else s
    | .forwarded h' =>
      let (r, s) := sentFrom s r h
      reachHandle fuel s (handleQtr h) r h'

/-- The invocations held at an entry, in order. -/
def heldAt (s : State) (k : Nat) : List InvRec :=
  s.invs.filter (fun r => match r.place with | .atHandle q i => 65536 * q + i == k | _ => false)

def notHeldAt (k : Nat) (r : InvRec) : Bool :=
  match r.place with | .atHandle q i => 65536 * q + i != k | _ => true

/-- A local entry that has been forwarded to a handle. -/
def followers (s : State) (h : DWord) : List (Nat × HandleEntry) :=
  s.handles.filter (fun e => e.2.state == .forwarded && e.2.fwdh == h)

/-- An entry leaves PENDING or FORWARDED (R281, R421, R422): the invocations held there go on, and the entries that were
forwarded to it, here or in other packages, take its outcome. -/
def settle (s : State) (k : Nat) (e : HandleEntry) : State :=
  let h := entryHandle s k e
  let held := heldAt s k
  let q := k / 65536
  let left : List (DWord × Nat) := if e.state = .forwarded then e.follows else []
  let s := { (s.setHandle k { e with waiting := 0, follows := left }) with invs := s.invs.filter (notHeldAt k) }
  let s := held.foldl (fun s r =>
    match e.state with
    | .ready => { s with invs := s.invs ++ [{ r with inv := { r.inv with input := e.result }, place := .ready q }] }
    | .broken => breakInv s q r.inv (hopOn e.cause)
    | .forwarded =>
      let (r, s) := sentFrom s r h
      reachHandle 66 s q r e.fwdh
    | _ => s) s
  let s := ((followers s h).map (fun f => (entryHandle s f.1 f.2, f.2.task)) ++ e.follows).foldl (fun s f =>
    match e.state with
    | .ready => tellHandle s q f.1 f.2 e.result 0 0 h
    | .broken => tellHandle s q f.1 f.2 [] (hopOn e.cause) 0 h
    | _ => s) s
  freeIfDone s k

/-- A delegation lengthens the chain that leads to a handle, and to those it is forwarded to; a chain of 65 breaks there (R421). -/
def deepen : Nat → State → Nat → DWord → Nat → Nat → State
  | 0, s, _, _, _, _ => s
  | fuel + 1, s, q, h, task, depth =>
    if handlePkg h ≠ s.dev.pkg then sendNotice s q h (.chain h task depth)
    else
      let k := handleKey h
      let e := s.handle k
      if e.gen ≠ handleGen h ∨ e.task ≠ task ∨ depth ≤ e.depth then s
      else
        let s := s.setHandle k { e with depth := depth }
        if e.state = .forwarded then
          if 64 ≤ depth then settle s k { e with depth := depth, state := .broken, cause := breakWord 3 0 }
          else deepen fuel s (handleQtr h) e.fwdh task (depth + 1)
        else s

/-- An outcome reaches a handle's home (R281, R420, R421): it counts only while the entry is PENDING, or FORWARDED for
the outcome it follows. `depth` counts the delegations that lead to an entry: the 65th breaks (R421). -/
def arriveResult (s : State) (m : ResultMsg) : State :=
  let k := handleKey m.h
  let e := s.handle k
  if e.gen ≠ handleGen m.h ∨ e.task ≠ m.task ∨
      !((e.state = .pending ∧ m.of = 0) ∨ (e.state = .forwarded ∧ m.of = e.fwdh ∧ m.of ≠ 0)) then s
  else if m.fwd ≠ 0 then
    if 64 ≤ e.depth then settle s k { e with state := .broken, cause := breakWord 3 0 }
    else
      let e' := { e with state := .forwarded, fwdh := m.fwd }
      let s := deepen 65 s (k / 65536) m.fwd m.task (e.depth + 1)
      match findHandle s m.fwd m.task true with
      | .ready ws => settle s k { e' with state := .ready, result := ws }
      | .broken c => settle s k { e' with state := .broken, cause := hopOn c }
      | _ => settle s k e'
  else if m.cause = 0 then settle s k { e with state := .ready, result := m.words }
  else settle s k { e with state := .broken, cause := m.cause }

/-- Instructions of a group that go without completing no longer need their handles (R289). -/
def letHandlesGo (s : State) (ps : List Pend) : State :=
  (ps.filterMap (fun p => match p.body with
    | .rawait h _ => some h
    | .rinv i => match i.target with | .hdl h => some h | _ => none
    | _ => none)).foldl (fun s h => if namesIssued s h then freeIfDone s (handleKey h) else s) s

/-- Breaks every pending handle of a task with a cause (R436, R439). -/
def breakTask (s : State) (task cause : Nat) : State :=
  s.handles.foldl (fun s e =>
    if e.2.task = task ∧ e.2.state = .pending then settle s e.1 { e.2 with state := .broken, cause := breakWord cause 0 }
    else s) s

end Sys2Proof.Machine
end

