-- ==== Sys2Proof/Machine/Keys.lean ====
section
/-! DEFINITION. Keys (11, R262 to R268): their layout, and the key instructions that touch no table. -/

namespace Sys2Proof.Machine

/-! ### The layout of keys (R262 to R264) -/

def keyDim (k : Nat) : Nat := k / 2 ^ 62 % 4
def keyLvl (k : Nat) : Nat := k % 64

/-- The maximum level of a dimension. -/
def maxLvl : Nat → Nat
  | 1 => 56 | 2 => 28 | 3 => 18 | _ => 0

/-- R263: DIM, level and no bit below the path. -/
def keyOk (k : Nat) : Bool :=
  let d := keyDim k
  let l := keyLvl k
  decide (k < 2 ^ 64) && d != 0 && decide (l ≤ maxLvl d) && k % 2 ^ (62 - d * l) / 64 == 0

/-- The child index at level `j`. -/
def keyChild (k j : Nat) : Nat :=
  let d := keyDim k
  k / 2 ^ (62 - d * j) % 2 ^ d

/-- A key of given dimension and level from the child index of each level. -/
def keyOf (d l : Nat) (child : Nat → Nat) : Nat :=
  (List.range l).foldl (fun k j => k + child (j + 1) * 2 ^ (62 - d * (j + 1))) (d * 2 ^ 62 + l)

/-- KENC of coordinates (R267): 0 for what is no cell. -/
def keyEnc (d l x y z : Nat) : Nat :=
  if d = 0 ∨ maxLvl d < l ∨ 2 ^ l ≤ x ∨ (2 ≤ d ∧ 2 ^ l ≤ y) ∨ (3 ≤ d ∧ 2 ^ l ≤ z) then 0
  else
    let bit := fun (n j : Nat) => n / 2 ^ (l - j) % 2
    keyOf d l (fun j => bit x j + (if 2 ≤ d then 2 * bit y j else 0) + (if 3 ≤ d then 4 * bit z j else 0))

/-- The coordinate of an axis (0 x, 1 y, 2 z) of a well-formed key. -/
def keyCoord (k axis : Nat) : Nat :=
  (List.range (keyLvl k)).foldl (fun n j => 2 * n + keyChild k (j + 1) / 2 ^ axis % 2) 0

def keyParent (k : Nat) : Nat :=
  if !keyOk k || keyLvl k == 0 then 0
  else keyOf (keyDim k) (keyLvl k - 1) (keyChild k)

def keyChildOf (k c : Nat) : Nat :=
  if !keyOk k || keyLvl k == maxLvl (keyDim k) || decide (2 ^ keyDim k ≤ c) then 0
  else keyOf (keyDim k) (keyLvl k + 1) (fun j => if j = keyLvl k + 1 then c else keyChild k j)

/-- KNBR (R268): the cell one step along an axis. -/
def keyNbr (k axis : Nat) (plus : Bool) : Nat :=
  if !keyOk k || decide (keyDim k ≤ axis) then 0
  else
    let at' := fun a => keyCoord k a
    let c := at' axis
    if (!plus && c == 0) || (plus && c + 1 == 2 ^ keyLvl k) then 0
    else
      let new := if plus then c + 1 else c - 1
      let pick := fun a => if a = axis then new else if a < keyDim k then at' a else 0
      keyEnc (keyDim k) (keyLvl k) (pick 0) (pick 1) (pick 2)

/-- K_end of R264. -/
def keyEnd (k : Nat) : Nat :=
  let sh := 62 - keyDim k * keyLvl k
  k / 2 ^ sh * 2 ^ sh + (2 ^ sh - 1)

/-- A well-formed key in the subtree of another (R264). -/
def inSubtree (k x : Nat) : Bool := keyOk x && decide (k ≤ x) && decide (x ≤ keyEnd k)

/-! ### Instructions (R265, R267, R268) -/

/-- Writes a key as low and high word. -/
def keyWord (k j : Nat) : Word := BitVec.ofNat 32 (k / 2 ^ (32 * j))

/-- An instruction that makes a key in each active lane. -/
def keyOp (sh : Option Shape) (d : F7) (f : Group → Nat → Nat) (s : State) : Host.Outcome State Fault Refusal :=
  issue sh s (fun s => writeVs s d.toNat 2 (fun j i => keyWord (f s.G i) j))

def Group.keyAt (g : Group) (a : F7) (i : Nat) : Nat := (g.rdV2 a.toNat i).toNat

/-- KENC's operand run (R267). -/
def kencLane (g : Group) (a i : Nat) : Nat :=
  let w := g.rdV (a + 3) i
  let d := (w.extractLsb' 8 2).toNat
  let l := (w.extractLsb' 0 6).toNat
  let x := if d = 1 then (g.rdV2 a i).toNat else (g.rdV a i).toNat
  keyEnc d l x (g.rdV (a + 1) i).toNat (g.rdV (a + 2) i).toNat

def execKenc (d a : F7) (s : State) :=
  keyOp (Instr.shape (.kenc d a)) d (fun g i => kencLane g a.toNat i) s

/-- KDEC's result words (R268). -/
def kdecWord (k j : Nat) : Word :=
  if !keyOk k then 0
  else if j = 3 then BitVec.ofNat 32 (keyLvl k + 256 * keyDim k)
  else if keyDim k = 1 then (if j < 2 then keyWord (keyCoord k 0) j else 0)
  else if j < keyDim k then BitVec.ofNat 32 (keyCoord k j) else 0

def execKdec (d a : F7) (s : State) :=
  issue (Instr.shape (.kdec d a)) s (fun s => writeVs s d.toNat 4 (fun j i => kdecWord (s.G.keyAt a i) j))
def execKlevel (d a : F7) (s : State) :=
  issue (Instr.shape (.klevel d a)) s (fun s => writeV s d.toNat (fun i =>
    let k := s.G.keyAt a i
    if keyOk k then BitVec.ofNat 32 (keyLvl k) else 0xFFFFFFFF))
def execKparent (d a : F7) (s : State) :=
  keyOp (Instr.shape (.kparent d a)) d (fun g i => keyParent (g.keyAt a i)) s
def execKchild (d a b : F7) (s : State) :=
  keyOp (Instr.shape (.kchild d a b)) d (fun g i => keyChildOf (g.keyAt a i) (g.rdV b.toNat i).toNat) s
def execKnbrXm (d a : F7) (s : State) := keyOp (Instr.shape (.knbrXm d a)) d (fun g i => keyNbr (g.keyAt a i) 0 false) s
def execKnbrXp (d a : F7) (s : State) := keyOp (Instr.shape (.knbrXp d a)) d (fun g i => keyNbr (g.keyAt a i) 0 true) s
def execKnbrYm (d a : F7) (s : State) := keyOp (Instr.shape (.knbrYm d a)) d (fun g i => keyNbr (g.keyAt a i) 1 false) s
def execKnbrYp (d a : F7) (s : State) := keyOp (Instr.shape (.knbrYp d a)) d (fun g i => keyNbr (g.keyAt a i) 1 true) s
def execKnbrZm (d a : F7) (s : State) := keyOp (Instr.shape (.knbrZm d a)) d (fun g i => keyNbr (g.keyAt a i) 2 false) s
def execKnbrZp (d a : F7) (s : State) := keyOp (Instr.shape (.knbrZp d a)) d (fun g i => keyNbr (g.keyAt a i) 2 true) s

end Sys2Proof.Machine
end

