-- ==== Sys2Proof/Machine/Tasks.lean ====
section
/-! DEFINITION. Event logs (R432), timeline counters (R365 to R367), launch records and their checks (R359 to R364,
R385, R386), the end of a task and its successor (R368), killing a task (R369). -/

namespace Sys2Proof.Machine

/-! ### Event logs -/

/-- Posts an event to a master's log (R432). -/
def State.post (s : State) (master code source : Nat) (detail : Word) (addr : DWord) : State :=
  let l := mgetD s.dev.logs master EventLog.empty
  let e : Event := ⟨s.clock, code, source, detail, addr⟩
  let l' : EventLog :=
    ⟨l.head + 1, if l.head.toNat < 120 then l.overrun else l.overrun + 1, mput l.slots (l.head.toNat % 120) e⟩
  { s with dev := { s.dev with logs := mput s.dev.logs master l' } }

/-- Event 5, a denial (R429): the owner posts nothing for its own. -/
def State.deny (s : State) (master : Nat) (detail : Word) (addr : DWord) : State :=
  if master = s.dev.owner then s else s.post master 5 master detail addr

/-! ### Launch records (R361) -/

def roleAt (bs : List Byte) (off : Nat) : RoleEnt :=
  let w := wordAt bs (off + 4)
  { entry := wordAt bs off, groups := (w.extractLsb' 0 5).toNat, widthC := (w.extractLsb' 8 2).toNat,
    regs := (w.extractLsb' 16 7).toNat,
    resBits := w.extractLsb' 5 3 != 0 || w.extractLsb' 10 6 != 0 || w.extractLsb' 23 9 != 0 }

def entryAt (bs : List Byte) (off : Nat) : CtrEnt := ⟨wordAt bs off, wordAt bs (off + 4), dwordAt bs (off + 8)⟩

def parseRecord (bs : List Byte) : Record :=
  { ctrl := wordAt bs 0, nteams := wordAt bs 4, text := dwordAt bs 8, thand := wordAt bs 0x10, pool := wordAt bs 0x14,
    accum := wordAt bs 0x18, qcount := wordAt bs 0x1C, qtab := dwordAt bs 0x20, kspace := dwordAt bs 0x28,
    roles := [roleAt bs 0x30, roleAt bs 0x38, roleAt bs 0x40], succ := dwordAt bs 0x48,
    args := (List.range 8).map (fun k => wordAt bs (0x50 + 4 * k)),
    waits := (List.range 4).map (fun k => entryAt bs (0x70 + 16 * k)),
    sigs := (List.range 4).map (fun k => entryAt bs (0xB0 + 16 * k)),
    result := dwordAt bs 0xF0, seq := wordAt bs 0xFC }

def Record.level (r : Record) : Nat := (r.ctrl.extractLsb' 0 2).toNat
def Record.prio (r : Record) : Nat := (r.ctrl.extractLsb' 4 3).toNat
def Record.opp (r : Record) : Nat := (r.ctrl.extractLsb' 8 3).toNat
def Record.byReach (r : Record) : Bool := r.ctrl.getLsbD 12
def Record.paired (r : Record) : Bool := r.ctrl.getLsbD 13
def Record.keys (r : Record) : Bool := r.ctrl.getLsbD 14
def Record.nsucc (r : Record) : Nat := (r.ctrl.extractLsb' 16 3).toNat
def Record.asid (r : Record) : Nat := (r.accum.extractLsb' 16 16).toNat
def Record.share (r : Record) : Nat := (r.accum.extractLsb' 0 5).toNat
def Record.cacheN (r : Record) : Nat := (r.pool.extractLsb' 0 7).toNat
def Record.scratchN (r : Record) : Nat := (r.pool.extractLsb' 8 7).toNat
def Record.fifoN (r : Record) : Nat := (r.pool.extractLsb' 16 7).toNat

def CtrEnt.used (e : CtrEnt) : Bool := e.w0.getLsbD 31
def CtrEnt.op (e : CtrEnt) : Nat := (e.w0.extractLsb' 28 2).toNat
def CtrEnt.counter (e : CtrEnt) : Nat := (e.w0.extractLsb' 0 12).toNat

/-- The groups of a team in role order (R372): role and number within the team. -/
def Record.members (r : Record) : List (RoleEnt × Nat) :=
  let rs := r.roles.flatMap (fun e => List.replicate e.groups e)
  (List.range rs.length).filterMap (fun k => (rs[k]?).map (fun e => (e, k)))

def RoleEnt.width (e : RoleEnt) : Nat := (widthOfCode e.widthC).getD 32

/-- The cores of a team: group `k` on core 1 of a pair when it is odd (R372). -/
def Record.seatOf (r : Record) (k : Nat) : Nat := if r.paired then k % 2 else 0

/-- R23 on an empty core or pair: at most 48 contexts and 512 KiB of registers on each core. -/
def Record.fits (r : Record) : Bool :=
  [0, 1].all (fun c =>
    let ms := r.members.filter (fun m => r.seatOf m.2 == c)
    decide (ms.length ≤ 48) &&
    decide (ms.foldl (fun n m => n + footprint m.1.width m.1.regs) 0 ≤ 512 * 1024))

/-! ### The keyspace descriptor and the cut list (R385, R386) -/

/-- An owner word (R269). -/
def ownerPkg (w : Word) : Nat := w.toNat / 4096
def ownerQtr (w : Word) : Nat := w.toNat / 1024 % 4
def ownerPair (w : Word) : Nat := w.toNat % 128

/-- The leader core of an owner's pair, numbered in the package. -/
def ownerCore (w : Word) : Nat := 192 * ownerQtr w + 2 * ownerPair w

def ownerOk (w : Word) : Bool := w.toNat / 128 % 8 == 0 && decide (ownerPair w ≤ 95)

/-- A cut-list entry: FIRST, OWNER, FLAGS. -/
structure Cut where
  first : DWord
  owner : Word
  empty : Bool
  clean : Bool
  deriving DecidableEq, Repr

def cutAt (bs : List Byte) (j : Nat) : Cut :=
  let f := wordAt bs (16 * j + 12)
  ⟨dwordAt bs (16 * j), wordAt bs (16 * j + 8), f.getLsbD 0, f.toNat < 2⟩

/-- The descriptor, when its page can be read and written and it is within its limits (R385). -/
def readKDesc (s : State) (asid master : Nat) (a : DWord) : Option KDesc :=
  (if hwReach s asid master a 64 then hwRead s asid master a 64 else none).bind (fun bs =>
    let d : KDesc :=
      { dim := fieldAt bs 0 4, nown := fieldAt bs 4 4, cuts := dwordAt bs 8, index := dwordAt bs 0x10,
        icap := fieldAt bs 0x18 4, psize := fieldAt bs 0x1C 4, payload := dwordAt bs 0x20 }
    if decide (1 ≤ d.dim) && decide (d.dim ≤ 3) && decide (1 ≤ d.nown) && decide (d.nown ≤ 2 ^ 22) &&
       d.cuts.toNat % 64 == 0 && d.index.toNat % 64 == 0 && decide (64 ≤ d.icap) && decide (d.icap ≤ 2 ^ 20) &&
       d.icap == 2 ^ d.icap.log2 && d.psize % 64 == 0 && decide (64 ≤ d.psize) && decide (d.psize ≤ 2 ^ 20) &&
       d.payload.toNat % 64 == 0 && fieldAt bs 0x28 24 == 0
    then some d else none)

/-- The address of an entry buffer of the cut list (R386). -/
def cutBuffer (d : KDesc) (ver : DWord) : DWord :=
  d.cuts + BitVec.ofNat 64 (64 + 16 * d.nown * (ver.toNat % 2))

/-- The current version of this package's cut list. -/
def cutVersion (s : State) (asid master : Nat) (d : KDesc) : Option DWord :=
  (hwRead s asid master d.cuts 64).bind (fun bs =>
    if fieldAt bs 8 4 = d.nown ∧ fieldAt bs 12 52 = 0 then some (dwordAt bs 0) else none)

/-- The entries of a version. -/
def cutList (s : State) (asid master : Nat) (d : KDesc) (ver : DWord) : Option (List Cut) :=
  (hwRead s asid master (cutBuffer d ver) (16 * d.nown)).map (fun bs => (List.range d.nown).map (cutAt bs))

/-- FIRST rises strictly among the non-empty entries. -/
def cutsRise : List Cut → Bool
  | a :: b :: t => decide (a.first.toNat < b.first.toNat) && cutsRise (b :: t)
  | _ => true

/-- The layout rules of R386. -/
def cutsOk (d : KDesc) (cs : List Cut) : Bool :=
  let live := cs.filter (fun c => !c.empty)
  !live.isEmpty && cutsRise live && live.all (fun c => keyOk c.first.toNat && keyDim c.first.toNat == d.dim) &&
  cs.all (fun c => c.clean && ownerOk c.owner) && (cs.map Cut.owner).eraseDups.length == cs.length

/-- Bytes of an owner's cell index (R389). -/
def indexBytes (d : KDesc) : Nat := 64 + 32 * d.icap
def indexAddr (d : KDesc) (j : Nat) : DWord := d.index + BitVec.ofNat 64 (j * indexBytes d)

/-- Owner `j`'s cell index holds a key as a leaf: LIVE or LEAVING (R389). -/
def indexLeaf (s : State) (asid master : Nat) (d : KDesc) (j : Nat) (key : DWord) : Bool :=
  match hwRead s asid master (indexAddr d j) 4 with
  | some h => (List.range (min (leNat h) d.icap)).any (fun k =>
      match hwRead s asid master (indexAddr d j + BitVec.ofNat 64 (64 + 32 * k)) 32 with
      | some bs => dwordAt bs 0 == key && decide (fieldAt bs 20 1 % 4 < 2)
      | none => false)
  | none => false

/-- The partition of a core (R425): two clusters of eight cores. -/
def partitionOf (core : Nat) : Nat := core / 16

/-- The reaches of a package's owners, with the team index each has (R371): index and entry number, FIRST, owner. -/
def reachTeams (s : State) (cs : List Cut) : List (Nat × Nat × DWord × Word) :=
  let live := (List.range cs.length).filterMap (fun j => match cs[j]? with
    | some c => if c.empty then none else some (j, c.first, c.owner)
    | none => none)
  ((List.range live.length).filterMap (fun k => (live[k]?).map (fun e => (k, e)))).filter
    (fun e => ownerPkg e.2.2.2 == s.dev.pkg)

/-! ### Local cut tables and cut caches (R388) -/

def State.cutTables (s : State) (q : Nat) : CutTables := mgetD s.cuts q CutTables.empty
def State.setCutTables (s : State) (q : Nat) (t : CutTables) : State := { s with cuts := mput s.cuts q t }

/-- Entries of the local cut tables in use in a quarter. -/
def localReaches (s : State) (q : Nat) : Nat := (s.cutTables q).loc.length

/-- The entries of some reaches in ascending FIRST: the first one's FIRST and the last one's NEXT are 0. -/
def reachEnts (task : Nat) (cs : List Cut) : List CutEnt :=
  let live := cs.filter (fun c => !c.empty)
  (List.range live.length).filterMap (fun k => (live[k]?).map (fun c =>
    ⟨match live[k + 1]? with | some n => n.first | none => 0, if k = 0 then 0 else c.first, task, c.owner⟩))

/-- A quarter's local entries for a task are those of a cut list, and its cut cache holds none of the task. -/
def loadCuts (s : State) (task q : Nat) (cs : List Cut) : State :=
  let t := s.cutTables q
  s.setCutTables q
    { loc := t.loc.filter (fun e => e.task != task) ++
        (reachEnts task cs).filter (fun e => ownerPkg e.owner == s.dev.pkg && ownerQtr e.owner == q),
      cache := t.cache.filter (fun e => e.task != task) }

/-- A task leaves its dealer, and its entries the tables of every quarter. -/
def State.dropTask (s : State) (task : Nat) : State :=
  { s with tasks := mdel s.tasks task,
           cuts := mmap (fun _ (t : CutTables) => ⟨t.loc.filter (fun e => e.task != task), t.cache.filter (fun e => e.task != task)⟩) s.cuts }

/-- R371, R385, R386, R388: the keyspace of a record, or none where the dealer refuses it. -/
def checkKeyspace (s : State) (mbox : Nat) (r : Record) : Option (KDesc × List Cut × DWord) :=
  let m := mbox / 8 + 1
  (readKDesc s r.asid m r.kspace).bind (fun d =>
    (cutVersion s r.asid m d).bind (fun v =>
      (cutList s r.asid m d v).bind (fun cs =>
        let here := (List.range cs.length).filter (fun j => match cs[j]? with
          | some c => ownerPkg c.owner == s.dev.pkg
          | none => false)
        if cutsOk d cs && hwReach s r.asid m d.cuts (64 + 32 * d.nown) &&
           here.all (fun j => hwReach s r.asid m (indexAddr d j) (indexBytes d)) &&
           here.all (fun j => match cs[j]? with
             | some c => c.empty || indexLeaf s r.asid m d j c.first
             | none => true) &&
           (!r.byReach || (reachTeams s cs).all (fun e =>
              (s.mailbox mbox).parts.getLsbD (partitionOf (ownerCore e.2.2.2)))) &&
           [0, 1, 2, 3].all (fun q =>
              decide (localReaches s q + ((reachTeams s cs).filter (fun e => ownerQtr e.2.2.2 == q)).length ≤ 4096))
        then some (d, cs, v) else none)))

/-! ### The checks of R362 -/

/-- A counter entry in use that breaks R362. -/
def badEntry (b : Mailbox) (e : CtrEnt) (signal : Bool) : Bool :=
  e.used && ((if signal then e.op == 0 else e.op != 0) || e.w0.getLsbD 30 || e.w0.extractLsb' 12 16 != 0 || e.w1 != 0 ||
    decide (e.counter < b.cbase) || decide (b.cbase + b.ccount ≤ e.counter))

/-- A role entry that breaks R362. -/
def badRole (e : RoleEnt) : Bool :=
  e.resBits || (e.groups != 0 && (e.widthC == 3 || !budgetOk e.regs || e.entry.toNat % 4 != 0))

/-- The running sum of GROUPS passes 16 at role `k`. -/
def passesAt (rs : List RoleEnt) (k : Nat) : Bool :=
  let sum := fun n => (rs.take n).foldl (fun a e => a + e.groups) 0
  decide (sum k ≤ 16) && decide (16 < sum (k + 1))

/-- Each check of R362 that fails, by its DETAIL. -/
def recordFaults (s : State) (mbox : Nat) (r : Record) : List Nat :=
  let b := s.mailbox mbox
  let bad := fun (off : Nat) (c : Bool) => if c then [off] else []
  bad 0 (r.ctrl.extractLsb' 19 13 != 0 || r.ctrl.getLsbD 15 || r.ctrl.getLsbD 11 || r.ctrl.getLsbD 7 ||
      r.ctrl.extractLsb' 2 2 != 0 || r.level % 2 == 1 || (r.level == 2 && !b.owner) || (r.byReach && !r.keys) ||
      decide (4 < r.nsucc)) ++
  bad 4 (!r.byReach && (r.nteams == 0 || decide (2 ^ 20 < r.nteams.toNat))) ++
  bad 8 (r.text.toNat % 2 ^ 21 != 0) ++
  bad 0x10 (r.thand.toNat % 4 != 0) ++
  bad 0x14 (r.pool.getLsbD 7 || r.pool.getLsbD 15 || r.pool.extractLsb' 23 9 != 0 ||
      decide (64 < r.cacheN + r.scratchN + r.fifoN)) ++
  bad 0x18 (r.accum.extractLsb' 5 11 != 0 || decide (16 < r.share)) ++
  bad 0x1C (decide (65536 < r.qcount.toNat)) ++
  bad 0x20 (r.qcount != 0 && r.qtab.toNat % 64 != 0) ++
  bad 0x28 (r.keys && (checkKeyspace s mbox r).isNone) ++
  bad 0x30 (r.roles.all (fun e => e.groups == 0) || !r.fits) ++
  (List.range 3).flatMap (fun k => bad (0x30 + 8 * k)
    (passesAt r.roles k || (match r.roles[k]? with | some e => badRole e | none => false))) ++
  bad 0x48 (r.nsucc != 0 && r.succ.toNat % 256 != 0) ++
  (List.range 4).flatMap (fun k => bad (0x70 + 16 * k) (match r.waits[k]? with | some e => badEntry b e false | none => false)) ++
  (List.range 4).flatMap (fun k => bad (0xB0 + 16 * k) (match r.sigs[k]? with | some e => badEntry b e true | none => false)) ++
  bad 0xF0 (r.result.toNat % 4 != 0)

/-- DETAIL: the lowest offset of a failing check. -/
def recordFault (s : State) (mbox : Nat) (r : Record) : Option Nat :=
  match recordFaults s mbox r with
  | [] => none
  | x :: t => some (t.foldl min x)

/-! ### STATUS, readiness, acceptance (R360 to R364) -/

/-- Event 5 where the hardware's access for a task is denied (R429). -/
def hwDeny (s : State) (asid master : Nat) (kind : AccKind) (va : DWord) (n : Nat) : State :=
  match hwDenial s asid master kind va n with
  | some a => s.deny master (BitVec.ofNat 32 kind.code) a
  | none => s

/-- The first address that an access table denies the dealer as it checks a record's keyspace (R385, R386, R389, R429). -/
def keyspaceDenial (s : State) (mbox : Nat) (r : Record) : Option DWord :=
  let m := mbox / 8 + 1
  let at_ := fun (va : DWord) (n : Nat) => (units (n / 4096 + 2) va.toNat n).findSome? (fun p =>
    hwDenial s r.asid m .atomic (BitVec.ofNat 64 p.1) 1)
  (at_ r.kspace 64).orElse (fun _ => (readKDesc s r.asid m r.kspace).bind (fun d =>
    (at_ d.cuts (64 + 32 * d.nown)).orElse (fun _ => (cutVersion s r.asid m d).bind (fun v =>
      (cutList s r.asid m d v).bind (fun cs => ((List.range cs.length).filter (fun j => match cs[j]? with
        | some c => ownerPkg c.owner == s.dev.pkg
        | none => false)).findSome? (fun j => at_ (indexAddr d j) (indexBytes d)))))))

/-- Event 5 where a check of a record's keyspace was denied. -/
def denyKeyspace (s : State) (mbox : Nat) (r : Record) : State :=
  match (if r.keys then keyspaceDenial s mbox r else none) with
  | some a => s.deny (mbox / 8 + 1) (BitVec.ofNat 32 AccKind.atomic.code) a
  | none => s

/-- Writes STATUS where the record stands: in its slot, or in its copy in the successor array. -/
def writeStatus (s : State) (mbox slot : Nat) (succ : Option (DWord × Nat)) (w : Word) : State :=
  match succ with
  | none =>
    let b := s.mailbox mbox
    s.setMailbox mbox { b with slots := bputN b.slots (256 * slot + 0xF8) (leBytes 4 w.toNat) }
  | some (a, asid) =>
    match hwWrite s asid (mbox / 8 + 1) (a + 0xF8) (leBytes 4 w.toNat) with
    | some s' => s'
    | none => hwDeny s asid (mbox / 8 + 1) .write (a + 0xF8) 4

/-- A STATUS word (R363). -/
def statusWord (outcome chosen detail : Nat) : Word := BitVec.ofNat 32 (outcome + 16 * chosen + 256 * detail)

/-- R364: every used WAIT is met. -/
def waitsMet (s : State) (r : Record) : Bool :=
  r.waits.all (fun e => !e.used || decide (e.value.toNat ≤ (mgetD s.counters e.counter ⟨0, 0, 0⟩).value.toNat))

/-- Records whose waits are met become ready (R364).
Several that one counter operation makes ready become ready in the order they were accepted (log entry 51, DESIGN CHOICE). -/
def refreshReady (s : State) : State :=
  (mkeys s.tasks).foldl (fun s k =>
    match s.task? k with
    | some t => if t.stage = .waiting ∧ waitsMet s t.record then
        (s.setTask k { t with stage := .ready, readyAt := s.seq }).tick1 else s
    | none => s) s

/-- The lowest quarter that holds a partition of PARTS: its dealer watches the mailbox (R360). -/
def dealerOf (b : Mailbox) : Nat :=
  (([0, 1, 2, 3].find? (fun q => (List.range 12).any (fun k => b.parts.getLsbD (12 * q + k))))).getD 0

/-- The teams of a record still to place (R371).
The cut list that stands when the record is accepted gives the teams, their owners and their s10:s11, also for teams placed after a later rebalance (log entry 27, DESIGN CHOICE). -/
def teamPlan (s : State) (mbox : Nat) (r : Record) : List (Option (Nat × Nat × DWord)) :=
  if r.byReach then
    match checkKeyspace s mbox r with
    | some (_, cs, _) => (reachTeams s cs).map (fun e => some (e.1, ownerCore e.2.2.2, e.2.2.1))
    | none => []
  else List.replicate r.nteams.toNat none

/-- The dealer takes a record (R360, R362, R368 step 5): refuses it, or accepts it. -/
def acceptRecord (s : State) (mbox slot : Nat) (succ : Option (DWord × Nat)) (r : Record) : State :=
  match recordFault s mbox r with
  | some detail => writeStatus (denyKeyspace s mbox r) mbox slot succ (statusWord 2 15 detail)
  | none =>
    let ks := if r.keys then checkKeyspace s mbox r else none
    let t : Task :=
      { record := r, mailbox := mbox, slot := slot, succOf := succ, dealer := dealerOf (s.mailbox mbox),
        stage := .waiting, readyAt := 0, plan := teamPlan s mbox r, placed := 0, thand := r.thand, text := [],
        killed := false, anyKill := false, flr := false, kdesc := ks.map (fun x => x.1),
        versions := match ks with | some x => [0, 1, 2, 3].map (fun q => (q, x.2.2)) | none => [],
        rebal := none, phaseNo := 0, begun := false, wrote := [], notes := [], early := [], racy := false, inPhase := false, endNo := 0, spill := false, conflicts := 0,
        lines := [], spilled := 0, spillArea := [] }
    let s1 := match ks with
      | some x => [0, 1, 2, 3].foldl (fun s1 q => loadCuts s1 s.seq q x.2.1) s
      | none => s
    refreshReady ((s1.setTask s.seq t).tick1)

/-! ### Timeline counters (R365 to R367) -/

def State.counter (s : State) (c : Nat) : Counter := mgetD s.counters c ⟨0, 0, 0⟩

/-- An error of a counter: ERR and an event of code 1 or 2. -/
def counterError (s : State) (c : Nat) (k : Counter) (code log : Nat) : State :=
  { s with counters := mput s.counters c { k with errs := min 65535 (k.errs + 1), last := code } }.post log code log
    (BitVec.ofNat 32 c) 0

/-- SET: refused below the current value (R366). -/
def counterSetOp (s : State) (c : Nat) (v : DWord) (log : Nat) : State :=
  let k := s.counter c
  if v.toNat < k.value.toNat then counterError s c k 1 log
  else refreshReady { s with counters := mput s.counters c { k with value := v } }

/-- ADD: saturates with an error (R366). -/
def counterAddOp (s : State) (c : Nat) (v : DWord) (log : Nat) : State :=
  let k := s.counter c
  if 2 ^ 64 ≤ k.value.toNat + v.toNat then
    refreshReady (counterError s c { k with value := BitVec.allOnes 64 } 2 log)
  else refreshReady { s with counters := mput s.counters c { k with value := k.value + v } }

/-- A record that a RESET of a counter drops: accepted, not started, waiting on it (R366). -/
def dropsOn (c : Nat) (t : Task) : Bool :=
  t.stage != .started && t.record.waits.any (fun e => e.used && e.counter == c)

/-- RESET (R366). -/
def counterResetOp (s : State) (c : Nat) (v : DWord) : State :=
  let k := s.counter c
  let s := { s with counters := mput s.counters c { k with value := v } }
  let s := (s.tasks.filter (fun e => dropsOn c e.2)).foldl (fun s e =>
    (writeStatus s e.2.mailbox e.2.slot e.2.succOf (statusWord 3 15 0)).dropTask e.1) s
  refreshReady s

/-- A signal of a finished record (R368 step 4). -/
def signal (s : State) (mbox : Nat) (e : CtrEnt) : State :=
  if !e.used then s
  else match e.op with
    | 1 => counterAddOp s e.counter e.value (mbox / 8 + 1)
    | 2 => counterSetOp s e.counter e.value (mbox / 8 + 1)
    | 3 => counterResetOp s e.counter e.value
    | _ => s

/-! ### The end of a task (R368) -/

/-- A group of the task that was started or spawned and has not retired. -/
def taskBusy (s : State) (tid : Nat) : Bool :=
  s.groups.any (fun e => e.2.task == tid && (e.2.kind == .started || e.2.kind == .spawned))

/-- A service group of a task that a function-level reset kills has not retired (R436). -/
def servesBusy (s : State) (tid : Nat) : Bool := s.groups.any (fun e => e.2.task == tid && e.2.kind == .service)

/-- A function-level reset of a virtual function is not complete: a kill of it has not taken effect (R436). -/
def flrBusy (s : State) (vf : Nat) : Bool := s.tasks.any (fun e => e.2.flr && e.2.mailbox / 8 == vf)

/-- The records of a virtual function's mailboxes that are not accepted are discarded: no slot holds a SEQ (R436). -/
def clearSeqs (s : State) (vf : Nat) : State :=
  (List.range 8).foldl (fun s k =>
    let b := s.mailbox (8 * vf + k)
    s.setMailbox (8 * vf + k) { b with
      slots := (List.range 32).foldl (fun m j => bputN m (256 * j + 0xFC) [0, 0, 0, 0]) b.slots }) s

/-- Step 3 of R436, once every kill has taken effect: CONSUMED is 0, the event log is empty, and what was written meanwhile is not
accepted. -/
def endReset (s : State) (vf : Nat) : State :=
  let s := (List.range 8).foldl (fun s k =>
    s.setMailbox (8 * vf + k) { s.mailbox (8 * vf + k) with consumed := 0 }) (clearSeqs s vf)
  { s with dev := { s.dev with logs := mdel s.dev.logs (vf + 1) } }

/-- Steps 1 to 5 of R368, with what R369 changes for a killed task and a function-level reset. -/
def finishTask (s : State) (tid : Nat) (t : Task) : State :=
  let r := t.record
  let m := t.mailbox / 8 + 1
  if t.flr then
    let s := (writeStatus s t.mailbox t.slot t.succOf (statusWord 4 15 0)).dropTask tid
    if flrBusy s (t.mailbox / 8) then s else endReset s (t.mailbox / 8)
  else
    let res := if r.result = 0 then 0
      else match hwRead s r.asid m r.result 4 with | some bs => leNat bs | none => 0
    let chosen := if res < r.nsucc then res else 15
    let s := if r.result = 0 then s else hwDeny s r.asid m .read r.result 4
    let s := writeStatus s t.mailbox t.slot t.succOf (statusWord (if t.anyKill then 4 else 1) chosen 0)
    let s := s.dropTask tid
    let s := r.sigs.foldl (fun s e => signal s t.mailbox e) s
    if chosen = 15 then s
    else
      let a := r.succ + BitVec.ofNat 64 (256 * chosen)
      match hwRead s r.asid m a 256 with
      | some bs => acceptRecord s t.mailbox t.slot (some (a, r.asid)) (parseRecord bs)
      | none => (hwDeny s r.asid m .read a 256).post m 11 m 0 a

/-- The task is complete when none of its groups is left and none is to come (R368, R369). -/
def completeIfDone (s : State) (tid : Nat) : State :=
  match s.task? tid with
  | some t =>
    if t.plan = [] ∧ !taskBusy s tid ∧ (t.stage = .started ∨ t.killed) ∧ !(t.flr && servesBusy s tid) then finishTask s tid t
    else s
  | none => s

/-- Kills a task (R359, R369, R436, R439): every group of it, its service groups included; nothing more of it is placed. -/
def killTask (s : State) (tid : Nat) (flr : Bool) : State :=
  match s.task? tid with
  | none => s
  | some t =>
    let s := s.setTask tid { t with killed := true, anyKill := true, flr := t.flr || flr, plan := [] }
    let doom := fun (_ : Nat) (g : Group) =>
      if g.task == tid && (g.kind == .started || g.kind == .spawned || g.kind == .service) then g.request (.kill false)
      else g
    let s := { s with groups := mmap doom s.groups }
    completeIfDone s tid

/-- A write of KILL (R359): the task that the slot's record, or a successor accepted from it, started. -/
def killSlot (s : State) (mbox : Nat) (w : Word) : State :=
  if !w.getLsbD 31 then s
  else (s.tasks.filter (fun e => e.2.mailbox == mbox && e.2.slot == w.toNat % 32 && e.2.stage == .started)).foldl
    (fun s e => killTask s e.1 false) s

end Sys2Proof.Machine
end

