-- ==== Sys2Proof/Machine/Apertures.lean ====
section
/-! DEFINITION. The apertures (R424): mailboxes (R359), counter blocks (R365), management space (R426 to R431), host memory;
and the operating points that management space limits (R370, R437). -/

namespace Sys2Proof.Machine

/-! ### Operating points -/

/-- MINPT of a quarter (R426). -/
def minPoint (d : Device) (q : Nat) : Nat := (d.minpt.extractLsb' (4 * q) 3).toNat

/-- The point a quarter runs at (R370): 7 until something lowers it. -/
def oppOf (d : Device) (q : Nat) : Nat := mgetD d.opp q 7

/-- The OPPs of the tasks with groups resident in a quarter. -/
def residentOpps (s : State) (q : Nat) : List Nat :=
  s.groups.filterMap (fun e =>
    if quarterOf e.2.core = q ∧ s.resident e.2 then (s.task? e.2.task).map (fun t => t.record.opp) else none)

/-- The point a quarter moves to: the lowest OPP wanted there, as far as MINPT allows (R370, R437). -/
def oppTarget (s : State) (q : Nat) (wanted : List Nat) : Nat :=
  max ((residentOpps s q ++ wanted).foldl min 7) (minPoint s.dev q)

/-- Starts a change of point where one is due. One under way to a point above the due one, which a group now resident forbids, goes to that
instead, or ends where the quarter has kept it. -/
def moveOpp (s : State) (q : Nat) (wanted : List Nat) : State :=
  let t := oppTarget s q wanted
  match mget s.dev.oppNext q with
  | some n =>
    if n ≤ t then s
    else { s with dev := { s.dev with oppNext := if t = oppOf s.dev q then mdel s.dev.oppNext q else mput s.dev.oppNext q t } }
  | none => if t = oppOf s.dev q then s else { s with dev := { s.dev with oppNext := mput s.dev.oppNext q t } }

def refreshOpp (s : State) : State := [0, 1, 2, 3].foldl (fun s q => moveOpp s q []) s

/-! ### Mailboxes (R359) -/

/-- The control block (R359). -/
def controlBytes (b : Mailbox) : List Byte :=
  leBytes 4 b.consumed.toNat ++ leBytes 4 (b.cbase % 4096) ++ leBytes 4 b.ccount ++
  leBytes 4 (if b.owner then 1 else 0) ++ leBytes 8 b.parts.toNat ++ leBytes 8 b.ctxbase.toNat ++
  leBytes 8 b.ctxsize.toNat ++ List.replicate 24 0

/-- Bytes of a mailbox; beyond its 8,256 bytes nothing is there (DESIGN CHOICE, log entry 15). -/
def mailboxRead (b : Mailbox) (off n : Nat) : List Byte :=
  let ctl := controlBytes b
  (List.range n).map (fun k =>
    if off + k < 0x2000 then bget b.slots (off + k) else ctl.getD (off + k - 0x2000) 0)

/-- A write into a mailbox: slot bytes, or KILL by its own function or the owner (R359). -/
def mailboxWrite (s : State) (master m off : Nat) (data : List Byte) : State :=
  if off < 0x2000 then
    let b := s.mailbox m
    s.setMailbox m { b with slots := bputN b.slots off (data.take (0x2000 - off)) }
  else if off = 0x2028 ∧ (master = m / 8 + 1 ∨ master = s.dev.owner) then killSlot s m (leWord (data.take 4))
  else s

/-! ### Counter blocks (R365) -/

def counterRead (k : Counter) (off n : Nat) : List Byte :=
  let bs := leBytes 8 k.value.toNat ++ List.replicate 16 0 ++ leBytes 4 (k.errs * 65536 + k.last) ++ List.replicate 4 0
  (bs.drop off).take n

/-- A write to VALUE, ADD or RESET; other writes are ignored. -/
def counterWrite (s : State) (master c off : Nat) (data : List Byte) : State :=
  let v := leDWord (data.take 8)
  if off = 0 then counterSetOp s c v master
  else if off = 8 then counterAddOp s c v master
  else if off = 16 then counterResetOp s c v
  else s

/-! ### Management space (R426) -/

/-- An access rule as it is kept: reserved bits read as zero (R428). -/
def ruleBits (r : BitVec 128) : BitVec 128 := r &&& 0xFFFFFFFFFFFFFFFFFFFF000000000007

/-- The layout of an event log (R432). -/
def logBytes (l : EventLog) (off n : Nat) : List Byte :=
  (List.range n).map (fun k =>
    let o := off + k
    if o < 8 then (leBytes 4 l.head.toNat ++ leBytes 4 l.overrun.toNat).getD o 0
    else if o < 0x100 then 0
    else match mget l.slots ((o - 0x100) / 32) with
      | some e => (leBytes 8 e.time.toNat ++ leBytes 2 e.code ++ leBytes 2 e.source ++ leBytes 4 e.detail.toNat ++
          leBytes 8 e.addr.toNat).getD ((o - 0x100) % 32) 0
      | none => 0)

/-- One byte of management space. The layouts of the lifetime counters and of a port's state are not in the spec: a
counter stands at 8 times its number, a port's state in its first byte and its counts in the next words (DESIGN CHOICE, log entry 16). -/
def mgmtByte (s : State) (off : Nat) : Byte :=
  let d := s.dev
  let le := fun (x k : Nat) => BitVec.ofNat 8 (x / 256 ^ k)
  let word := fun (x : Nat) => le x (off % 4)
  if off < 0x04 then 0
  else if off < 0x08 then word d.owner
  else if off < 0x10 then 0
  else if off < 0x14 then word d.ftmo
  else if off < 0x18 then word d.minpt.toNat
  else if off < 0x1C then word d.htmo
  else if 0xF0 ≤ off ∧ off < 0xF4 then word (if d.recovery then 1 else 0)
  else if 0x1000 ≤ off ∧ off < 0x1000 + 32 * 65 then
    ((mgetD d.attreq ((off - 0x1000) / 32) []).getD ((off - 0x1000) % 32) 0)
  else if 0x2000 ≤ off ∧ off < 0x2000 + 256 * 65 then
    ((mgetD d.attrep ((off - 0x2000) / 256) []).getD ((off - 0x2000) % 256) 0)
  else if 0x8000 ≤ off ∧ off < 0x9000 then
    (logBytes (mgetD d.logs 0 EventLog.empty) (off - 0x8000) 1).getD 0 0
  else if 0x10000 ≤ off ∧ off < 0x10000 + 1280 * 66 then
    le (mgetD d.access ((off - 0x10000) / 16) 0).toNat (off % 16)
  else if 0x30000 ≤ off ∧ off < 0x40000 then le (mgetD d.lifetime ((off - 0x30000) / 8) 0) (off % 8)
  else if 0x40000 ≤ off ∧ off < 0x41000 then
    let p := s.port ((off - 0x40000) / 256)
    (leBytes 4 (if p.up then 1 else 0) ++ leBytes 4 p.retries ++ leBytes 4 p.downs).getD (off % 256) 0
  else if 0x41000 ≤ off ∧ off < 0x41000 + 8 * 96 then le (mgetD d.walkers ((off - 0x41000) / 8) 0).toNat (off % 8)
  else if 0x48000 ≤ off ∧ off < 0x48000 + 64 * 512 then
    (controlBytes (s.mailbox ((off - 0x48000) / 64))).getD (off % 64) 0
  else if 0x100000 ≤ off ∧ off < 0x200000 then
    let e := mgetD d.spaces ((off - 0x100000) / 16) (0, 0)
    (leBytes 8 e.1.toNat ++ leBytes 2 e.2).getD (off % 16) 0
  else if 0x200000 ≤ off ∧ off < 0x400000 then le (mgetD d.routes ((off - 0x200000) / 2) 0).toNat (off % 2)
  else 0

def mgmtRead (s : State) (off n : Nat) : List Byte := (List.range n).map (fun k => mgmtByte s (off + k))

/-- The old bytes of a unit of `size` bytes at `base`, with what a write of `data` at `off` leaves there. -/
def unitBytes (s : State) (base size off : Nat) (data : List Byte) : List Byte :=
  (List.range size).map (fun k =>
    let a := base + k
    if off ≤ a then (data[a - off]?).getD (mgmtByte s a) else mgmtByte s a)

/-- Sets one unit of management space from its bytes (R426): an access rule, a walker entry, a mailbox's writable
fields, an address space, a route. -/
def setUnit (s : State) (base : Nat) (bs : List Byte) : State :=
  let d := s.dev
  if 0x10000 ≤ base ∧ base < 0x10000 + 1280 * 66 then
    { s with dev := { d with access := mput d.access ((base - 0x10000) / 16) (ruleBits (BitVec.ofNat 128 (leNat bs))) } }
  else if 0x41000 ≤ base ∧ base < 0x41000 + 8 * 96 then
    { s with dev := { d with walkers := mput d.walkers ((base - 0x41000) / 8) (leDWord bs) } }
  else if 0x48000 ≤ base ∧ base < 0x48000 + 64 * 512 then
    let m := (base - 0x48000) / 64
    s.setMailbox m { s.mailbox m with
      cbase := fieldAt bs 4 4 % 4096, ccount := fieldAt bs 8 4, owner := fieldAt bs 12 4 == 1,
      parts := BitVec.ofNat 64 (fieldAt bs 16 8), ctxbase := dwordAt bs 24, ctxsize := dwordAt bs 32 }
  else if 0x100000 ≤ base ∧ base < 0x200000 then
    { s with dev := { d with spaces := mput d.spaces ((base - 0x100000) / 16) (dwordAt bs 0, fieldAt bs 8 2) } }
  else if 0x200000 ≤ base ∧ base < 0x400000 then
    { s with dev := { d with routes := mput d.routes ((base - 0x200000) / 2) (BitVec.ofNat 16 (leNat bs)) } }
  else s

/-- Bytes of the unit that an offset lies in. -/
def unitSize (off : Nat) : Nat :=
  if off < 0x41000 then 16 else if off < 0x48000 then 8 else if off < 0x100000 then 64
  else if off < 0x200000 then 16 else 2

/-- Writes every unit that the data touches, each indivisibly (R429). -/
def writeUnits : Nat → State → Nat → Nat → List Byte → State
  | 0, s, _, _, _ => s
  | fuel + 1, s, at', off, data =>
    if off + data.length ≤ at' then s
    else
      let size := unitSize at'
      let base := at' / size * size
      writeUnits fuel (setUnit s base (unitBytes s base size off data)) (base + size) off data

/-- CLAIM (R426, R427): makes the writer owner while there is none; bring-up opens it last (R435). -/
def claimWrite (s : State) (master : Nat) (v : Word) : State :=
  if v = 1 ∧ master ≤ 64 ∧ s.dev.owner = 0xFF ∧ s.dev.powered ∧ !s.dev.recovery then { s with dev := { s.dev with owner := master, offer := 0xFF } } else s

/-- GIVE: the owner's offer; 0xFF withdraws it. -/
def giveWrite (s : State) (master : Nat) (v : Word) : State :=
  if master = s.dev.owner then { s with dev := { s.dev with offer := v.toNat % 256 } } else s

/-- TAKE: the offered master completes the handover. -/
def takeWrite (s : State) (master : Nat) (v : Word) : State :=
  if v = 1 ∧ master ≤ 64 ∧ s.dev.offer = master ∧ s.dev.offer ≠ 0xFF then
    { s with dev := { s.dev with owner := master, offer := 0xFF } }
  else s

/-- MINPT (R437): the quarters then move. -/
def minptSet (s : State) (v : Word) : State := refreshOpp { s with dev := { s.dev with minpt := v &&& 0x7777 } }

/-- A nonce in a master's request slot starts a report (R431); its FORMAT reads 0 until it is ready. -/
def nonceWrite (s : State) (master : Nat) (off : Nat) (data : List Byte) : State :=
  let old := mgetD s.dev.attreq master (List.replicate 32 0)
  let new := (List.range 32).map (fun k => if off ≤ k then (data[k - off]?).getD (old.getD k 0) else old.getD k 0)
  { s with dev := { s.dev with attreq := mput s.dev.attreq master new, attrep := mput s.dev.attrep master [] } }

/-- KILL fields that a write of the mailbox control blocks covers (R359, R426). -/
def killWrites (s : State) (off : Nat) (data : List Byte) : State :=
  ((List.range data.length).filter (fun k =>
    decide (0x48000 ≤ off + k) && decide (off + k < 0x48000 + 64 * 512) && (off + k) % 64 == 0x28 && decide (k + 4 ≤ data.length))).foldl
    (fun s k => killSlot s ((off + k - 0x48000) / 64) (leWord ((data.drop k).take 4))) s

/-- A write of management space: CLAIM and TAKE by any master, a request slot by its own, all else by the owner (R426). -/
def mgmtWrite (s : State) (master off : Nat) (data : List Byte) : State :=
  let v := leWord (data.take 4)
  if off = 0 then claimWrite s master v
  else if off = 0xC then takeWrite s master v
  else if 0x1000 + 32 * master ≤ off ∧ off < 0x1020 + 32 * master ∧ master ≤ 64 then
    nonceWrite s master (off - (0x1000 + 32 * master)) data
  else if master ≠ s.dev.owner then s
  else if off = 8 then giveWrite s master v
  else if off = 0x10 then { s with dev := { s.dev with ftmo := v.toNat % 16 } }
  else if off = 0x14 then minptSet s v
  else if off = 0x18 then { s with dev := { s.dev with htmo := v.toNat % 16 } }
  else if 0x10000 ≤ off then killWrites (writeUnits (data.length + 1) s off off data) off data
  else s

/-! ### Reading and writing an aperture -/

/-- A read through an aperture: what host memory holds is free (DESIGN CHOICE, log entry 9). -/
def apertureRead (s : State) (pa n : Nat) : List Byte × State :=
  let off := pa % 2 ^ 48
  match aperture pa with
  | some 9 => (mailboxRead (s.mailbox (off / 16384)) (off % 16384) n, s)
  | some 10 => (counterRead (s.counter (off / 32)) (off % 32) n, s)
  | some 11 => (mgmtRead s off n, s)
  | _ => let (x, s) := s.draw; (leBytes n x, s)

/-- A write through an aperture by a master. Host memory is not held here. -/
def apertureWrite (s : State) (master pa : Nat) (data : List Byte) : State :=
  let off := pa % 2 ^ 48
  match aperture pa with
  | some 9 => mailboxWrite s master (off / 16384) (off % 16384) data
  | some 10 => counterWrite s master (off / 32) (off % 32) data
  | some 11 => mgmtWrite s master off data
  | _ => s

/-! ### Answers of host memory (R327, R424) -/

/-- Event 9 for a host refusal (R327). -/
def postHost (s : State) (vf : Nat) (va : DWord) : State := s.post (vf + 1) 9 (vf + 1) 0 va

/-- Host memory acknowledges or refuses each of some accesses: which is free (DESIGN CHOICE, log entry 9). The first one refused. -/
def hostAnswers (s : State) : List Acc → Option Acc × State
  | [] => (none, s)
  | a :: t =>
    let (n, s) := s.draw
    if n % 2 = 1 then (some a, s) else hostAnswers s t

end Sys2Proof.Machine
end

