-- ==== Sys2Proof/Machine/Fetch.lean ====
section
/-! DEFINITION. Fetching instruction words: through the core's L1 (R308), from text that stores do not update (R79), from the
apertures (R424); and the words of a clause (R75). -/

namespace Sys2Proof.Machine

/-- One word from where a translated fetch address leads: from memory through L1 the old word or, where another stands there
now, a free choice of the two (R79). The spec gives no value for text that another package holds: it is free (DESIGN
CHOICE, log entry 3). Host memory answers a fetch, or refuses it with cause 33 and event 9, within the fetch's own step (R327; DESIGN CHOICE, log
entry 9). Uncorrectable text raises cause 22 (DESIGN CHOICE, log entry 48). -/
def fetchFrom (s : State) (g : Group) (va : DWord) (pa : Nat) (rem home : Option Nat) : Fetched × State :=
  if rem.isSome then
    let (n, s) := s.draw
    (.word (BitVec.ofNat 32 n), s)
  else if !isHbm pa then
    match hostAnswers s (if aperture pa = some 8 then [⟨0, va, pa, 4, none, none, [], 0, 0⟩] else []) with
    | (some _, s) => (.fault 33, postHost s g.vf va)
    | (none, s) =>
      let (bs, s) := apertureRead s pa 4
      (.word (leWord bs), s)
  else if loadBad s g.core (g.l1Tag va false) pa home 4 false then (.fault 22, s)
  else
    let (bs, s) := loadBytes s g.core (g.l1Tag va false) pa home 4 false
    let now := leWord bs
    let old := textWord s g pa
    if old = now then (.word now, s)
    else
      let (n, s) := s.draw
      (.word (if n % 2 = 0 then old else now), s)

/-- Fetches one word of text; a fetch that an access table denies posts event 5 (R429). -/
def fetchWord (s : State) (g : Group) (va : DWord) : Fetched × State :=
  match translate s g.who .fetch va with
  | .miss page =>
    if g.fetchMiss = some (page, true) then (.fault 23, s.setG { s.G with fetchMiss := none })
    else if missRoom s (clusterOf g.core) g.asid page then
      (.miss, (s.addMiss g.who 2 page).setG { s.G with fetchMiss := some (page, false) })
    else (.miss, s)
  | .fault denied => (.fault 23, if denied then s.deny (g.vf + 1) (BitVec.ofNat 32 AccKind.fetch.code) va else s)
  | .hit pa rem home => fetchFrom s g va pa rem home

/-- Fetches words of the current clause until `n` of them stand in it, or until its end (R75, R79). -/
def fetchUpTo : Nat → Nat → State → Fetched × State
  | 0, _, s => (.word 0, s)
  | fuel + 1, n, s =>
    let g := s.G
    match g.clause with
    | none => (.fault 23, s)
    | some c =>
      if n ≤ c.words.length ∨ c.len ≤ c.words.length then (.word 0, s)
      else
        let va := c.start + 4 * BitVec.ofNat 64 (c.words.length + 1)
        match fetchWord s g va with
        | (.word w, s') =>
          fetchUpTo fuel n (s'.setG { g with clause := some { c with words := c.words ++ [w] } })
        | (r, s') => (r, s')

/-- The word at the clause's next position with its literal words, fetching what is not there yet. -/
def fetchInstr (s : State) : Fetched × List Word × State :=
  match s.G.clause with
  | none => (.fault 23, [], s)
  | some c =>
    match fetchUpTo 24 (c.pos + 1) s with
    | (.word _, s1) =>
      let w := match s1.G.clause with | some c1 => c1.words.getD c.pos 0 | none => 0
      match fetchUpTo 24 (c.pos + 1 + litsOfWord w) s1 with
      | (.word _, s2) =>
        match s2.G.clause with
        | some c2 => (.word w, (c2.words.drop c.pos).take (1 + litsOfWord w) , s2)
        | none => (.fault 23, [], s2)
      | (r, s2) => (r, [], s2)
    | (r, s1) => (r, [], s1)

end Sys2Proof.Machine
end

