-- ==== Sys2Proof/Machine/Control.lean ====
section
/-! DEFINITION. Clauses, control flow and divergence (05): the instructions of class 000, and the steps
CLAUSE_START, CLAUSE_BOUNDARY and SPLIT_ROTATE. -/

namespace Sys2Proof.Machine

/-! ### Transfers (R125 to R129) -/

/-- cond(c, i) of R125. -/
def Group.cond (g : Group) (c : F7) : Mask :=
  let n := c.toNat
  if n < 8 then g.pred n else if n < 16 then ~~~(g.pred (n - 8)) else BitVec.allOnes 96

/-- The address of the header after a clause (R122). -/
def Clause.next (c : Clause) : DWord := c.start + 4 + 4 * BitVec.ofNat 64 c.len

/-- The transfer has set where the split goes on. -/
def Group.setTaken (g : Group) : Group :=
  { g with clause := g.clause.map (fun c => { c with taken := true }) }

/-- The current split moves whole. -/
def Group.moveTo (g : Group) (pc : DWord) : Group := (g.setSplit { g.split with pc := pc }).setTaken

/-- A side of a divergence that does not run first: the lowest free table entry, or a parked record (R129). -/
def Group.placeSide (g : Group) (sp : Split) : Group :=
  match g.freeSplit with
  | some k => { g with splits := mput g.splits k sp }
  | none => { g with parked := g.parked ++ [sp] }

/-- diverge() of R129: the first side keeps the entry, the others take entries or park in order. Every side is a new
split with copies of the depth, mode and format registers. -/
def Group.diverge (g : Group) (first : Mask × DWord) (others : List (Mask × DWord)) : Group :=
  let sp := g.split
  let mk := fun (k : Nat) (e : Mask × DWord) =>
    { sp with mask := e.1, pc := e.2, fresh := true, formed := g.nextId, ids := (g.nextId + k) :: sp.ids }
  let g1 := { g with nextId := g.nextId + 1 + others.length, ran := 0 }
  let g2 := (g1.setSplit (mk 0 first)).setTaken
  ((List.range others.length).foldl (fun g k =>
    match others[k]? with
    | some e => g.placeSide (mk (k + 1) e)
    | none => g) g2)

/-- Which side of a branch runs first (R128). -/
inductive Hint where
  | likely | unlikely | none_
  deriving DecidableEq, Repr

/-- R126, R128: lanes T go to the target, the others to the next clause. -/
def transfer (s : State) (h : Hint) (t : Mask) (target : DWord) (link : Group → Group) : Res :=
  let g := s.G
  match g.clause with
  | none => .stall
  | some c =>
    let f := g.split.mask &&& ~~~t
    if t = 0 then .ok s
    else if !inText s g target then .trap { Trap.of 9 with lanes := t, addr := target }
    else
      let g := link g
      if f = 0 then .ok (s.setG (g.moveTo target))
      else
        let takenFirst := match h with
          | .likely => true
          | .unlikely => false
          | .none_ => decide (laneCount f ≤ laneCount t)
        if takenFirst then .ok (s.setG (g.diverge (t, target) [(f, c.next)]))
        else .ok (s.setG (g.diverge (f, c.next) [(t, target)]))

/-- The target of BRA, BRX and CALL (R126): the clause's header plus 4 times a signed word offset. -/
def branchTarget (g : Group) (off : Word) : DWord :=
  (match g.clause with | some c => c.start | none => g.split.pc) + 4 * off.signExtend 64

def branch (s : State) (h : Hint) (c : F7) (off : Word) : Res :=
  transfer s h (s.G.active &&& s.G.cond c) (branchTarget s.G off) id

def execNop (s : State) := issue (Instr.shape .nop) s (fun s => .ok s)

def execBraLikely (a : F7) (lit : Word) (s : State) :=
  issue (Instr.shape (.braLikely a lit)) s (fun s => branch s .likely a lit)
def execBraUnlikely (a : F7) (lit : Word) (s : State) :=
  issue (Instr.shape (.braUnlikely a lit)) s (fun s => branch s .unlikely a lit)
def execBraUniform (a : F7) (lit : Word) (s : State) :=
  issue (Instr.shape (.braUniform a lit)) s (fun s => branch s .none_ a lit)
def execBra (a : F7) (lit : Word) (s : State) :=
  issue (Instr.shape (.bra a lit)) s (fun s => branch s .none_ a lit)
def execBrx (a b : F7) (s : State) :=
  issue (Instr.shape (.brx a b)) s (fun s => branch s .none_ a (s.G.rdS b.toNat))

/-- CALL writes the text offset of the next clause's header in the lanes that transfer (R126). -/
def execCall (d a b : F7) (s : State) :=
  issue (Instr.shape (.call d a b)) s (fun s =>
    let g := s.G
    let t := g.active &&& g.cond a
    let off := match g.clause with | some c => loWord (c.next - g.text) | none => 0
    transfer s .none_ t (branchTarget g (g.rdS b.toNat)) (fun g => g.putV g.nextId d.toNat t (fun _ => off)))

/-- The sides of RET (R127): the lanes grouped by target, in ascending order of their lowest lane. -/
def retSides (lanes : List Nat) (target : Nat → DWord) : List (Mask × DWord) :=
  lanes.foldl (fun sides i =>
    if sides.any (fun e => e.2 == target i) then
      sides.map (fun e => if e.2 == target i then (e.1 ||| BitVec.ofNat 96 (2 ^ i), e.2) else e)
    else sides ++ [(BitVec.ofNat 96 (2 ^ i), target i)]) []

/-- Inserts a side by its lowest lane. -/
def insertSide (x : Mask × DWord) : List (Mask × DWord) → List (Mask × DWord)
  | [] => [x]
  | y :: t => if (lowestLane x.1).getD 96 < (lowestLane y.1).getD 96 then x :: y :: t else y :: insertSide x t

def execRet (a : F7) (s : State) :=
  issue (Instr.shape (.ret a)) s (fun s =>
    let g := s.G
    let t := g.active
    let target := fun i => g.text + ((g.rdV a.toNat i) &&& 0xFFFFFFFC).zeroExtend 64
    let bad := maskOf (fun i => t.getLsbD i && !inText s g (target i))
    let f := g.split.mask &&& ~~~t
    match g.clause with
    | none => .stall
    | some c =>
      if t = 0 then .ok s
      else if bad ≠ 0 then .trap { Trap.of 9 with lanes := bad, addr := target ((lowestLane bad).getD 0) }
      else
        let sides := retSides (laneList t) target
        let sides := if f = 0 then sides else insertSide (f, c.next) sides
        match sides with
        | [] => .ok s
        | [e] => .ok (s.setG (g.moveTo e.2))
        | e :: rest => .ok (s.setG (g.diverge e rest)))

/-! ### The predicate stack (R134) -/

/-- Rewrites entry `d` in the lanes of the split's mask. -/
def Group.putStack (g : Group) (d : Nat) (val : Mask) : Group :=
  { g with stack := mput g.stack d ((mgetD g.stack d 0 &&& ~~~g.split.mask) ||| (val &&& g.split.mask)) }

def Group.setDepth (g : Group) (d : Nat) : Group := g.setSplit { g.split with depth := d }

def execPpush (a : F7) (s : State) :=
  issue (Instr.shape (.ppush a)) s (fun s =>
    let g := s.G
    let d := g.split.depth
    if 16 ≤ d then .trap (Trap.of 2)
    else .ok (s.setG ((g.putStack (d + 1) (g.pass d &&& g.pred a.toNat)).setDepth (d + 1))))

def execPinv (s : State) :=
  issue (Instr.shape .pinv) s (fun s =>
    let g := s.G
    let d := g.split.depth
    if d = 0 then .trap (Trap.of 3)
    else .ok (s.setG (g.putStack d (g.pass (d - 1) &&& ~~~(mgetD g.stack d 0)))))

def execPpop (s : State) :=
  issue (Instr.shape .ppop) s (fun s =>
    let g := s.G
    if g.split.depth = 0 then .trap (Trap.of 3) else .ok (s.setG (g.setDepth (g.split.depth - 1))))

/-! ### Mode and format registers (R135) -/

/-- R32: a value SETMODE may not write. -/
def modeBad (w : Word) : Bool :=
  decide (30 ≤ (w.extractLsb' 16 5).toNat) || decide (9 ≤ (w.extractLsb' 8 4).toNat) ||
  decide (6 ≤ (w.extractLsb' 0 3).toNat)

/-- The bits of the mode register that are not reserved (R31). -/
def modeBits : Word := 0x001F0F37

def execSetmode (a : F7) (s : State) :=
  issue (Instr.shape (.setmode a)) s (fun s =>
    let g := s.G
    let w := g.rdS a.toNat
    if modeBad w then .trap (Trap.of 6) else .ok (s.setG (g.setSplit { g.split with mode := w &&& modeBits })))

def execGetmode (d : F7) (s : State) :=
  issue (Instr.shape (.getmode d)) s (fun s => writeV s d.toNat (fun _ => s.G.split.mode))

def execSetfmt (d a : F7) (s : State) :=
  issue (Instr.shape (.setfmt d a)) s (fun s =>
    let g := s.G
    .ok (s.setG (g.setSplit { g.split with fmts := g.split.fmts.set d.toNat (g.rdS a.toNat &&& 0xFFFFFF80) })))

def execGetfmt (d a : F7) (s : State) :=
  issue (Instr.shape (.getfmt d a)) s (fun s => writeV s d.toNat (fun _ => s.G.split.fmts.getD a.toNat 0))

/-! ### SPAWN, EXIT, YIELD (R137 to R142) -/

/-- The room SPAWN needs (R138): a context, the footprint, a group area; not in an ordered phase; not a service
group, and not the walker, which has no team or task to spawn into (DEDUCED, log entry 47). -/
def spawnRoom (s : State) (g : Group) (width budget : Nat) : Bool :=
  (g.kind == .started || g.kind == .spawned) && s.roomOn g.core width budget &&
  decide (groupArea width budget ≤ s.ctxFree g.region) &&
  (match s.task? g.task with | some t => !t.inPhase | none => true)

/-- The new group of a SPAWN (R43, R44); one of a team that is being saved is saved with it (R378). -/
def spawnedGroup (s : State) (g : Group) (a width budget : Nat) (entry : DWord) : Group :=
  let s9 := g.uni 9
  let born := Group.start .spawned width budget g.core (s.seatFor g.core) ((s.freeCtx g.core).getD 0) g.team g.task g.asid g.vf
    g.text entry g.prio
    (match s.task? g.task with | some t => (t.record.ctrl.extractLsb' 0 2).toNat | none => 0)
    ((List.range 8).map (fun k => (k, g.rdS (a + k))) ++
      [(8, g.uni 8), (9, if g.kind = .spawned then s9 else s9 ||| 0x80000000), (10, g.uni 10), (11, g.uni 11)])
    g.region (groupArea width budget) (s.newArea g.region (groupArea width budget))
  { born with held := if g.held = some .swap then some .swap else none }

def execSpawn (d a b : F7) (s : State) :=
  issue (Instr.shape (.spawn d a b)) s (fun s =>
    let g := s.G
    if !g.anyActive then .ok s
    else
      let desc := g.rdS b.toNat
      let regs := (desc.extractLsb' 0 7).toNat
      let entry := branchTarget g ((desc.sshiftRight 9))
      match widthOfCode (desc.extractLsb' 7 2).toNat with
      | none => .trap (Trap.of 10)
      | some w =>
        if !budgetOk regs || !inText s g entry then .trap (Trap.of 10)
        else
          let ok := spawnRoom s g w regs
          let s := if ok then s.setGroup s.newGid (spawnedGroup s g a.toNat w regs entry) else s
          writeP s d.toNat (fun _ => ok))

/-- Lanes leave the executing split for good (R140); an empty split frees its entry at the end of the clause (R39, R130). -/
def Group.exitLanes (g : Group) (m : Mask) : Group :=
  let g := (g.setSplit (g.split.without m))
  let g := { g with exited := g.exited ||| m }
  if g.split.mask = 0 then ({ g with splits := mdel g.splits g.cur }).setTaken else g

def execExit (s : State) :=
  issue (Instr.shape .exit) s (fun s => .ok (s.setG (s.G.exitLanes s.G.active)))

def execYield (s : State) :=
  issue (Instr.shape .yield) s (fun s =>
    let g := s.G
    .ok (s.setG { g with yielded := true, served := [] }))

/-! ### TRAP and BKPT (R143) -/

/-- A boundary cause joins TPEND (R301); in a handler TRAP and BKPT are double faults (R303). -/
def raiseBoundary (s : State) (code : Nat) (info : Word) : Res :=
  let g := s.G
  if !g.anyActive then .ok s
  else if g.inHandler then .done (s.setG g.doubleFault)
  else .ok (s.setG { g with tpend := g.tpend ++ [⟨code, info, 0, 0⟩] })

def execTrap (a : F7) (s : State) :=
  issue (Instr.shape (.trap a)) s (fun s => raiseBoundary s 40 (s.G.rdS a.toNat))

def execBkpt (s : State) :=
  issue (Instr.shape .bkpt) s (fun s => raiseBoundary s 41 0)

/-! ### CLAUSE_START (R121, R73, R76) -/

/-- A cause raised at a clause start before any word issued (R302): TRET 3, TEPC the header's address. -/
def clauseStartTrap (s : State) (detail code : Nat) (info : Word) (addr : DWord) : State :=
  enterHandler s (tcauseWord true detail code) info s.G.split.pc addr 3 none false none

/-- Opens a clause with the header found at the split's program counter. The group stands aside no longer, and no
group stands aside for it (R142). -/
def openClause (s : State) (h : Header) : State :=
  let g := s.G
  let sp := g.split
  let ran := if siblingAble s g then g.ran + 1 else g.ran
  let g := g.setSplit { sp with fresh := false }
  let g := { g with clause := some ⟨sp.pc, h.len, h.wait, h.fa, h.fb, 0, 0, false, []⟩, ran := ran,
                    yielded := false, served := [] }
  let s := s.setG g
  { s with groups := mmap (fun _ k => if k.yielded then { k with served := s.cur :: k.served } else k) s.groups }

def execClauseStart (s : State) : Host.Outcome State Fault Refusal :=
  if !s.chosen s.cur then .next s
  else
    match fetchWord s s.G s.G.split.pc with
    | (.miss, s') => .next s'
    | (.fault c, s') => .next (clauseStartTrap s' 0 c 0 s.G.split.pc)
    | (.word w, s') =>
      match decodeHeader w with
      | none => .next (clauseStartTrap s' 1 1 w 0)
      | some h => if s'.G.waitClear h.wait then .next (openClause s' h) else .next s'

/-! ### CLAUSE_BOUNDARY (R40, R122, R130, R301) -/

/-- R122: a clause that ended without a transfer continues at the word after its last. -/
def Group.fallThrough (g : Group) : Group :=
  match g.clause with
  | some c => if c.taken then g else g.setSplit { g.split with pc := c.next }
  | none => g

/-- Two splits merge (R40): the union of the lanes; mode and formats of the one with the lower lane. A split just formed that merges
counts as just formed no longer, which R130 does not say (DESIGN CHOICE, log entry 47). -/
def mergeSplits (x y : Split) : Split :=
  let lo := if (lowestLane x.mask).getD 96 ≤ (lowestLane y.mask).getD 96 then x else y
  { lo with mask := x.mask ||| y.mask, fresh := false, formed := max x.formed y.formed,
            ids := x.ids ++ y.ids.filter (fun k => !x.ids.contains k) }

def sameSpot (x y : Split) : Bool := x.pc == y.pc && x.depth == y.depth

/-- R40: merges split entry `k` with every later entry and parked split at the same spot. -/
def Group.mergeAt (g : Group) (k : Nat) : Group :=
  match mget g.splits k with
  | none => g
  | some sp =>
    let mates := g.splits.filter (fun e => decide (k < e.1) && sameSpot e.2 sp)
    let pmates := g.parked.filter (fun x => sameSpot x sp)
    let m := pmates.foldl mergeSplits (mates.foldl (fun acc e => mergeSplits acc e.2) sp)
    let gone := mkeys mates
    if mates.isEmpty && pmates.isEmpty then g
    else { g with splits := mput (g.splits.filter (fun e => !gone.contains e.1)) k m,
                  parked := g.parked.filter (fun x => !sameSpot x sp),
                  cur := if gone.contains g.cur then k else g.cur }

/-- R40, R130: merges, then freed entries go to the oldest parked splits. -/
def Group.merge (g : Group) : Group := ([0, 1, 2, 3].foldl Group.mergeAt g).unpark

/-- The entry with the lowest program counter among some entries; of two with the same one (at different depths, R40)
the lower entry number, which the spec leaves open (DESIGN CHOICE, log entry 47). -/
def lowestPc : List (Nat × Split) → Option Nat
  | [] => none
  | e :: t =>
    match lowestPc t with
    | none => some e.1
    | some k => match t.find? (fun x => x.1 == k) with
      | some x => if e.2.pc.toNat ≤ x.2.pc.toNat then some e.1 else some k
      | none => some e.1

/-- Makes another split current (R130). -/
def Group.setCur (g : Group) (k : Nat) : Group := if k = g.cur then g else { g with cur := k, ran := 0 }

/-- R130 rules 1 to 3, at the end of a clause or, where `ended` is false, while the group waits for its next one: then only
rules 1 and 2 apply. `lost`: the current split has no live lane left, so that its entry may hold another split by now. -/
def Group.chooseLow (s : State) (g : Group) (lost ended : Bool) : Group :=
  let able := ableSplits s g
  let curOk := !lost && able.any (fun e => e.1 == g.cur)
  let behind := ended && !g.split.fresh &&
    g.splits.any (fun e => e.1 != g.cur && decide (e.2.pc.toNat < g.split.pc.toNat))
  if curOk && !behind then g
  else match lowestPc able with
    | some k => g.setCur k
    | none => if (mget g.splits g.cur).isSome then g else
        match g.splits with
        | e :: _ => g.setCur e.1
        | [] => g

/-- The next entry after the current one among some that can start a clause, in ascending number, wrapping. -/
def Group.nextAble (g : Group) (able : List Nat) : Option Nat :=
  ([1, 2, 3].map (fun d => (g.cur + d) % 4)).find? (fun k => able.contains k)

/-- R130 rule 4: after 256 clauses in a row the next split that can start one. Rule 3 may bring the current split back at once, so
the rule passes over entries that it has served until it has served all (R131; DEDUCED, log entry 47). -/
def Group.rotate (s : State) (g : Group) : Group :=
  let able := mkeys (ableSplits s g)
  if g.ran < 256 then g
  else match g.nextAble (able.filter (fun k => !g.rotated.contains k)) with
    | some k => { g.setCur k with rotated := k :: g.rotated }
    | none => match g.nextAble able with
      | some k => { g.setCur k with rotated := [k] }
      | none => g

/-- R130: the current split after its rules; rule 4 applies where the others leave the current split as it is. -/
def chooseSplit (s : State) (g : Group) (lost ended : Bool) : Group :=
  let g' := g.chooseLow s lost ended
  if lost || g'.cur != g.cur then g' else g'.rotate s

/-- The pending boundary cause that is taken: the lowest code, engine faults in the order they arose (R301). -/
def lowestCause : List TrapPend → Option TrapPend
  | [] => none
  | t :: ts => match lowestCause ts with
    | none => some t
    | some u => if t.code ≤ u.code then some t else some u

/-- Removes the first occurrence of a pending cause. -/
def dropCause (t : TrapPend) : List TrapPend → List TrapPend
  | [] => []
  | u :: us => if u = t then us else u :: dropCause t us

/-- R301: takes the lowest pending boundary cause; it returns to the next clause of the current split (R143, R300). -/
def takeBoundary (s : State) : State :=
  let g := s.G
  match lowestCause g.tpend with
  | none => s
  | some t =>
    let s := s.setG { g with tpend := dropCause t g.tpend }
    enterHandler s (tcauseWord false 0 t.code) t.info g.split.pc t.addr 3 none false none

/-- The end of a clause: fall through, merge, take a boundary cause or choose the current split. A cause is taken in the split
that ended its clause; where all its lanes have exited, in the split that becomes current. `ended`: a clause has ended. -/
def boundary (s : State) (ended : Bool) : State :=
  let g := s.G.fallThrough
  let lost := (mget g.splits g.cur).isNone
  let g := { g with clause := none, ran := if lost then 0 else g.ran }
  let s := s.setG g.merge
  if s.G.takesCause then takeBoundary (if lost then s.setG (chooseSplit s s.G lost ended) else s)
  else s.setG (chooseSplit s s.G lost ended)

/-- The interrupted clause goes on, in its split (R305). -/
def Group.goBack (g : Group) (b : Back) (rest : List Back) : Group :=
  { g with clause := b.clause, t := b.temps.getD g.t, ovr := b.ovr, again := b.again, after := rest,
           cur := if (mget g.splits b.cur).isSome then b.cur else g.cur }

/-- CLAUSE_BOUNDARY acts when the clause's words are done, or between clauses (a waiting group takes its engine fault,
R261, or makes another split current). After a word reissued alone, or a clause that TRET 3 started in the word's split, the group goes
back to the clause that was interrupted (R305). -/
def execClauseBoundary (s : State) : Host.Outcome State Fault Refusal :=
  let g := s.G
  match g.clause, g.after with
  | some c, b :: rest =>
    if c.len ≤ c.pos then .next (s.setG (g.fallThrough.goBack b rest)) else .next s
  | some c, [] => if c.len ≤ c.pos then .next (boundary s true) else .next s
  | none, _ => if g.kind = .vacant then .next s else .next (boundary s false)

/-- SPLIT_ROTATE (R130 rule 4): the current split has started 256 clauses in a row while another could start one. -/
def execSplitRotate (s : State) : Host.Outcome State Fault Refusal :=
  let g := s.G
  if g.clause.isNone && decide (256 ≤ g.ran) then .next (s.setG (g.rotate s)) else .next s

end Sys2Proof.Machine
end

