-- ==== Sys2Proof/Machine/Special.lean ====
section
/-! DEFINITION. The special functions (07, R183 to R185), correctly rounded: exact operands and results are separated,
every other value is computed in fixed point with 512 fraction bits and rounded once. A result that is not exact is
irrational, and no rounding boundary of FP32 or BF16 lies within the error of that computation (PRESUMED, log entry 44). -/

namespace Sys2Proof.Machine

/-- Fraction bits of the fixed-point computation. -/
def fxBits : Nat := 512

/-- ln 2 in units of 2^-512, rounded down. -/
def fxLn2 : Nat :=
  0xb17217f7d1cf79abc9e3b39803f2f6af40f343267298b62d8a0d175b8baafa2be7b876206debac98559552fb4afa1b10ed2eae35c138214427573b291169b825

/-- pi / 2 in units of 2^-768, rounded down. -/
def fxHalfPi : Nat :=
  0x1921fb54442d18469898cc51701b839a252049c1114cf98e804177d4c76273644a29410f31c6809bbdf2a33679a748636605614dbe4be286e9fc26adadaa3848bc90b6aecc4bcfd8de89885d34c6fdad617feb96de80d6fdbdc70d7f6b5133f4b

/-- What a function comes to: a code of the special table, or a magnitude to round. -/
inductive Approx where
  | code (c : Nat)
  | val (neg : Bool) (m : Nat) (e : Int) (sticky : Bool)
  deriving DecidableEq, Repr

/-- The integer square root by bits: `fuel` bits still to decide. -/
def isqrtFrom : Nat → Nat → Nat → Nat
  | 0, _, r => r
  | k + 1, n, r => if (r + 2 ^ k) * (r + 2 ^ k) ≤ n then isqrtFrom k n (r + 2 ^ k) else isqrtFrom k n r

def isqrt (n : Nat) : Nat := isqrtFrom (n.log2 / 2 + 1) n 0

/-- The sum of y^k / k! from a term on, in units of 2^-512. -/
def expSum : Nat → Nat → Nat → Nat → Nat
  | 0, _, _, _ => 0
  | fuel + 1, k, y, t => t + expSum fuel (k + 1) y (t * y / 2 ^ fxBits / (k + 1))

/-- The alternating sum t − t y²/((k+1)(k+2)) + …, in units of 2^-512, as positive and negative parts. -/
def trigSum : Nat → Nat → Nat → Nat → Int
  | 0, _, _, _ => 0
  | fuel + 1, k, y2, t => (t : Int) - trigSum fuel (k + 2) y2 (t * y2 / 2 ^ fxBits / ((k + 1) * (k + 2)))

/-- The sum of z^(2j+1) / (2j+1), in units of 2^-512. -/
def atanhSum : Nat → Nat → Nat → Nat → Nat
  | 0, _, _, _ => 0
  | fuel + 1, k, z2, t => t / k + atanhSum fuel (k + 2) z2 (t * z2 / 2 ^ fxBits)

/-- A fixed-point value as a magnitude to round. -/
def fxVal (neg : Bool) (m : Nat) : Approx := .val neg m (-(fxBits : Int)) true

def specialRcp (f : Fmt) : Num → Approx
  | .nan => .code (f.nanCode.getD 0)
  | .inf neg => .code (f.withSign neg 0)
  | .fin neg m e =>
    if m = 0 then .code (f.infinity nearestEven neg)
    else let (n, q, x, st) := divNum (.fin false 1 0) (.fin neg m e); .val n q x st

def specialSqrt (f : Fmt) : Num → Approx
  | .nan => .code (f.nanCode.getD 0)
  | .inf neg => .code (if neg then f.nanCode.getD 0 else f.infinity nearestEven false)
  | .fin neg m e =>
    if m = 0 then .code (f.withSign neg 0)
    else if neg then .code (f.nanCode.getD 0)
    else
      let k := 200 + (e % 2).toNat
      let a := m * 2 ^ k
      let r := isqrt a
      .val false r ((e - k) / 2) (r * r != a)

def specialRsq (f : Fmt) : Num → Approx
  | .nan => .code (f.nanCode.getD 0)
  | .inf neg => .code (if neg then f.nanCode.getD 0 else 0)
  | .fin neg m e =>
    if m = 0 then .code (f.infinity nearestEven neg)
    else if neg then .code (f.nanCode.getD 0)
    else
      let k := 300 + (e % 2).toNat
      let r := isqrt (2 ^ k / m)
      .val false r (-(e + k) / 2) (r * r * m != 2 ^ k)

/-- 2^x: exact for integers; else 2^floor(x) times 2^frac. -/
def specialExp2 (f : Fmt) : Num → Approx
  | .nan => .code (f.nanCode.getD 0)
  | .inf neg => .code (if neg then 0 else f.infinity nearestEven false)
  | .fin neg m e =>
    if m = 0 then .val false 1 0 false
    else if 20 ≤ topExp m e then .val false 1 (if neg then -(2 ^ 20) else 2 ^ 20) false
    else
      let x : Int := if 0 ≤ e + fxBits then (m * 2 ^ (e + fxBits).toNat : Nat) else 0
      let x := if neg then -x else x
      let n := x / 2 ^ fxBits
      let fr := (x % 2 ^ fxBits).toNat
      if fr = 0 then .val false 1 n false
      else .val false (expSum 200 0 (fr * fxLn2 / 2 ^ fxBits) (2 ^ fxBits)) (n - fxBits) true

/-- log2 x: exact for powers of two; else the exponent plus ln of the mantissa over ln 2. -/
def specialLog2 (f : Fmt) : Num → Approx
  | .nan => .code (f.nanCode.getD 0)
  | .inf neg => .code (if neg then f.nanCode.getD 0 else f.infinity nearestEven false)
  | .fin neg m e =>
    if m = 0 then .code (f.infinity nearestEven true)
    else if neg then .code (f.nanCode.getD 0)
    else
      let top := topExp m e
      let one := 2 ^ fxBits
      let u := m * 2 ^ (fxBits - m.log2)
      if u = one then .val (decide (top < 0)) top.natAbs 0 false
      else
        let z := (u - one) * one / (u + one)
        let ln := 2 * atanhSum 200 1 (z * z / one) z
        let t : Int := top * one + (ln * one / fxLn2 : Nat)
        fxVal (decide (t < 0)) t.natAbs

/-- The quadrant of a magnitude and its remainder below pi / 2 in units of 2^-512 (R184: reduced exactly). -/
def reduceAngle (m : Nat) (e : Int) : Nat × Nat :=
  let x := m * 2 ^ (e + 768).toNat
  (x / fxHalfPi % 4, x % fxHalfPi / 2 ^ 256)

def sinFx (r : Nat) : Nat := (trigSum 200 1 (r * r / 2 ^ fxBits) r).toNat
def cosFx (r : Nat) : Nat := (trigSum 200 0 (r * r / 2 ^ fxBits) (2 ^ fxBits)).toNat

def specialSin (f : Fmt) : Num → Approx
  | .nan => .code (f.nanCode.getD 0)
  | .inf _ => .code (f.nanCode.getD 0)
  | .fin neg m e =>
    if m = 0 then .code (f.withSign neg 0)
    else
      let (q, r) := reduceAngle m e
      fxVal (neg != decide (2 ≤ q)) (if q % 2 = 0 then sinFx r else cosFx r)

def specialCos (f : Fmt) : Num → Approx
  | .nan => .code (f.nanCode.getD 0)
  | .inf _ => .code (f.nanCode.getD 0)
  | .fin _ m e =>
    if m = 0 then .val false 1 0 false
    else
      let (q, r) := reduceAngle m e
      fxVal (q == 1 || q == 2) (if q % 2 = 0 then cosFx r else sinFx r)

/-- The rounded code of a function's value. -/
def Approx.round (f : Fmt) (r : Rnd) : Approx → Nat
  | .code c => c
  | .val neg m e st => f.roundFin r neg m e st

/-- R103: a result below the smallest normal magnitude. -/
def Approx.tiny (f : Fmt) : Approx → Bool
  | .code _ => false
  | .val _ m e _ => m != 0 && decide (topExp m e < 1 - f.bias)

end Sys2Proof.Machine
end

