-- ==== Sys2Proof/Machine/Float.lean ====
section
/-! DEFINITION. Varying floating point, packed BF16, conversions, special functions and VRAND (07, R175 to R186), with the
subnormal replay of R103. -/

namespace Sys2Proof.Machine

/-- One element of a result: its code, and whether R103 replays it. -/
structure Elem where
  code   : Nat
  replay : Bool
  deriving DecidableEq, Repr

/-- A result that is never replayed. -/
def Elem.plain (c : Nat) : Elem := ⟨c, false⟩

/-- An operation on the elements of up to three registers, in a format, under a rounding. -/
abbrev ElemOp := Fmt → Rnd → Nat → Nat → Nat → Elem

/-- R103: some operand among the codes is subnormal. -/
def anySubnormal (f : Fmt) (xs : List Nat) : Bool := xs.any f.subnormal

/-- An exact result rounded once (R99), replayed under R103. -/
def exactElem (f : Fmt) (r : Rnd) (xs : List Nat) (x : Num) : Elem :=
  ⟨f.round r x, anySubnormal f xs || f.tiny x⟩

def opAdd : ElemOp := fun f r x y _ => exactElem f r [x, y] ((f.value x).add (f.value y) (r.mode == 3))
def opSub : ElemOp := fun f r x y _ => exactElem f r [x, y] ((f.value x).add (f.value y).neg (r.mode == 3))
def opMul : ElemOp := fun f r x y _ => exactElem f r [x, y] ((f.value x).mul (f.value y))
def opFma : ElemOp := fun f r x y z =>
  exactElem f r [x, y, z] (((f.value x).mul (f.value y)).add (f.value z) (r.mode == 3))
def opMin : ElemOp := fun f _ x y _ => .plain (f.minMax false x y)
def opMax : ElemOp := fun f _ x y _ => .plain (f.minMax true x y)
def opAbs : ElemOp := fun f _ x _ _ => .plain (x % 2 ^ f.mag)
def opNeg : ElemOp := fun f _ x _ _ => .plain (if x / 2 ^ f.mag % 2 = 1 then x % 2 ^ f.mag else x + 2 ^ f.mag)
def opRint : ElemOp := fun f r x _ _ => ⟨f.frint r x, f.subnormal x⟩

/-- A special function (R184, R185). -/
def opSpecial (h : Fmt → Num → Approx) : ElemOp := fun f r x _ _ =>
  let a := h f (f.value x)
  ⟨a.round f r, f.subnormal x || a.tiny f⟩

/-- Element `e` of a BF16 pair (R97). -/
def half (w : Word) (e : Nat) : Nat := w.toNat / 2 ^ (16 * e) % 2 ^ 16

/-- The result word of a lane: FP32, or two BF16 elements; and whether the lane replays. -/
def Group.elemWord (g : Group) (bf : Bool) (op : ElemOp) (i : Nat) (x y z : Word) : Word × Bool :=
  if bf then
    let a := op bf16 (g.rnd i 0) (half x 0) (half y 0) (half z 0)
    let b := op bf16 (g.rnd i 1) (half x 1) (half y 1) (half z 1)
    (BitVec.ofNat 32 (a.code + 2 ^ 16 * b.code), a.replay || b.replay)
  else
    let a := op fp32 (g.rnd i 0) x.toNat y.toNat z.toNat
    (BitVec.ofNat 32 a.code, a.replay)

/-- The seed registers a stochastic rounding reads are not ready (R106, R41). -/
def Group.seedsWait (g : Group) : Bool :=
  let k := 2 * modeSeed g.mode
  modeRnd g.mode == 5 && interlocked g [.s k, .s (k + 1)]

/-- Writes one register with results of which some lanes replay (R103): those lanes' results are pending, under
the flag if there is one, and the others are written at once, or with them under a flag. -/
def writeFloat (s : State) (sh : Shape) (flag : Option Nat) (d : Nat) (f : Group → Nat → Word × Bool) : Res :=
  let g := s.G
  let vals := lanes96.map (f g)
  let row := vals.map Prod.fst
  let slow := g.active &&& maskOf (fun i => (vals.getD i (0, false)).2)
  if g.seedsWait then .stall
  else match flag with
  | some _ =>
    .ok (s.addPend { g.mkPend sh flag (if slow = 0 then .write else .replay) with
      writes := [⟨.v d, row, g.active⟩] })
  | none =>
    let s := s.setG (g.putV g.nextId d (g.active &&& ~~~slow) (Row.at row))
    if slow = 0 then .ok s
    else .ok (s.addPend { s.G.mkPend sh none .replay with writes := [⟨.v d, row, slow⟩] })

/-- An instruction of R176 under ETYPE (R166). -/
def floatOp (sh : Option Shape) (op : ElemOp) (d a b c : F7) (s : State) : Host.Outcome State Fault Refusal :=
  issue sh s (fun s => writeFloat s (sh.getD Shape.empty) none d.toNat (fun g i =>
    g.elemWord (modeBf16 g.mode) op i (g.rdV a.toNat i) (g.rdV b.toNat i) (g.rdV c.toNat i)))

/-- A packed BF16 instruction (R179); `c` gives the addend of HFMA. -/
def halfOp (sh : Option Shape) (op : ElemOp) (d a b c : F7) (s : State) : Host.Outcome State Fault Refusal :=
  issue sh s (fun s => writeFloat s (sh.getD Shape.empty) none d.toNat (fun g i =>
    g.elemWord true op i (g.rdV a.toNat i) (g.rdV b.toNat i) (g.rdV c.toNat i)))

/-- A special function under ETYPE, with the FB flag (R165). -/
def specialOp (sh : Option Shape) (h : Fmt → Num → Approx) (d a : F7) (s : State) :
    Host.Outcome State Fault Refusal :=
  issue sh s (fun s => writeFloat s (sh.getD Shape.empty) s.G.fb d.toNat (fun g i =>
    g.elemWord (modeBf16 g.mode) (opSpecial h) i (g.rdV a.toNat i) 0 0))

/-- A conversion with the FB flag (R165, R181). -/
def convert (sh : Option Shape) (d : F7) (f : Group → Nat → Word × Bool) (s : State) :
    Host.Outcome State Fault Refusal :=
  issue sh s (fun s => writeFloat s (sh.getD Shape.empty) s.G.fb d.toNat f)

/-- FCMP (R177): FP32 whatever ETYPE holds. -/
def fcmp (sh : Option Shape) (d a b : F7) (rel : Option Int → Bool) (s : State) : Host.Outcome State Fault Refusal :=
  issue sh s (fun s => writeP s d.toNat (fun i => rel ((f32 (s.G.rdV a.toNat i)).cmp (f32 (s.G.rdV b.toNat i)))))

/-! ### Arithmetic (R175, R176) -/

def execFadd (d a b : F7) (s : State) := floatOp (Instr.shape (.fadd d a b)) opAdd d a b 0 s
def execFsub (d a b : F7) (s : State) := floatOp (Instr.shape (.fsub d a b)) opSub d a b 0 s
def execFmul (d a b : F7) (s : State) := floatOp (Instr.shape (.fmul d a b)) opMul d a b 0 s
def execFmin (d a b : F7) (s : State) := floatOp (Instr.shape (.fmin d a b)) opMin d a b 0 s
def execFmax (d a b : F7) (s : State) := floatOp (Instr.shape (.fmax d a b)) opMax d a b 0 s
def execFabs (d a : F7) (s : State) := floatOp (Instr.shape (.fabs d a)) opAbs d a 0 0 s
def execFneg (d a : F7) (s : State) := floatOp (Instr.shape (.fneg d a)) opNeg d a 0 0 s
def execFrint (d a : F7) (s : State) := floatOp (Instr.shape (.frint d a)) opRint d a 0 0 s
def execFfma (d a b c : F7) (s : State) := floatOp (Instr.shape (.ffma d a b c)) opFma d a b c s

def execFcmpEq (d a b : F7) (s : State) := fcmp (Instr.shape (.fcmpEq d a b)) d a b (fun c => c == some 0) s
def execFcmpNe (d a b : F7) (s : State) := fcmp (Instr.shape (.fcmpNe d a b)) d a b (fun c => c != some 0) s
def execFcmpLt (d a b : F7) (s : State) := fcmp (Instr.shape (.fcmpLt d a b)) d a b (fun c => c == some (-1)) s
def execFcmpLe (d a b : F7) (s : State) :=
  fcmp (Instr.shape (.fcmpLe d a b)) d a b (fun c => c == some (-1) || c == some 0) s
def execFcmpUn (d a b : F7) (s : State) := fcmp (Instr.shape (.fcmpUn d a b)) d a b (fun c => c == none) s

/-! ### Packed BF16 (R178, R179) -/

def execHadd (d a b : F7) (s : State) := halfOp (Instr.shape (.hadd d a b)) opAdd d a b 0 s
def execHsub (d a b : F7) (s : State) := halfOp (Instr.shape (.hsub d a b)) opSub d a b 0 s
def execHmul (d a b : F7) (s : State) := halfOp (Instr.shape (.hmul d a b)) opMul d a b 0 s
def execHmin (d a b : F7) (s : State) := halfOp (Instr.shape (.hmin d a b)) opMin d a b 0 s
def execHmax (d a b : F7) (s : State) := halfOp (Instr.shape (.hmax d a b)) opMax d a b 0 s
def execHfma (d a b : F7) (s : State) := halfOp (Instr.shape (.hfma d a b)) opFma d a b d s

/-! ### Conversions (R115, R180, R181) -/

/-- FP32 to integer. -/
def convF2i (lo hi : Int) (a : F7) (g : Group) (i : Nat) : Word × Bool :=
  let w := g.rdV a.toNat i
  (toInt (g.rnd i 0) lo hi (f32 w), fp32.subnormal w.toNat)

/-- Integer to FP32. -/
def convI2f (value : Word → Int) (a : F7) (g : Group) (i : Nat) : Word × Bool :=
  (BitVec.ofNat 32 (fp32.round (g.rnd i 0) (ofInt (value (g.rdV a.toNat i)))), false)

/-- BF16 element `e` to FP32, exactly. -/
def convH2f (e : Nat) (a : F7) (g : Group) (i : Nat) : Word × Bool :=
  let h := half (g.rdV a.toNat i) e
  (BitVec.ofNat 32 (if bf16.value h = .nan then 0x7FC00000 else h * 2 ^ 16), bf16.subnormal h)

/-- Two FP32 values to a BF16 pair. -/
def convF2h (a b : F7) (g : Group) (i : Nat) : Word × Bool :=
  let x := g.rdV a.toNat i
  let y := g.rdV b.toNat i
  let slow := fun (w : Word) => fp32.subnormal w.toNat || bf16.tiny (f32 w)
  (BitVec.ofNat 32 (bf16.round (g.rnd i 0) (f32 x) + 2 ^ 16 * bf16.round (g.rnd i 1) (f32 y)), slow x || slow y)

def execF2iI32 (d a : F7) (s : State) := convert (Instr.shape (.f2iI32 d a)) d (convF2i minI maxI a) s
def execF2iN32 (d a : F7) (s : State) := convert (Instr.shape (.f2iN32 d a)) d (convF2i 0 maxN a) s
def execI2fI32 (d a : F7) (s : State) := convert (Instr.shape (.i2fI32 d a)) d (convI2f BitVec.toInt a) s
def execI2fN32 (d a : F7) (s : State) := convert (Instr.shape (.i2fN32 d a)) d (convI2f (fun w => (w.toNat : Int)) a) s
def execH2fLo (d a : F7) (s : State) := convert (Instr.shape (.h2fLo d a)) d (convH2f 0 a) s
def execH2fHi (d a : F7) (s : State) := convert (Instr.shape (.h2fHi d a)) d (convH2f 1 a) s
def execF2h (d a b : F7) (s : State) := convert (Instr.shape (.f2h d a b)) d (convF2h a b) s

/-! ### Special functions (R183 to R185) -/

def execFrcp (d a : F7) (s : State) := specialOp (Instr.shape (.frcp d a)) specialRcp d a s
def execFrsq (d a : F7) (s : State) := specialOp (Instr.shape (.frsq d a)) specialRsq d a s
def execFsqrt (d a : F7) (s : State) := specialOp (Instr.shape (.fsqrt d a)) specialSqrt d a s
def execFexp2 (d a : F7) (s : State) := specialOp (Instr.shape (.fexp2 d a)) specialExp2 d a s
def execFlog2 (d a : F7) (s : State) := specialOp (Instr.shape (.flog2 d a)) specialLog2 d a s
def execFsin (d a : F7) (s : State) := specialOp (Instr.shape (.fsin d a)) specialSin d a s
def execFcos (d a : F7) (s : State) := specialOp (Instr.shape (.fcos d a)) specialCos d a s

/-! ### VRAND (R186) -/

/-- The four words of the generator for a lane's counter. -/
def vrandWords (g : Group) (a b i : Nat) : List Word :=
  let r := philox (g.rdV b i, g.rdV (b + 1) i, g.rdV (b + 2) i, g.rdV (b + 3) i) (g.rdS a, g.rdS (a + 1))
  [r.1, r.2.1, r.2.2.1, r.2.2.2]

def execVrand (d a b : F7) (s : State) :=
  issue (Instr.shape (.vrand d a b)) s (fun s =>
    let rows := lanes96.map (vrandWords s.G a.toNat b.toNat)
    writeVs s d.toNat 4 (fun k i => (rows.getD i []).getD k 0))

end Sys2Proof.Machine
end

