-- ==== Sys2Proof/Machine/CrossLane.lean ====
section
/-! DEFINITION. Cross-lane instructions, class 011 FN 101 (08, R191 to R203). Their sources are the active lanes; each sets
the FB flag (R192). -/

namespace Sys2Proof.Machine

/-- The result of a cross-lane instruction with a uniform destination: exempt from R19 (R193), checked for R18. -/
def finishUni (s : State) (sh : Shape) (slow : Bool) (unis : List (Nat × Word)) (rest : List RegWrite) : Res :=
  if s.G.emptiesMask unis then .trap (s.G.splitTrap 5)
  else finishFB s sh slow unis rest

/-- A varying result in the active lanes. -/
def laneWrite (g : Group) (d : Nat) (f : Nat → Word) : RegWrite := ⟨.v d, mkRow f, g.active⟩

/-! ### Shuffles (R195, R196) -/

def ShflW.lanes : ShflW → Nat
  | .w16 => 16 | .w32 => 32 | .w64 => 64 | .w96 => 96

/-- src(i): the source lane, from the lane's place in its sub-group. -/
def shflSrc (w : Nat) (n : Nat → Int) (i : Nat) : Nat := w * (i / w) + (n (i % w) % (w : Int)).toNat

def shuffle (sh : Option Shape) (d a : F7) (w : ShflW) (n : Group → Nat → Nat → Int) (s : State) :
    Host.Outcome State Fault Refusal :=
  issue sh s (fun s =>
    let g := s.G
    if g.width % w.lanes ≠ 0 then .trap (g.splitTrap 13)
    else
      let src := fun i => shflSrc w.lanes (n g i) i
      let hit := fun i => g.active.getLsbD (src i)
      finishFB s (sh.getD Shape.empty) false []
        [laneWrite g d.toNat (fun i => g.rdV a.toNat (if hit i then src i else i)),
         ⟨.p 7, mkRow (fun i => if hit i then 1 else 0), g.active⟩])

def execShflIdx (d a b : F7) (w : ShflW) (s : State) :=
  shuffle (Instr.shape (.shflIdx d a b w)) d a w (fun g i _ => (g.rdV b.toNat i).toNat) s
def execShflUp (d a b : F7) (w : ShflW) (s : State) :=
  shuffle (Instr.shape (.shflUp d a b w)) d a w (fun g _ j => (j : Int) - (g.rdS b.toNat).toNat) s
def execShflDown (d a b : F7) (w : ShflW) (s : State) :=
  shuffle (Instr.shape (.shflDown d a b w)) d a w (fun g _ j => (j : Int) + (g.rdS b.toNat).toNat) s
def execShflXor (d a b : F7) (w : ShflW) (s : State) :=
  shuffle (Instr.shape (.shflXor d a b w)) d a w
    (fun g _ j => ((BitVec.ofNat 32 j) ^^^ g.rdS b.toNat).toNat) s

/-! ### Reductions and scans (R117, R197 to R200) -/

/-- An FP32 or BF16 sum of a step: SAT under R105, stochastic rounding taken as nearest-even. -/
def stepRnd (mode : Word) : Rnd := ⟨if modeRnd mode = 5 then 0 else modeRnd mode, modeSat mode, 0⟩

def stepAdd (f : Fmt) (r : Rnd) (x y : Nat) : Nat := f.round r ((f.value x).add (f.value y) (r.mode == 3))

/-- The step and the identity of an operation code (R197). -/
def reduceOp (mode : Word) (code : Nat) : Option ((Word → Word → Word) × Word) :=
  let r := stepRnd mode
  match code with
  | 0 => some ((· + ·), 0)
  | 1 => some (fun x y => BitVec.ofNat 32 (stepAdd fp32 r x.toNat y.toNat), 0x80000000)
  | 2 => some (minIW, 0x7FFFFFFF)
  | 3 => some (minNW, 0xFFFFFFFF)
  | 4 => some (maxIW, 0x80000000)
  | 5 => some (maxNW, 0)
  | 6 => some (fun x y => BitVec.ofNat 32 (fp32.minMax false x.toNat y.toNat), 0x7FC00000)
  | 7 => some (fun x y => BitVec.ofNat 32 (fp32.minMax true x.toNat y.toNat), 0x7FC00000)
  | 8 => some ((· &&& ·), 0xFFFFFFFF)
  | 9 => some ((· ||| ·), 0)
  | 10 => some ((· ^^^ ·), 0)
  | 11 => some (fun x y => BitVec.ofNat 32
      (stepAdd bf16 r (half x 0) (half y 0) + 2 ^ 16 * stepAdd bf16 r (half x 1) (half y 1)), 0x80008000)
  | _ => none

/-- R103: a floating-point step of an operation code meets a subnormal. Minimum and maximum are never replayed. -/
def stepSlow (mode : Word) (code : Nat) (x y : Word) : Bool :=
  let r := stepRnd mode
  match code with
  | 1 => (opAdd fp32 r x.toNat y.toNat 0).replay
  | 11 => (opAdd bf16 r (half x 0) (half y 0) 0).replay || (opAdd bf16 r (half x 1) (half y 1) 0).replay
  | _ => false

/-- The width of the tree (R117). -/
def treeWidth (w : Nat) : Nat := if w ≤ 32 then 32 else if w ≤ 64 then 64 else 128

/-- One level of the tree: neighbours combined, the lower on the left. -/
def treeLevel {α : Type} (op : α → α → α) : List α → List α
  | x :: y :: t => op x y :: treeLevel op t
  | l => l

/-- node(0) of R117 after `n` levels. -/
def treeFold {α : Type} (op : α → α → α) : Nat → List α → List α
  | 0, l => l
  | n + 1, l => treeFold op n (treeLevel op l)

/-- The tree over the leaves of a list whose length is a power of two up to 128. -/
def treeReduce {α : Type} (op : α → α → α) (z : α) (l : List α) : α := (treeFold op 7 l).headD z

/-- Leaves of R117: the operand in active lanes, else the identity. -/
def Group.leaves (g : Group) (v : Row) (z : Word) : List Word :=
  (List.range (treeWidth g.width)).map (fun i => if i < 96 && g.active.getLsbD i then v.at i else z)

/-- The leaves of a scan: one for each lane, whatever the width of the tree. -/
def Group.laneLeaves (g : Group) (v : Row) (z : Word) : List Word :=
  lanes96.map (fun i => if g.active.getLsbD i then v.at i else z)

/-- The inclusive left-to-right folds. -/
def scanFolds (op : Word → Word → Word) : List Word → Option Word → List Word
  | [], _ => []
  | x :: t, none => x :: scanFolds op t (some x)
  | x :: t, some a => op a x :: scanFolds op t (some (op a x))

/-- Some step of the tree meets a subnormal (R192). -/
def treeSlow (op : Word → Word → Word) (slow : Word → Word → Bool) (z : Word) (l : List Word) : Bool :=
  (treeReduce (fun (x y : Word × Bool) => (op x.1 y.1, x.2 || y.2 || slow x.1 y.1)) (z, false) (l.map (·, false))).2

/-- Some step of the inclusive folds meets a subnormal (R192). -/
def scanSlow (slow : Word → Word → Bool) (folds l : List Word) : Bool := (folds.zip l.tail).any (fun e => slow e.1 e.2)

/-- The operation that s[A] names, or the reduce-operation fault (R195). -/
def withOp (s : State) (a : F7) (body : (Word → Word → Word) → Word → Res) : Res :=
  match reduceOp s.G.mode (s.G.rdS a.toNat).toNat with
  | none => .trap (s.G.splitTrap 14)
  | some (op, z) => body op z

def execReduce (d a b : F7) (s : State) :=
  issue (Instr.shape (.reduce d a b)) s (fun s => withOp s a (fun op z =>
    let l := s.G.leaves (s.G.rdRow b.toNat) z
    finishUni s ((Instr.shape (.reduce d a b)).getD Shape.empty)
      (treeSlow op (stepSlow s.G.mode (s.G.rdS a.toNat).toNat) z l)
      [(d.toNat, treeReduce op z l)] []))

def execReduceVarying (d a b : F7) (s : State) :=
  issue (Instr.shape (.reduceVarying d a b)) s (fun s => withOp s a (fun op z =>
    let l := s.G.leaves (s.G.rdRow b.toNat) z
    let r := treeReduce op z l
    finishFB s ((Instr.shape (.reduceVarying d a b)).getD Shape.empty)
      (treeSlow op (stepSlow s.G.mode (s.G.rdS a.toNat).toNat) z l) [] [laneWrite s.G d.toNat (fun _ => r)]))

/-- The smaller value, and on equal values the smaller index (R200). -/
def minPair (x y : Word × Word) : Word × Word :=
  if y.1.toNat < x.1.toNat ∨ (y.1 = x.1 ∧ y.2.toNat < x.2.toNat) then y else x

def execReduceMini (d a b : F7) (s : State) :=
  issue (Instr.shape (.reduceMini d a b)) s (fun s =>
    let g := s.G
    let z : Word × Word := (g.rdS a.toNat, 0xFFFFFFFF)
    let v := g.rdRow b.toNat
    let leaf := fun (i : Nat) => if i < 96 && g.active.getLsbD i then (v.at i, BitVec.ofNat 32 i) else z
    let r := minPair (treeReduce minPair z ((List.range 128).map leaf)) z
    finishUni s ((Instr.shape (.reduceMini d a b)).getD Shape.empty) false [(d.toNat, r.1), (d.toNat + 1, r.2)] [])

def execScan (d a b : F7) (s : State) :=
  issue (Instr.shape (.scan d a b)) s (fun s => withOp s a (fun op z =>
    let l := s.G.laneLeaves (s.G.rdRow b.toNat) z
    let folds := scanFolds op l none
    finishFB s ((Instr.shape (.scan d a b)).getD Shape.empty)
      (scanSlow (stepSlow s.G.mode (s.G.rdS a.toNat).toNat) folds l) [] [laneWrite s.G d.toNat (fun i => folds.getD i 0)]))

def execScanExcl (d a b : F7) (s : State) :=
  issue (Instr.shape (.scanExcl d a b)) s (fun s => withOp s a (fun op z =>
    let l := s.G.laneLeaves (s.G.rdRow b.toNat) z
    let folds := scanFolds op l none
    finishFB s ((Instr.shape (.scanExcl d a b)).getD Shape.empty)
      (scanSlow (stepSlow s.G.mode (s.G.rdS a.toNat).toNat) folds l) []
      [laneWrite s.G d.toNat (fun i => if i = 0 then z else folds.getD (i - 1) 0)]))

/-! ### Votes and BALLOT (R201, R202) -/

def execVoteAll (d a : F7) (s : State) :=
  issue (Instr.shape (.voteAll d a)) s (fun s =>
    finishUni s ((Instr.shape (.voteAll d a)).getD Shape.empty) false
      [(d.toNat, if s.G.active &&& ~~~(s.G.pred a.toNat) = 0 then 1 else 0)] [])

def execVoteAny (d a : F7) (s : State) :=
  issue (Instr.shape (.voteAny d a)) s (fun s =>
    finishUni s ((Instr.shape (.voteAny d a)).getD Shape.empty) false
      [(d.toNat, if s.G.active &&& s.G.pred a.toNat = 0 then 0 else 1)] [])

def execBallot (d a : F7) (s : State) :=
  issue (Instr.shape (.ballot d a)) s (fun s =>
    let g := s.G
    let m := g.active &&& g.pred a.toNat
    finishFB s ((Instr.shape (.ballot d a)).getD Shape.empty) false []
      ((List.range 3).map (fun k => laneWrite g (d.toNat + k) (fun _ => m.extractLsb' (32 * k) 32))))

/-! ### SPREAD (R203) -/

/-- The lane that owns an item and the item's rank in it: lanes with their counts in ascending order, items before them. -/
def spreadOwner : List (Nat × Nat) → Nat → Nat → Option (Nat × Nat)
  | [], _, _ => none
  | (l, c) :: t, before, item =>
    if before ≤ item ∧ item < before + c then some (l, item - before) else spreadOwner t (before + c) item

def execSpread (d a b : F7) (s : State) :=
  issue (Instr.shape (.spread d a b)) s (fun s =>
    let g := s.G
    let lanes := laneList g.active
    let counts := lanes.map (fun l => (l, (g.rdV a.toNat l).toNat))
    let total := counts.foldl (fun n e => n + e.2) 0
    let first := (g.rdS b.toNat).toNat
    let own := fun (i : Nat) => spreadOwner counts 0 (first + lanes.findIdx (· == i))
    finishUni s ((Instr.shape (.spread d a b)).getD Shape.empty) false
      [(b.toNat, BitVec.ofNat 32 (min total (2 ^ 32 - 1)))]
      [laneWrite g d.toNat (fun i => match own i with | some e => BitVec.ofNat 32 e.1 | none => 0xFFFFFFFF),
       laneWrite g (d.toNat + 1) (fun i => match own i with | some e => BitVec.ofNat 32 e.2 | none => 0xFFFFFFFF)])

end Sys2Proof.Machine
end

