-- ==== Sys2Proof/Machine/Access.lean ====
section
/-! DEFINITION. Accesses of groups (09, 14): the checks at issue (R206, R207), the order in which issued accesses are
performed (R209, R220 to R223, R227 to R229, R242, R324), and their completion. -/

namespace Sys2Proof.Machine

/-! ### Queues in memory (R230) -/

/-- A global queue's header. -/
structure QHead where
  ring : DWord
  cap  : Nat
  head : DWord
  tail : DWord
  bad  : Bool
  deriving DecidableEq, Repr

def parseHead (bs : List Byte) : QHead :=
  let cap := fieldAt bs 8 4
  { ring := dwordAt bs 0, cap := cap, head := dwordAt bs 16, tail := dwordAt bs 24,
    bad := (dwordAt bs 0).toNat % 64 != 0 || decide (cap < 128) || decide (2 ^ 24 < cap) || cap != 2 ^ cap.log2 ||
      fieldAt bs 12 4 != 0 || fieldAt bs 32 32 != 0 }

/-- The check of a queue's access to memory, at the home slice, with the group's level and rights (DEDUCED, log entry 8). -/
def queueCheck (s : State) (g : Group) (va : DWord) : Xlat :=
  if va.toNat / 2 ^ 57 ≠ 0 then .fault false
  else match walkLeaf s g.asid va with
    | none => .fault false
    | some f => match leafCheck s { g.who with phys := false } .atomic f va with
      | .hit pa none home => if isHbm pa then .hit pa none home else .fault false
      | .fault d => .fault d
      | _ => .fault false

def queueXlat (s : State) (g : Group) (va : DWord) : Option (Nat × Option Nat) :=
  match queueCheck s g va with
  | .hit pa _ home => some (pa, home)
  | _ => none

/-- The header of an entry of the task's queue table. -/
def headAddr (t : Task) (idx : Nat) : DWord := t.record.qtab + BitVec.ofNat 64 (64 * idx)

/-- The addresses of `k` elements from element `j` on. -/
def QHead.elems (h : QHead) (j : DWord) (k : Nat) : List DWord :=
  (List.range k).map (fun i => h.ring + BitVec.ofNat 64 (4 * ((j.toNat + i) % max 1 h.cap)))

/-- The pieces of a ring that one leaf check covers (R320, R428): at most 4 KiB each. -/
def ringPieces (h : QHead) : List (Nat × Nat) := units (h.cap / 1024 + 2) h.ring.toNat (4 * h.cap)

/-- What an operation on a global queue has checked at its issue, in the operation's accesses: the header first, then the pieces of
the ring, each with its translation (R207, R230). -/
def queueAccs (s : State) (g : Group) (name : Word) : List Acc :=
  match s.task? g.task with
  | none => []
  | some t =>
    let a := headAddr t (name.extractLsb' 0 16).toNat
    match queueXlat s g a with
    | none => []
    | some (pa, home) =>
      ⟨0, a, pa, 64, none, home, [], 0, 0⟩ ::
        (ringPieces (parseHead (homeBytes s home pa 64))).filterMap (fun p =>
          (queueXlat s g (BitVec.ofNat 64 p.1)).map (fun x => ⟨0, BitVec.ofNat 64 p.1, x.1, p.2, none, x.2, [], 0, 0⟩))

/-- The queue of an operation as it was checked, with HEAD and TAIL as they stand now (R207: no check is made again). -/
def queueHead (s : State) (p : Pend) : Option QHead :=
  match p.accs with
  | a :: r :: rest =>
    some { parseHead (homeBytes s a.home a.pa 64) with
      ring := r.va, cap := (r :: rest).foldl (fun n x => n + x.size) 0 / 4 }
  | _ => none

/-- Where an address of the queue's memory stands, as the operation's issue translated it. -/
def queuePlace (p : Pend) (va : DWord) : Option (Nat × Option Nat) :=
  (p.accs.find? (fun a => decide (a.va.toNat ≤ va.toNat) && decide (va.toNat < a.va.toNat + a.size))).map (fun a =>
    (a.pa + (va.toNat - a.va.toNat), a.home))

/-- The bytes of memory that an operation on a global queue touches now: its header, the elements. -/
def queueSpans (s : State) (p : Pend) (push : Bool) (k : Nat) : List (Nat × Nat) :=
  match p.accs, queueHead s p with
  | a :: _, some h => (a.pa, 64) :: (h.elems (if push then h.tail else h.head) k).filterMap (fun a =>
      (queuePlace p a).map (fun x => (x.1, 4)))
  | _, _ => []

/-- The FIFO bank that an index names among those the dealer gave the team (R230). -/
def fifoBank (s : State) (g : Group) (idx : Nat) : Option Nat :=
  if g.kind = .started ∨ g.kind = .spawned then (s.team? g.team).bind (fun t => t.fifo[idx]?) else none

/-! ### Kinds of issued instructions -/

/-- Loads, atomics and pops: what an acquire orders (R221). -/
def Pend.loads (p : Pend) : Bool :=
  match p.body with
  | .load _ _ | .loadConv _ _ _ _ | .poolLoad _ | .atom _ | .qpop _ _ => true
  | _ => false

/-- Stores and atomics, and the writes of barrier objects: what a release waits for (R221). -/
def Pend.stores (p : Pend) : Bool :=
  match p.body with
  | .store | .poolStore | .atom _ | .boset _ _ | .boadd _ _ => true
  | _ => false

def Pend.pushes (p : Pend) : Bool :=
  match p.body with
  | .qpush _ _ => true
  | _ => false

/-- Accesses to memory. -/
def Pend.access (p : Pend) : Bool := p.loads || p.stores || p.pushes

/-- A wait on a barrier object, or a test of one. -/
def Pend.waits (p : Pend) : Bool :=
  match p.body with
  | .bowait _ _ | .bopoll _ _ => true
  | _ => false

/-- An access to the pool. -/
def Pend.pool (p : Pend) : Bool :=
  match p.body with
  | .poolLoad _ | .poolStore | .boset _ _ | .boadd _ _ | .bowait _ _ | .bopoll _ _ => true
  | _ => false

/-- Some bytes of memory: where they are held, their address, how many. -/
structure Span where
  rem  : Option Nat
  pa   : Nat
  size : Nat
  deriving DecidableEq, Repr

def Span.meets (a b : Span) : Bool :=
  decide (a.pa < b.pa + b.size) && decide (b.pa < a.pa + a.size) && a.rem == b.rem

/-- The name of the queue that an operation acts on, and whether it pushes. -/
def queueName (p : Pend) : Option (Word × Bool) :=
  match p.body with
  | .qpush n _ => some (n, true)
  | .qpop n _ => some (n, false)
  | _ => none

/-- Elements that a queue operation moves (R232). -/
def Pend.elems (p : Pend) : Nat :=
  match p.body with
  | .qpush _ els => els.length
  | .qpop _ form => if form = 0 then laneCount p.lanes else 1
  | _ => 0

/-- The bytes that an instruction accesses; of a global queue, its header and the elements it would move now (R230). -/
def spansOf (s : State) (p : Pend) : List Span :=
  match queueName p with
  | some (_, push) => (queueSpans s p push p.elems).map (fun e => ⟨none, e.1, e.2⟩)
  | none => p.accs.map (fun a => ⟨a.rem, a.pa, a.size⟩)

/-- A push and a pop at one queue: each waits for its own turn and room or elements there (R233). -/
def otherKind (p q : Pend) : Bool :=
  match queueName p, queueName q with
  | some (m, k), some (n, l) => m == n && k != l
  | _, _ => false

/-- Two accesses of a group touch a common byte of one space (R209); a push and a pop at one queue have no order by that. -/
def overlaps (s : State) (p q : Pend) : Bool :=
  p.pool == q.pool && !otherKind p q && (spansOf s p).any (fun a => (spansOf s q).any a.meets)

/-! ### Fences (R220, R221, R340, R341) -/

/-- Scopes at which a store is performed once it has entered the buffer (R220). -/
def nearScope : Scope → Bool
  | .group | .core => true
  | _ => false

/-- Outside the buffer and acknowledged, or reported as refused. -/
def Pend.settled (p : Pend) : Bool := p.done && p.left == 0

/-- The prior set of a fence (R220, R346). -/
def inPrior (f x : Pend) : Bool := decide (x.id < f.id) && (decide (x.id < f.formed) || f.ids.contains x.sid)

/-- R341: every entry of the core's buffer taken before the release has been acknowledged. -/
def bufferClear (s : State) (core mark : Nat) : Bool := !(s.core core).sgb.any (fun e => decide (e.seq < mark))

/-- A store to another package, or to host memory. -/
def Pend.farStore (p : Pend) : Bool := p.accs.any (fun a => a.rem.isSome)
def Pend.hostStore (p : Pend) : Bool := p.accs.any (fun a => a.rem.isNone && a.pa / 2 ^ 48 == 8)

/-- A store that leaves the buffer's sight: a wide enough scope waits for its acknowledgement or refusal (R222, R327). -/
def Pend.outside (p : Pend) (q : Scope) : Bool :=
  p.stores && ((q == .fabric && p.farStore) || ((q == .package || q == .fabric) && p.hostStore))

/-- R340: the stores that the package's groups have made to other packages and to host memory before the release are acknowledged too, as
far as the scope reaches: a group that has acquired them, through whatever chain, carries them. -/
def allClear (s : State) (mark : Nat) (q : Scope) : Bool :=
  s.groups.all (fun e => e.2.kind == .vacant || e.2.pends.all (fun x =>
    !(x.done && x.outside q && decide (x.mark ≤ mark)) || x.settled))

/-- The stores and atomics of the prior set are performed at the scope (R221), with what the release carries (R340,
R341). -/
def releaseHolds (s : State) (g : Group) (f : Pend) (q : Scope) : Bool :=
  g.pends.all (fun x => !(inPrior f x && x.stores) || (if nearScope q then x.done else x.settled)) &&
  (nearScope q || (bufferClear s g.core f.seen && allClear s f.seen q))

/-- The loads, atomics and pops of the prior set have completed. -/
def acquireHolds (g : Group) (f : Pend) : Bool := g.pends.all (fun x => !(inPrior f x && x.loads) || x.done)

/-- The pushes of the prior set have been taken by their queues. -/
def pushesHold (g : Group) (f : Pend) : Bool := g.pends.all (fun x => !(inPrior f x && x.pushes) || x.done)

/-- The stores of the prior set that a fence of the scope waits for whatever its order are acknowledged or refused (R222,
R327). -/
def outsideHolds (g : Group) (f : Pend) (q : Scope) : Bool :=
  g.pends.all (fun x => !(inPrior f x && x.outside q) || x.settled)

/-- When a FENCE completes (R221, R222, R327). -/
def fenceHolds (s : State) (g : Group) (f : Pend) (o : FenceOrder) (q : Scope) : Bool :=
  outsideHolds g f q &&
  match o with
  | .rel => releaseHolds s g f q
  | .acq => acquireHolds g f
  | .full => releaseHolds s g f q && acquireHolds g f && pushesHold g f

/-- The fence binds a later access of its split. -/
def binds (f p : Pend) : Bool := decide (f.id < p.id) && p.ids.contains f.sid

/-- An order keeps an access from being performed. -/
def holdsBack (o : FenceOrder) (p : Pend) : Bool :=
  match o with
  | .rel => p.stores || p.pushes
  | .acq => p.loads
  | .full => true

/-- R324: an earlier instruction of those that are performed in issue order is not performed yet. -/
def lineBehind (g : Group) (p : Pend) : Bool :=
  p.lined && g.pends.any (fun q => decide (q.id < p.id) && q.lined && !q.done)

/-- The waiting operations that a save withdraws (R378 step 2). -/
def Pend.waiting (p : Pend) : Bool :=
  match p.body with
  | .qpush _ _ | .qpop _ _ | .bowait _ _ | .bopoll _ _ | .bwait _ _ | .rawait _ _ | .rpoll _ | .timewait _ | .bar _ | .kcommit _ | .ordb _ | .orde _
  | .klocate => true
  | _ => false

/-- The team of a group is being saved or is saved. -/
def State.leaving (s : State) (g : Group) : Bool :=
  (g.kind == .started || g.kind == .spawned) &&
  (match s.team? g.team with | some t => t.saving || t.saved | none => false)

/-- A withdrawn operation is not performed (R378), but for one whose register a word of the current clause may have to
wait for: that clause must end (DEDUCED, log entry 26). -/
def State.withdrawn (s : State) (g : Group) (p : Pend) : Bool :=
  s.leaving g && p.waiting && !(g.clause.isSome && p.dst.any (fun r => isPredReg r || decide (12 ≤ p.clause.fa)))

/-- Two operations on one queue: the same team's bank or the same header. -/
def sameQueue (s : State) (g h : Group) (m n : Word) : Bool :=
  if m.getLsbD 31 ≠ n.getLsbD 31 then false
  else if m.getLsbD 31 then
    g.asid == h.asid && (match s.task? g.task, s.task? h.task with
      | some t, some u => headAddr t (m.extractLsb' 0 16).toNat == headAddr u (n.extractLsb' 0 16).toNat
      | _, _ => false)
  else g.team == h.team && m == n

/-- Another operation of the same kind reached the queue before this one (R233). -/
def queueBehind (s : State) (g : Group) (p : Pend) (name : Word) (push : Bool) : Bool :=
  s.groups.any (fun e => e.2.kind != .vacant && e.2.pends.any (fun q =>
    q.arrived != 0 && decide (q.arrived < p.arrived) && !s.withdrawn e.2 q && match queueName q with
      | some (n, k) => k == push && sameQueue s e.2 g n name
      | none => false))

/-- An earlier pop and a later push of a split at one queue: the push goes first, and may serve the pop, once the pop is the next that the queue
serves; until then the pop comes first, as for everything after it (R233, R234, R334; DEDUCED, log entry 48). -/
def servesOwn (s : State) (g : Group) (q p : Pend) : Bool :=
  p.pushes && otherKind q p && q.arrived != 0 && match queueName q with
    | some (n, _) => !queueBehind s g q n false
    | none => false

/-- An earlier issued instruction keeps a later one from being performed: by the log (R324), by a common byte (R209), as a fence or an
ordered atomic (R221, R223), as a barrier, an observation or a wait (R227, R229, R288), or as a pop, which comes before everything
after it in its split (R234, R334). -/
def blocks (s : State) (g : Group) (q p : Pend) : Bool :=
  decide (q.id < p.id) && !q.settled &&
  ((q.missed && q.memory) ||
   ((!q.done || q.accs.any (fun a => a.rem.isSome || !isHbm a.pa)) && q.access && (p.access || p.waits) && overlaps s q p) ||
   (binds q p && match q.body with
    | .fence o _ | .order o _ => holdsBack o p
    | .bar _ | .kcommit _ | .ordb _ | .orde _ | .bowait _ _ | .bopoll _ _ | .rawait _ _ => true
    | .qpop _ _ => !servesOwn s g q p
    | .atom _ =>
      match q.order with
      | .relaxed => false
      | .acq => p.loads
      | .rel => (p.stores || p.pushes) && !releaseHolds s g q q.scope
      | .full => true
    | _ => false) ||
   (match q.body with | .bwait _ _ => true | _ => false))

/-- What is left of an acquire that acted while earlier loads of its prior set had not completed (R221, R223), and of a
release that completed before an earlier pop (R340): later accesses go on waiting. -/
def Group.orderLeft (g : Group) (p : Pend) (o : FenceOrder) (q : Scope) : Group :=
  let needed := match o with
    | .rel => !nearScope q && g.pends.any (fun x => inPrior p x && !x.done && match x.body with | .qpop _ _ => true | _ => false)
    | _ => !acquireHolds g p
  if needed then
    { g with pends := g.pends ++ [{ p with body := .order o q, flag := none, dst := [], accs := [], done := false, lined := false,
                                           killed := [], entry := none, left := 0 }] }
  else g

/-- R340: a release behind an atomic or a pop carries what that one has acquired. -/
def Group.lift (g : Group) (x : Pend) (seq : Nat) : Group :=
  { g with pends := g.pends.map (fun p => if inPrior p x then { p with seen := max p.seen seq } else p) }

/-- When what is left of an order is over. -/
def orderHolds (s : State) (g : Group) (p : Pend) (o : FenceOrder) (q : Scope) : Bool :=
  match o with
  | .rel => releaseHolds s g p q && g.pends.all (fun x => !(inPrior p x && x.loads) || x.done)
  | _ => acquireHolds g p

/-- What an ordered atomic, a push or an invocation waits for before it acts (R223, R234): everything before a push or an
invocation in its split happens before what follows from it (R334). -/
def ownFence (s : State) (g : Group) (p : Pend) : Bool :=
  match p.body with
  | .atom _ =>
    match p.order with
    | .rel => releaseHolds s g p p.scope
    | .full => releaseHolds s g p p.scope && acquireHolds g p && pushesHold g p
    | _ => true
  | .qpush _ _ => releaseHolds s g p p.scope && pushesHold g p &&
      g.pends.all (fun x => !(inPrior p x && x.loads) || x.done || servesOwn s g x p)
  | .rinv _ => releaseHolds s g p .fabric && acquireHolds g p && pushesHold g p
  | _ => true

/-- The access may be performed now. -/
def mayPerform (s : State) (g : Group) (p : Pend) : Bool :=
  !p.missed && !p.done && !s.withdrawn g p && !lineBehind g p && g.pends.all (fun q => !blocks s g q p) && ownFence s g p

/-- R221, R309, R341: a waiting release of team scope or wider sends the buffer entries it needs. -/
def pushEntries (s : State) (g : Group) (p : Pend) : State :=
  let wide : Bool := match p.body with
    | .fence .acq _ | .order .acq _ => false
    | .fence _ q | .order _ q => !(nearScope q)
    | .bar _ | .kcommit _ | .ordb _ | .orde _ | .rinv _ => true
    | .atom _ => (p.order == .rel || p.order == .full) && !(nearScope p.scope)
    | .qpush _ _ => true
    | _ => false
  if wide then
    let mine := g.pends.filter (fun x => inPrior p x && x.stores)
    sgbSend s g.core (fun e => decide (e.seq < p.seen) || mine.any (fun x => e.who.any (fun w => w.1 == s.cur && w.2 == x.id)))
  else s

/-! ### Changing issued instructions -/

def Group.findPend (g : Group) (id : Nat) : Option Pend := g.pends.find? (fun p => p.id == id)

def Group.setPend (g : Group) (p : Pend) : Group :=
  { g with pends := g.pends.map (fun q => if q.id = p.id then p else q) }

def Group.dropPend (g : Group) (id : Nat) : Group := { g with pends := g.pends.filter (fun q => q.id != id) }

/-- Frees the log entry an instruction was reissued from (R38, R324), unless the entry is of a fault not yet resolved. -/
def Group.freeEntry (g : Group) (p : Pend) : Group :=
  match p.entry with
  | some k => if g.ovr = some k then g else { g with log := mdel g.log k }
  | none => g

/-- An instruction completes (R205): results written, the flag lowered, the log entry freed. -/
def Group.complete (g : Group) (p : Pend) (ws : List RegWrite) : Group :=
  ((g.applyWrites p ws).dropPend p.id).freeEntry p |>.flagDown p.flag

/-- A store has been handed over: its flag falls; it stays until it is acknowledged. -/
def Group.handOver (g : Group) (p : Pend) : Group :=
  let g := (g.freeEntry p).flagDown p.flag
  if p.left = 0 then g.dropPend p.id else g.setPend { p with done := true, flag := none, entry := none }

/-- One access of an instruction is acknowledged (R37). -/
def Group.ack (g : Group) (id : Nat) : Group :=
  let g := g.xferDown 1
  match g.findPend id with
  | some p =>
    let p := { p with left := p.left - 1 }
    if p.settled && p.refused.isNone then g.dropPend id else g.setPend p
  | none => g

/-- One access of a store is refused (R222, R327, R416). -/
def Group.ackRefused (g : Group) (id : Nat) (va : DWord) : Group :=
  let g := g.xferDown 1
  match g.findPend id with
  | some p => g.setPend { p with left := p.left - 1, refused := some (p.refused.getD va) }
  | none => g

/-- The frame notes which instruction is to be issued again (R42), and the split that it issued in. -/
def Group.markLate (g : Group) (a : Again) (sid : Nat) : Group :=
  { g with frame := g.frame.map (fun f => { f with late := a, lateSid := sid }) }

/-- A fault that comes after its instruction has issued (R324, R213): precise at that word. It has a log entry unless all
eight are in use (R302). One that comes while the group is in a handler is a double fault, also where its word is from before the
handler's entry, of which R303 does not speak (DESIGN CHOICE, log entry 38). -/
def lateFault (s : State) (p : Pend) (t : Trap) : State :=
  let g := s.G
  let slot := match p.entry with | some k => some k | none => g.freeLog
  let e : LogEntry := { p.proto with
    cause := tcauseWord true 0 t.cause, lanes := t.lanes, addr := t.addr, seq := g.logSeq,
    src := p.proto.src ++ t.words.map SrcWord.uni }
  let g := match slot with
    | some k => { g with log := mput g.log k e, logSeq := g.logSeq + 1 }
    | none => g
  let g := ((g.dropPend p.id).flagDown p.flag).xferDown p.left
  let s := enterHandler (s.setG g) e.cause t.info p.pc t.addr (if slot.isSome then 0 else 1) slot true (some p.clause)
  s.setG (s.G.markLate (some (p.id, p.killed)) p.sid)

/-! ### Issuing global accesses (R206, R207) -/

/-- The address of an affine and of a varying form (R206). -/
def Group.affAddr (g : Group) (a b : F7) (i : Nat) : DWord := (g.rdA a.toNat).lane i + (g.rdS b.toNat).signExtend 64
def Group.varAddr (g : Group) (a : F7) (i : Nat) : DWord := g.rdV2 a.toNat i

/-- What a global access wants: its kind and size, each lane's byte address, data, compared value; `bypass` for
`.BYP`. -/
structure Want where
  kind  : AccKind
  size  : Nat
  align : Nat
  addr  : Nat → DWord
  data  : Nat → List (Byte × Byte)
  cmp   : Nat → Word
  byp   : Bool

/-- A precise trap over some lanes, with the address of the lowest. -/
def laneTrap (cause : Nat) (lanes : Mask) (addr : Nat → DWord) : Trap :=
  { Trap.of cause with lanes := lanes, addr := addr ((lowestLane lanes).getD 0) }

/-- One lane's access as translated. -/
def Want.acc (w : Want) (x : Xlat) (i : Nat) : Acc :=
  let base : Acc := ⟨i, w.addr i, 0, w.size, none, none, w.data i, w.cmp i, 0⟩
  match x with
  | .hit pa rem home => { base with pa := pa, rem := rem, home := home }
  | _ => base

/-- The pages that some lanes miss. -/
def missPages (xs : List (Nat × Xlat)) : List Nat :=
  (xs.filterMap (fun e => match e.2 with | .miss p => some p | _ => none)).eraseDups

/-- The lanes whose leaf checks fail; whether an access table denied one of them. -/
def faultLanes (xs : List (Nat × Xlat)) : Mask :=
  xs.foldl (fun m e => match e.2 with | .fault _ => m ||| BitVec.ofNat 96 (2 ^ e.1) | _ => m) 0

def anyDenied (xs : List (Nat × Xlat)) : Bool :=
  xs.any (fun e => match e.2 with | .fault d => d | _ => false)

/-- R317: the lanes whose load would consume uncorrectable data. -/
def badLanes (s : State) (g : Group) (w : Want) (xs : List (Nat × Xlat)) : Mask :=
  if w.kind = .write then 0
  else xs.foldl (fun m e => match e.2 with
    | .hit pa none home =>
      if isHbm pa && (if w.kind = .atomic then spanBad s home pa w.size
          else loadBad s g.core (g.l1Tag (w.addr e.1) w.byp) pa home w.size w.byp)
      then m ||| BitVec.ofNat 96 (2 ^ e.1) else m
    | _ => m) 0

/-- Adds the misses of some pages, and says whether the 64 miss slots hold all of them: a further one waits (R321). -/
def addMisses (s : State) (g : Group) (kind : AccKind) : List Nat → State × Bool
  | [] => (s, true)
  | p :: ps =>
    if missRoom s (clusterOf g.core) g.asid p then addMisses (s.addMiss g.who kind.code p) g kind ps else (s, false)

/-- Issues a global access: checks 5 to 10 of R207, then the access waits to be performed; with a miss, it waits in the
operand log (R324). A word that finds no room for all its pages stays at issue, and faults there where the walk of one ends without a
fill (R322). `fix` completes the record. -/
def issueGlobal (s : State) (sh : Shape) (w : Want) (fix : Pend → Pend) (body : PendBody) : Res :=
  let g := s.G
  let lanes := laneList g.active
  let high := maskOf (fun i => g.active.getLsbD i && (w.addr i).toNat / 2 ^ 57 != 0)
  let odd := maskOf (fun i => g.active.getLsbD i && (w.addr i).toNat % w.align != 0)
  if high ≠ 0 then .trap (laneTrap 15 high w.addr)
  else if odd ≠ 0 then .trap (laneTrap 16 odd w.addr)
  else if 65535 < g.xfer + lanes.length then .stall
  else
    let xs := lanes.map (fun i => (i, translate s g.who w.kind (w.addr i)))
    let p := fix { g.mkPend sh g.fa body with
      accs := xs.map (fun e => w.acc e.2 e.1), left := lanes.length, mark := s.seq }
    let up := fun (s : State) => s.setG { s.G with xfer := s.G.xfer + lanes.length }
    match missPages xs with
    | [] =>
      let bad := faultLanes xs
      if bad ≠ 0 then
        if anyDenied xs then
          .trapIn (s.deny (g.vf + 1) (BitVec.ofNat 32 w.kind.code) (laneTrap 23 bad w.addr).addr) (laneTrap 23 bad w.addr)
        else .trap (laneTrap 23 bad w.addr)
      else
        let unc := badLanes s g w xs
        if unc ≠ 0 then .trap (laneTrap 22 unc w.addr) else .ok (up (s.addPend p))
    | pages =>
      let failed := maskOf (fun i => g.active.getLsbD i && pages.contains (pageOf (w.addr i)) &&
        g.pageWaits.contains (pageOf (w.addr i), true))
      let idle := s.setG { g with pageWaits := [] }
      if failed ≠ 0 then .trapIn idle (laneTrap 23 failed w.addr)
      else match addMisses s g w.kind pages with
      | (s', false) =>
        let s' := s'.setG { s'.G with pageWaits := pages.map (fun p => (p, false)) }
        if s' = s then .stall else .done s'
      | (s, true) =>
        let (g', k) := { g with pageWaits := [] }.putEntry (g.mkEntry sh 0 { Trap.of 0 with lanes := 0 } true)
        .ok (up ((s.setG g').addPend { p with missed := true, entry := k }))

/-! ### The pool (R215, R216) -/

/-- The team's scratch banks, none for a group without a team. -/
def scratchOf (s : State) (g : Group) : List Nat :=
  if g.kind = .started ∨ g.kind = .spawned then match s.team? g.team with | some t => t.scratch | none => [] else []

/-- The address in the cluster's pool of an offset of the team's scratch area. -/
def poolAddr (banks : List Nat) (off : Nat) : Nat := 65536 * banks.getD (off / 65536) 0 + off % 65536

/-- The group has acquired the bytes of its completed gathers that arrived at an object of the pool (R227, R329). -/
def Group.acquireObj (g : Group) (s : State) (a : Nat) : Group :=
  { g with gathers := g.gathers.filter (fun x =>
      x.bo == 0xFFFFFFFF || poolAddr (scratchOf s g) x.bo.toNat != a || s.cmds.any (fun c => c.id == x.id)) }

/-- R207 check 7: 0 in order, else the cause: 17 ownership, 18 role. -/
def poolCause (s : State) (g : Group) (off size : Nat) : Nat :=
  let banks := scratchOf s g
  let cl := s.cluster (clusterOf g.core)
  if 65536 * banks.length < off + size then 17
  else if (List.range ((off + size - 1) / 65536 + 1 - off / 65536)).all (fun k =>
      (mgetD cl.banks (banks.getD (off / 65536 + k) 0) Bank.empty).role == 1) then 0
  else 18

/-- A team's pool offset (R215). -/
def Group.poolOff (g : Group) (a b : F7) (i : Nat) : Nat := ((g.rdV a.toNat i) + g.rdS b.toNat).toNat

/-- Issues a pool access. -/
def issuePool (s : State) (sh : Shape) (size : Nat) (off : Nat → Nat) (data : Nat → List (Byte × Byte)) (body : PendBody) : Res :=
  let g := s.G
  let act := fun (f : Nat → Bool) => maskOf (fun i => g.active.getLsbD i && f i)
  let addr := fun i => BitVec.ofNat 64 (off i)
  let odd := act (fun i => off i % size != 0)
  let own := act (fun i => poolCause s g (off i) size == 17)
  let role := act (fun i => poolCause s g (off i) size == 18)
  if odd ≠ 0 then .trap (laneTrap 16 odd addr)
  -- check 7 names no order of its two faults: ownership first (DESIGN CHOICE, log entry 48)
  else if own ≠ 0 then .trap (laneTrap 17 own addr)
  else if role ≠ 0 then .trap (laneTrap 18 role addr)
  else .ok (s.addPend { g.mkPend sh g.fa body with
    mark := s.seq, accs := (laneList g.active).map (fun i =>
      ⟨i, addr i, poolAddr (scratchOf s g) (off i), size, none, none, data i, 0, 0⟩) })

/-! ### Barrier objects (R224 to R227) -/

/-- The fields of a barrier object, little-endian in its 16 bytes. -/
structure BarrierObj where
  filled : Word
  quota  : Word
  epoch  : Word
  overrun : Bool
  deriving DecidableEq, Repr

def State.pool (s : State) (cluster : Nat) : List Host.Cell := (s.cluster cluster).pool

def State.setPool (s : State) (cluster : Nat) (m : List Host.Cell) : State :=
  s.setCluster cluster { s.cluster cluster with pool := m }

def readObj (m : List Host.Cell) (a : Nat) : BarrierObj :=
  let bs := bgetN m a 16
  ⟨leWord (bs.take 4), leWord ((bs.drop 4).take 4), leWord ((bs.drop 8).take 4), (bs.getD 12 0).getLsbD 0⟩

def writeObj (m : List Host.Cell) (a : Nat) (o : BarrierObj) : List Host.Cell :=
  bputN m a (leBytes 4 o.filled.toNat ++ leBytes 4 o.quota.toNat ++ leBytes 4 o.epoch.toNat ++
    leBytes 4 (if o.overrun then 1 else 0))

/-- reached(t) of R225. -/
def BarrierObj.reached (o : BarrierObj) (t : Word) : Bool := !(o.epoch - t).getLsbD 31

/-- An engine arrival of `b` bytes (R226). -/
def arrive (o : BarrierObj) (b : Nat) : BarrierObj :=
  let f := min (o.filled.toNat + b) (2 ^ 32 - 1)
  let q := o.quota.toNat
  if q = 0 then { o with filled := BitVec.ofNat 32 f }
  else
    let n := f / q
    { o with filled := BitVec.ofNat 32 (f % q), epoch := o.epoch + BitVec.ofNat 32 n,
             overrun := o.overrun || decide (n ≠ 0 ∧ q < f) }

end Sys2Proof.Machine
end

