-- ==== Sys2Proof/Machine/Memory.lean ====
section
/-! DEFINITION. Memory, atomic and synchronisation instructions at their issue (09, R204 to R235): class 101. What is
issued here is performed by the events of MemEvents.lean. -/

namespace Sys2Proof.Machine

/-- `issue` for meanings that need their own shape. -/
def issueWith (sh : Option Shape) (s : State) (body : Shape → State → Res) : Host.Outcome State Fault Refusal :=
  issue sh s (body (sh.getD Shape.empty))

/-- An instruction that acts only when some lane is active (R208). -/
def ifActive (s : State) (r : Res) : Res := if s.G.anyActive then r else .ok s

/-! ### Global loads and stores (R210) -/

/-- The low bytes of a data field in a lane. -/
def Group.dataBytes (g : Group) (d : F7) (w : Width) (i : Nat) : List Byte :=
  ((List.range w.regs).flatMap (fun k => leBytes 4 (g.rdV (d.toNat + k) i).toNat)).take w.bytes

/-- A load or a store of one width. -/
def loadWant (w : Width) (addr : Nat → DWord) (byp : Bool) : Want :=
  { kind := .read, size := w.bytes, align := w.bytes, addr := addr, data := fun _ => [], cmp := fun _ => 0, byp := byp }

def storeWant (g : Group) (d : F7) (w : Width) (addr : Nat → DWord) : Want :=
  { kind := .write, size := w.bytes, align := w.bytes, addr := addr,
    data := fun i => wholeBytes (g.dataBytes d w i), cmp := fun _ => 0, byp := true }

def execLd (d a b : F7) (w : Width) (byp : Bool) (s : State) :=
  issueWith (Instr.shape (.ld d a b w byp)) s (fun sh s =>
    ifActive s (issueGlobal s sh (loadWant w (s.G.affAddr a b) byp) id (.load w byp)))

def execLdVaryingAddress (d a : F7) (w : Width) (byp : Bool) (s : State) :=
  issueWith (Instr.shape (.ldVaryingAddress d a w byp)) s (fun sh s =>
    ifActive s (issueGlobal s sh (loadWant w (s.G.varAddr a) byp) id (.load w byp)))

def execSt (d a b : F7) (w : Width) (s : State) :=
  issueWith (Instr.shape (.st d a b w)) s (fun sh s =>
    ifActive s (issueGlobal s sh (storeWant s.G d w (s.G.affAddr a b)) id .store))

def execStVaryingAddress (d a : F7) (w : Width) (s : State) :=
  issueWith (Instr.shape (.stVaryingAddress d a w)) s (fun sh s =>
    ifActive s (issueGlobal s sh (storeWant s.G d w (s.G.varAddr a)) id .store))

/-! ### Conversions (R214) -/

/-- The descriptor and scale of a conversion: none where R207 check 4 fails. -/
def Group.convFmt (g : Group) (m : BitVec 2) : Option (Word × Word) :=
  let f := g.fmt m.toNat
  let sc := if fmtScale f = 2 then g.scaleAt m.toNat else 0x3F800000
  if !fmtValid f || fmtScale f == 1 || (fmtScale f == 2 && scaleBad sc) then none else some (f, sc)

/-- The scale register is not ready (R41). -/
def Group.scaleWait (g : Group) (m : BitVec 2) : Bool :=
  fmtScale (g.fmt m.toNat) == 2 && interlocked g [.s (fmtSreg (g.fmt m.toNat))]

/-- A lane's byte address and the bits of that byte which are its element. -/
def convSpot (f : Word) (a : DWord) : DWord × Byte :=
  if (fmtOf f).nibble then (a >>> 1, if a.getLsbD 0 then 0xF0 else 0x0F) else (a, 0xFF)

/-- The seed or the scale register of a conversion is not ready, or the conversion goes on. -/
def withConv (s : State) (m : BitVec 2) (k : Word → Word → Res) : Res :=
  let g := s.G
  if !g.anyActive then .ok s
  else if g.scaleWait m || (modeRnd g.mode == 5 && interlocked g [.s (2 * modeSeed g.mode), .s (2 * modeSeed g.mode + 1)])
  then .stall
  else match g.convFmt m with
    | none => .trap { Trap.of 7 with lanes := g.active }
    | some (f, sc) => k f sc

def ldcAt (s : State) (sh : Shape) (m : BitVec 2) (addr : Nat → DWord) (byp : Bool) : Res :=
  let g := s.G
  withConv s m (fun f sc =>
    issueGlobal s sh
      { kind := .read, size := 1, align := 1, addr := fun i => (convSpot f (addr i)).1,
        data := fun i => [(0, (convSpot f (addr i)).2)], cmp := fun i => BitVec.ofNat 32 (g.rnd i 0).word, byp := byp }
      id (.loadConv f sc g.mode byp))

/-- The byte that an STC writes for a lane, with its bits (R107, R214). -/
def stcByte (g : Group) (f sc : Word) (d : F7) (a : DWord) (i : Nat) : Byte × Byte :=
  let code := toNarrow f (g.rnd i 0) (f32 (g.rdV d.toNat i)) (f32 sc)
  let m := (convSpot f a).2
  (BitVec.ofNat 8 (if m = 0xF0 then 16 * code else code), m)

def stcAt (s : State) (sh : Shape) (m : BitVec 2) (d : F7) (addr : Nat → DWord) : Res :=
  let g := s.G
  withConv s m (fun f sc =>
    issueGlobal s sh
      { kind := .write, size := 1, align := 1, addr := fun i => (convSpot f (addr i)).1,
        data := fun i => [stcByte g f sc d (addr i) i], cmp := fun _ => 0, byp := true }
      id .store)

def execLdc (d a b : F7) (m : BitVec 2) (byp : Bool) (s : State) :=
  issueWith (Instr.shape (.ldc d a b m byp)) s (fun sh s => ldcAt s sh m (s.G.affAddr a b) byp)

def execLdcVaryingAddress (d a : F7) (m : BitVec 2) (byp : Bool) (s : State) :=
  issueWith (Instr.shape (.ldcVaryingAddress d a m byp)) s (fun sh s => ldcAt s sh m (s.G.varAddr a) byp)

def execStc (d a b : F7) (m : BitVec 2) (s : State) :=
  issueWith (Instr.shape (.stc d a b m)) s (fun sh s => stcAt s sh m d (s.G.affAddr a b))

def execStcVaryingAddress (d a : F7) (m : BitVec 2) (s : State) :=
  issueWith (Instr.shape (.stcVaryingAddress d a m)) s (fun sh s => stcAt s sh m d (s.G.varAddr a))

/-! ### Pool loads and stores (R215) -/

def execLdp (d a b : F7) (w : Width) (s : State) :=
  issueWith (Instr.shape (.ldp d a b w)) s (fun sh s =>
    ifActive s (issuePool s sh w.bytes (s.G.poolOff a b) (fun _ => []) (.poolLoad w)))

def execStp (d a b : F7) (w : Width) (s : State) :=
  issueWith (Instr.shape (.stp d a b w)) s (fun sh s =>
    ifActive s (issuePool s sh w.bytes (s.G.poolOff a b) (fun i => wholeBytes (s.G.dataBytes d w i)) .poolStore))

/-! ### Barrier objects (R225) -/

/-- The object that an offset names, after R207 checks 6 and 7; `k` gets its address in the pool. -/
def withObject (s : State) (off : Nat) (k : Nat → Res) : Res :=
  let g := s.G
  let t := fun (c : Nat) => Res.trap { Trap.of c with lanes := g.active, addr := BitVec.ofNat 64 off }
  if off % 16 ≠ 0 then t 16
  else match poolCause s g off 16 with
    | 0 => k (poolAddr (scratchOf s g) off)
    | c => t c

/-- R207: a BOSET or BOADD of the group on the object has not been performed. -/
def objectBusy (g : Group) (pa : Nat) : Bool :=
  g.pends.any (fun p => !p.done && match p.body with
    | .boset a _ | .boadd a _ => a == pa
    | _ => false)

/-- R324: an instruction that had to wait for its page is not performed yet; a later one that acts at its issue waits. -/
def loggedWaits (g : Group) : Bool := g.pends.any (fun q => q.memory && !q.done && q.lined)

/-- The access of a barrier-object instruction: the object's 16 bytes in the pool. -/
def objectAccs (pa : Nat) : List Acc := [⟨0, 0, pa, 16, none, none, [], 0, 0⟩]

/-- The record of a barrier-object instruction. -/
def objectPend (s : State) (sh : Shape) (pa : Nat) (body : PendBody) : State :=
  s.addPend { s.G.mkPend sh s.G.fa body with mark := s.seq, accs := objectAccs pa }

def boTrap (g : Group) : Res := .trap { Trap.of 19 with lanes := g.active }

def execBoset (a b : F7) (s : State) :=
  issueWith (Instr.shape (.boset a b)) s (fun sh s =>
    ifActive s (withObject s (s.G.rdS a.toNat).toNat (fun pa =>
      let q := s.G.rdS b.toNat
      if objectBusy s.G pa then .stall
      else if q = 0 ∨ 2 ^ 31 ≤ q.toNat then boTrap s.G
      else .ok (objectPend s sh pa (.boset pa q)))))

def execBoadd (a b : F7) (s : State) :=
  issueWith (Instr.shape (.boadd a b)) s (fun sh s =>
    ifActive s (withObject s (s.G.rdS a.toNat).toNat (fun pa =>
      let q := s.G.rdS b.toNat
      let old := (readObj (s.pool (clusterOf s.G.core)) pa).quota
      if objectBusy s.G pa then .stall
      else if old = 0 ∨ 2 ^ 31 ≤ old.toNat + q.toNat then boTrap s.G
      else .ok (objectPend s sh pa (.boadd pa q)))))

def execBowait (a b : F7) (s : State) :=
  issueWith (Instr.shape (.bowait a b)) s (fun sh s =>
    ifActive s (withObject s (s.G.rdS a.toNat).toNat (fun pa =>
      .ok (objectPend s sh pa (.bowait pa (s.G.rdS b.toNat))))))

/-- Nothing issued before keeps a test, of a barrier object or of a handle, from being made now (R209, R221, R227, R229, R324). -/
def pollFree (s : State) (p : Pend) : Bool := !loggedWaits s.G && s.G.pends.all (fun q => !blocks s s.G q p)

/-- BOPOLL (R225): it completes at once, unless something issued before must be performed first. -/
def execBopoll (d a b : F7) (s : State) :=
  issueWith (Instr.shape (.bopoll d a b)) s (fun sh s =>
    ifActive s (withObject s (s.G.rdS a.toNat).toNat (fun pa =>
      if pollFree s { s.G.mkPend sh none (.bopoll pa (s.G.rdS b.toNat)) with accs := objectAccs pa } then
        let t := (readObj (s.pool (clusterOf s.G.core)) pa).reached (s.G.rdS b.toNat)
        writeP (if t then l1Drop (s.setG (s.G.acquireObj s pa)) s.G.core else s) d.toNat (fun _ => t)
      else .ok (objectPend s sh pa (.bopoll pa (s.G.rdS b.toNat))))))

/-! ### BAR, FENCE, PREF -/

/-- A barrier or fence waits under the clause's flag; it remembers which buffer entries were taken before it (R341). -/
def waitPend (s : State) (sh : Shape) (body : PendBody) : Res :=
  .ok ((s.addPend { s.G.mkPend sh s.G.fa body with mark := s.seq }).tick1)

/-- BAR (R228): a group that the record did not start has no part in the count. -/
def execBar (s : State) :=
  issueWith (Instr.shape .bar) s (fun sh s =>
    let g := s.G
    if !g.whole then .trap (g.splitTrap 21)
    else if g.kind = .started then
      waitPend (s.setG { g with bars := g.bars + 1 }) sh (.bar (g.bars + 1))
    else waitPend s sh (.fence .full .team))

def execFence (o : FenceOrder) (q : Scope) (s : State) :=
  issueWith (Instr.shape (.fence o q)) s (fun sh s => waitPend s sh (.fence o q))

/-- One lane of PREF: the line comes into the core's L1 when every check passes. A page that misses the TLB is dropped like
one that fails, without a walk (DESIGN CHOICE, log entry 48). -/
def prefLane (s : State) (va : DWord) : State :=
  let g := s.G
  if va.toNat / 2 ^ 57 ≠ 0 then s
  else match translate s g.who .read va with
    | .hit pa none home =>
      if isHbm pa && !loadBad s g.core (g.l1Tag va false) pa home 1 false then
        (loadBytes s g.core (g.l1Tag va false) pa home 1 false).2
      else s
    | _ => s

def execPref (a : F7) (s : State) :=
  issueWith (Instr.shape (.pref a)) s (fun _ s =>
    let g := s.G
    .ok ((laneList g.active).foldl (fun s i => prefLane s ((g.rdA a.toNat).lane i)) s))

/-! ### Atomics (R217) -/

/-- An atomic: the base pair and scope stand in the A field. -/
def atomIssue (s : State) (sh : Shape) (d a b : F7) (o : AtomOrder) (op : AtomOp) : Res :=
  let g := s.G
  let base := g.rdS2 (2 * (a.toNat % 16))
  ifActive s (issueGlobal s sh
    { kind := .atomic, size := 4, align := 4,
      addr := fun i => base + (g.rdV d.toNat i).zeroExtend 64,
      data := fun i => wholeBytes (leBytes 4 (g.rdV b.toNat i).toNat),
      cmp := fun i => if op = .cas then g.rdV (d.toNat + 1) i else 0, byp := true }
    (fun p => { p with order := o, scope := Scope.ofCode (a.toNat / 16), dst := [.v d.toNat] })
    (.atom op))

def execAtomAddI32 (d a b : F7) (o : AtomOrder) (s : State) :=
  issueWith (Instr.shape (.atomAddI32 d a b o)) s (fun sh s => atomIssue s sh d a b o .addI32)
def execAtomAddF32 (d a b : F7) (o : AtomOrder) (s : State) :=
  issueWith (Instr.shape (.atomAddF32 d a b o)) s (fun sh s => atomIssue s sh d a b o .addF32)
def execAtomMinI32 (d a b : F7) (o : AtomOrder) (s : State) :=
  issueWith (Instr.shape (.atomMinI32 d a b o)) s (fun sh s => atomIssue s sh d a b o .minI32)
def execAtomMinN32 (d a b : F7) (o : AtomOrder) (s : State) :=
  issueWith (Instr.shape (.atomMinN32 d a b o)) s (fun sh s => atomIssue s sh d a b o .minN32)
def execAtomMaxI32 (d a b : F7) (o : AtomOrder) (s : State) :=
  issueWith (Instr.shape (.atomMaxI32 d a b o)) s (fun sh s => atomIssue s sh d a b o .maxI32)
def execAtomMaxN32 (d a b : F7) (o : AtomOrder) (s : State) :=
  issueWith (Instr.shape (.atomMaxN32 d a b o)) s (fun sh s => atomIssue s sh d a b o .maxN32)
def execAtomXchg (d a b : F7) (o : AtomOrder) (s : State) :=
  issueWith (Instr.shape (.atomXchg d a b o)) s (fun sh s => atomIssue s sh d a b o .xchg)
def execAtomCas (d a b : F7) (o : AtomOrder) (s : State) :=
  issueWith (Instr.shape (.atomCas d a b o)) s (fun sh s => atomIssue s sh d a b o .cas)
def execAtomAnd (d a b : F7) (o : AtomOrder) (s : State) :=
  issueWith (Instr.shape (.atomAnd d a b o)) s (fun sh s => atomIssue s sh d a b o .and)
def execAtomOr (d a b : F7) (o : AtomOrder) (s : State) :=
  issueWith (Instr.shape (.atomOr d a b o)) s (fun sh s => atomIssue s sh d a b o .or)
def execAtomXor (d a b : F7) (o : AtomOrder) (s : State) :=
  issueWith (Instr.shape (.atomXor d a b o)) s (fun sh s => atomIssue s sh d a b o .xor)

/-! ### Queues (R230 to R234) -/

/-- The first place of a ring that the queue cannot reach. -/
def ringReach (s : State) (g : Group) (h : QHead) : Option DWord :=
  ((ringPieces h).find? (fun p => (queueXlat s g (BitVec.ofNat 64 p.1)).isNone)).map (fun p => BitVec.ofNat 64 p.1)

/-- An element that a pop would take from uncorrectable memory as the queue stands (R207 check 10). -/
def badElem (s : State) (g : Group) (h : QHead) (count : Nat) : Option DWord :=
  (h.elems h.head (min count (h.tail - h.head).toNat)).find? (fun a =>
    match queueXlat s g a with
    | some (pa, home) => spanBad s home pa 4
    | none => false)

/-- R231, with the translation of a global queue's header and ring (R207 check 9): none in order. -/
def queueTrap (s : State) (g : Group) (name : Word) (count : Nat) (push : Bool) : Option Trap :=
  let t := fun (c : Nat) (a : DWord) => some { Trap.of c with lanes := g.active, addr := a }
  let idx := (name.extractLsb' 0 16).toNat
  let resv := name.extractLsb' 16 15 != 0
  if !name.getLsbD 31 then
    match fifoBank s g idx with
    | none => t 20 0
    | some b =>
      if (mgetD (s.cluster (clusterOf g.core)).banks b Bank.empty).role ≠ 2 then t 18 0
      else if resv || decide (16384 < count) then t 20 0 else none
  else if resv then t 20 0
  else match s.task? g.task with
    | none => t 20 0
    | some k =>
      if k.record.qcount.toNat ≤ idx then t 20 0
      else
        let a := headAddr k idx
        match queueXlat s g a with
        | none => t 23 a
        | some (pa, home) =>
          if spanBad s home pa 64 then t 22 a
          else
            let h := parseHead (homeBytes s home pa 64)
            if h.bad || decide (h.cap < count) then t 20 0
            else match ringReach s g h with
              | some b => t 23 b
              | none =>
                if push then none
                else (badElem s g h count).bind (fun b => t 22 b)

/-- The access tables deny the place where a queue operation's check failed (R429). -/
def queueDenied (s : State) (g : Group) (t : Trap) : Bool := t.cause == 23 && queueCheck s g t.addr == .fault true

/-- Issues a queue operation: it goes to its queue once the order rules let it (R233), with the translations of its issue (R207). A denial is
posted (R429). -/
def issueQueue (s : State) (sh : Shape) (name : Word) (count : Nat) (body : PendBody) : Res :=
  let g := s.G
  match queueTrap s g name count (match body with | .qpush _ _ => true | _ => false) with
  | some t =>
    if queueDenied s g t then .trapIn (s.deny (g.vf + 1) (BitVec.ofNat 32 AccKind.atomic.code) t.addr) t else .trap t
  | none =>
    .ok ((s.addPend { g.mkPend sh g.fa body with
      mark := s.seq, accs := if name.getLsbD 31 then queueAccs s g name else [],
      scope := if name.getLsbD 31 then .package else .team }).tick1)

def execQpush (a b : F7) (s : State) :=
  issueWith (Instr.shape (.qpush a b)) s (fun sh s =>
    let g := s.G
    let els := (laneList g.active).map (g.rdV b.toNat)
    ifActive s (issueQueue s sh (g.rdS a.toNat) els.length (.qpush (g.rdS a.toNat) els)))

def execQpushUniform (a b : F7) (s : State) :=
  issueWith (Instr.shape (.qpushUniform a b)) s (fun sh s =>
    let g := s.G
    ifActive s (issueQueue s sh (g.rdS a.toNat) 1 (.qpush (g.rdS a.toNat) [g.rdS b.toNat])))

def execQpop (d a : F7) (s : State) :=
  issueWith (Instr.shape (.qpop d a)) s (fun sh s =>
    let g := s.G
    ifActive s (issueQueue s sh (g.rdS a.toNat) (laneCount g.active) (.qpop (g.rdS a.toNat) 0)))

def execQpopUniform (d a : F7) (s : State) :=
  issueWith (Instr.shape (.qpopUniform d a)) s (fun sh s =>
    let g := s.G
    if !g.whole then .trap (g.splitTrap 4)
    else ifActive s (issueQueue s sh (g.rdS a.toNat) 1 (.qpop (g.rdS a.toNat) 1)))

def execQpopElect (d a : F7) (s : State) :=
  issueWith (Instr.shape (.qpopElect d a)) s (fun sh s =>
    let g := s.G
    ifActive s (issueQueue s sh (g.rdS a.toNat) 1 (.qpop (g.rdS a.toNat) 2)))

end Sys2Proof.Machine
end

