-- ==== Sys2Proof/Machine/Perform.lean ====
section
/-! DEFINITION. Performing issued accesses (09, 13): loads, stores, atomics, pool accesses, fences, barrier objects and
queues, each as one attempt that answers none while it cannot go on. All act on the current group. -/

namespace Sys2Proof.Machine

/-- Runs an update for another group. -/
def withGroup (s : State) (gid : Nat) (f : State → State) : State :=
  { f { s with cur := gid } with cur := s.cur }

/-- The parts of an access that other packages hold. -/
def Pend.far (p : Pend) : List Acc := p.accs.filter (fun a => a.rem.isSome)

def Pend.setAcc (p : Pend) (a : Acc) : Pend :=
  { p with accs := p.accs.map (fun b => if b.lane = a.lane then a else b) }

/-- R415, R416: a refusal is posted in the log of the group's virtual function. -/
def postRefusal (s : State) (g : Group) (cause : Nat) (va : DWord) : State :=
  s.post (g.vf + 1) 3 (g.vf + 1) (BitVec.ofNat 32 cause) va

/-- A refused load or atomic: cause 33, precisely at its instruction (R416, R327). -/
def refuseLoad (s : State) (p : Pend) (lane : Nat) (va : DWord) : State :=
  lateFault s p { Trap.of 33 with lanes := BitVec.ofNat 96 (2 ^ lane), addr := va }

/-- The host transfer timeout in nanoseconds (R327).
R327 gives the time for 0 to 14; the four bits of R426 may hold 15, for which the same formula is taken (log entry 51, DESIGN CHOICE). -/
def hostTimeoutNs (d : Device) : Nat := 64000 * 2 ^ d.htmo

/-- An access through the host-memory aperture (R424). -/
def Acc.host (a : Acc) : Bool := a.rem.isNone && aperture a.pa == some 8

/-- The time in which host memory may answer an access is over (R327). -/
def hostLate (s : State) (p : Pend) : Bool := decide ((addNs p.born (hostTimeoutNs s.dev)).toNat ≤ s.clock.toNat)

/-- The task in whose open ordered phase a group's accesses are, 0 outside one. -/
def phaseId (s : State) (g : Group) : Nat := if (phaseLines s g.task).isSome then g.task else 0

/-- A task's groups have written another package in the phase. -/
def noteAway (s : State) (tid pkg : Nat) : State :=
  match s.task? tid with
  | some t => if (t.inPhase || t.begun) && !t.wrote.contains pkg then s.setTask tid { t with wrote := t.wrote ++ [pkg] } else s
  | none => s

/-- Who makes an access of a group to another package, in which phase; `first`: no earlier lane of the instruction touches the line (R397). -/
def senderOf (s : State) (p : Pend) (a : Acc) : Sender :=
  ⟨s.G.level, p.wkey, p.wgroup,
   !p.accs.any (fun b => decide (b.lane < a.lane) && b.rem == a.rem && b.pa / 128 == a.pa / 128), phaseId s s.G⟩

/-- The lanes of an instruction that go out with a lane in one message, in ascending order, so that no access of another party to
a byte falls between them (R208): those in its 16 bytes, `unit` 16, or on its word, `unit` 4. -/
def matesOf (p : Pend) (unit : Nat) (a : Acc) : List Acc :=
  p.far.filter (fun b => b.rem == a.rem && b.pa / unit == a.pa / unit)

/-- Sends a request for the remote lanes that have none out (class 0 loads, class 1 atomics); none where a lane has no
route. -/
def sendParts (s : State) (p : Pend) (unit cls : Nat) (body : List Acc → Acc → MsgBody) : State × Pend × Option Acc :=
  (p.far.filter (fun a => a.st == 0)).foldl (fun r a =>
    match r.2.2, a.rem with
    | none, some pkg =>
      if (r.2.1.accs.find? (fun b => b.lane == a.lane)).any (fun b => b.st != 0) then r
      else match sendMsg r.1 cls (quarterOf r.1.G.core) pkg (homeQuarter a.pa) .accepted a.lane (body (matesOf p unit a) a)
          (some (r.1.cur, p.id, a.lane)) with
      | some s' => (if cls = 1 then noteAway s' s'.G.task pkg else s', (matesOf p unit a).foldl (fun q b => q.setAcc { b with st := 1 }) r.2.1, none)
      | none => (r.1, r.2.1, some a)
    | _, _ => r) (s, p, none)

/-- The message of a load of some lanes: the bytes from the lowest to the highest that they touch. -/
def loadBody (s : State) (p : Pend) (mates : List Acc) (a : Acc) : MsgBody :=
  let lo := mates.foldl (fun n b => min n b.pa) a.pa
  let hi := mates.foldl (fun n b => max n (b.pa + b.size)) (a.pa + a.size)
  .load s.G.asid (a.va - BitVec.ofNat 64 (a.pa - lo)) (BitVec.ofNat 64 lo) (hi - lo) (senderOf s p a)

/-- The message of an atomic of some lanes on one word. -/
def atomBody (op : AtomOp) (s : State) (p : Pend) (mates : List Acc) (a : Acc) : MsgBody :=
  .atom op s.G.asid a.va (BitVec.ofNat 64 a.pa) (mates.map (fun b => (leWord (b.data.map Prod.fst), b.cmp))) (senderOf s p a)

/-! ### Loads (R210, R211, R214) -/

/-- Another party's access to a byte of a load or of a store, one of the two a write, could be performed now, or its store has been and is not
visible here: neither happens before the other (R336). -/
def metElsewhere (s : State) (g : Group) (a : Acc) (write : Bool) : Bool :=
  let sp : Span := ⟨a.rem, a.pa, a.size⟩
  s.groups.any (fun e => e.1 != s.cur && e.2.kind != .vacant && e.2.pends.any (fun q =>
    !q.pool && q.access && (write || q.stores) && (spansOf s q).any sp.meets && mayPerform s e.2 q)) ||
  s.cores.any (fun c => c.1 != g.core && c.2.sgb.any (fun e =>
    e.cells.any (fun x => decide (a.pa ≤ 128 * e.pline + x.1) && decide (128 * e.pline + x.1 < a.pa + a.size))))

/-- The core's L1 would serve bytes that another party has written at their home since. -/
def staleHit (s : State) (g : Group) (a : Acc) (byp : Bool) : Bool :=
  match g.l1Tag a.va byp with
  | none => false
  | some t => match l1Find (s.core g.core) t.1 t.2 with
    | none => false
    | some l =>
      let cs := sgbCells (s.core g.core) (a.pa / 128)
      let cut := fun (line : List Byte) => ((overlay line cs).drop (a.pa % 128)).take a.size
      cut l.data != cut (homeLine s a.home (a.pa / 128))

/-- A race of the task's accesses has been met. -/
def State.racy (s : State) (g : Group) : Bool := match s.task? g.task with | some t => t.racy | none => false

/-- R336, R337: a race shows as a load is performed, outside the task's ordered phase (DESIGN CHOICE, log entry 32: which races show), or one
has shown before. -/
def raced (s : State) (g : Group) (a : Acc) (byp : Bool) : Bool :=
  s.racy g || ((phaseLines s g.task).isNone && (metElsewhere s g a false || staleHit s g a byp))

/-- The same as a store is performed. -/
def racedStore (s : State) (g : Group) (a : Acc) : Bool :=
  s.racy g || ((phaseLines s g.task).isNone && metElsewhere s g a true)

/-- The task's results and its later values in memory are undefined (R337): what its loads bring and what its stores write is free from then on. -/
def State.setRacy (s : State) (g : Group) : State :=
  match s.task? g.task with
  | some t => s.setTask g.task { t with racy := true }
  | none => s

/-- The bytes of one lane's load. -/
def loadAcc (s : State) (byp : Bool) (a : Acc) : Acc × State :=
  let g := s.G
  let keep := fun (bs : List Byte) =>
    { a with data := (List.range bs.length).map (fun k => (bs.getD k 0, (a.data.getD k (0, 0xFF)).2)), st := 2 }
  if a.rem.isSome then (a, s)
  else if isHbm a.pa then
    if raced s g a byp then
      let (n, s) := (s.setRacy g).draw
      (keep (leBytes a.size n), s)
    else
      let (bs, s) := loadBytes s g.core (g.l1Tag a.va byp) a.pa a.home a.size byp
      (keep bs, s)
  else
    let (bs, s) := apertureRead s a.pa a.size
    (keep bs, s)

def loadAccs (s : State) (byp : Bool) : List Acc → List Acc × State
  | [] => ([], s)
  | a :: t =>
    let (x, s) := loadAcc s byp a
    let (xs, s) := loadAccs s byp t
    (x :: xs, s)

/-- Register `k` of a loaded field in a lane. -/
def fieldWord (accs : List Acc) (k lane : Nat) : Word :=
  match accs.find? (fun a => a.lane == lane) with
  | some a => leWord (((a.data.map Prod.fst).drop (4 * k)).take 4)
  | none => 0

/-- The register writes of a load of a width. -/
def loadWrites (p : Pend) (accs : List Acc) : List RegWrite :=
  (List.range p.dst.length).filterMap (fun k =>
    (p.dst[k]?).map (fun r => ⟨r, mkRow (fieldWord accs k), p.lanes⟩))

/-- The element of a conversion load in a lane (R107, R112, R214). -/
def convWord (fmt scale mode : Word) (accs : List Acc) (lane : Nat) : Word :=
  match accs.find? (fun a => a.lane == lane) with
  | some a =>
    let e := a.data.headD (0, 0)
    let code := if e.2 = 0xF0 then e.1.toNat / 16 else (e.1 &&& e.2).toNat
    let r : Rnd := ⟨modeRnd mode, modeSat mode, a.cmp.toNat⟩
    BitVec.ofNat 32 (fp32.round r (narrowValue fmt code (f32 scale)))
  | none => 0

/-- Lines of memory that an access reads. -/
def Pend.lines (p : Pend) : List Nat :=
  p.accs.flatMap (fun a => if a.rem.isNone && isHbm a.pa then linesOf a.pa a.size else [])

/-- R103: a lane's conversion on load meets a subnormal: its element, its scale or its result. Whether a non-zero element of a format
without exponent bits is one R108 does not say: it is taken as one (DESIGN CHOICE, log entry 37). -/
def convSlow (fmt scale : Word) (accs : List Acc) (lane : Nat) : Bool :=
  match accs.find? (fun a => a.lane == lane) with
  | some a =>
    let e := a.data.headD (0, 0)
    let code := if e.2 = 0xF0 then e.1.toNat / 16 else (e.1 &&& e.2).toNat
    (fmtOf fmt).subnormal code || fp32.subnormal scale.toNat || fp32.tiny (narrowValue fmt code (f32 scale))
  | none => false

/-- A load has its bytes: it is complete, or the replay of its conversion goes on (R103). -/
def Group.loaded (g : Group) (p : Pend) (slow : Bool) (ws : List RegWrite) : Group :=
  if slow then g.setPend { p with body := .replay, writes := ws, accs := [], left := 0 } else g.complete p ws

/-- R213: a load of lines that another cell has written in the phase finds what the task has written, not an older copy in its core's L1. -/
def dropConflicts (s : State) (g : Group) (key : DWord) (ls : List Nat) : State :=
  match phaseLines s g.task with
  | some ps => l1DropLines s g.core (ls.filter (fun l => conflictLines ps key [l] != 0))
  | none => s

/-- A load is performed once its remote parts have answered. -/
def tryLoad (s : State) (p : Pend) (byp : Bool) (slow : List Acc → Bool) (value : List Acc → List RegWrite) : Option State :=
  if !mayPerform s s.G p then none
  else if p.far.any (fun a => a.st == 0) then
    match sendParts s p 16 0 (loadBody s p) with
    | (s', p', none) => some (s'.setG (s'.G.setPend p'))
    | (s', p', some a) => some (refuseLoad (postRefusal s' s'.G 4 a.va) p' a.lane a.va)
  else if p.far.any (fun a => a.st == 1) then none
  else if p.accs.any Acc.host && hostLate s p then none
  else match hostAnswers s (p.accs.filter Acc.host) with
    | (some a, s) => some (refuseLoad (postHost s s.G.vf a.va) p a.lane a.va)
    | (none, s) =>
      let (accs, s) := loadAccs (dropConflicts s s.G p.wkey p.lines) byp p.accs
      let s := countConflicts s s.G.task p.wkey p.lines
      some (s.setG ((s.G.xferDown p.left).loaded p (slow accs) (value accs)))

/-! ### Stores (R210, R212, R309) -/

/-- A lane of a store as it is performed: its bytes are free where it races (R337). -/
def storedAcc (s : State) (a : Acc) : Acc × State :=
  if a.data.any (fun e => e.2 != 0) && (a.rem.isSome || isHbm a.pa) && racedStore s s.G a then
    let (n, s) := (s.setRacy s.G).draw
    let bs := leBytes a.data.length n
    ({ a with data := (List.range a.data.length).map (fun k => (bs.getD k 0, (a.data.getD k (0, 0)).2)) }, s)
  else (a, s)

/-- Hands one lane's data over: to the store-gathering buffer, an aperture or the fabric. None where the buffer is
full. -/
def storeAcc (s : State) (p : Pend) (a : Acc) : Option (State × Pend) :=
  let (a, s) := storedAcc s a
  let g := s.G
  if a.data.all (fun e => e.2 == 0) then
    some (s.setG (g.xferDown 1), { p.setAcc { a with st := 2 } with left := p.left - 1 })
  else match a.rem with
  | some pkg =>
    match sendMsg s 1 (quarterOf g.core) pkg (homeQuarter a.pa) .accepted a.lane
        (.store g.asid a.va (BitVec.ofNat 64 a.pa) a.data (senderOf s p a)) (some (s.cur, p.id, a.lane)) with
    | some s' => some (noteAway s' g.task pkg, p.setAcc { a with st := 1 })
    | none =>
      let s' := postRefusal s g 4 a.va
      some (s'.setG (g.xferDown 1),
        { p.setAcc { a with st := 2 } with left := p.left - 1, refused := some (p.refused.getD a.va) })
  | none =>
    if isHbm a.pa then
      (sgbPut s g.core (a.pa / 128) a.home
        ⟨phaseId s g, p.wkey, p.wgroup, lineCells (a.pa / 128) a.pa a.data⟩ (s.cur, p.id)).map
        (fun s' => (s', p.setAcc { a with st := 2 }))
    else if aperture a.pa = some 8 then some (s, p.setAcc { a with st := 1 })
    else
      let s' := apertureWrite s (g.vf + 1) a.pa (a.data.map Prod.fst)
      some (s'.setG (s'.G.xferDown 1), { p.setAcc { a with st := 2 } with left := p.left - 1 })

/-- Hands over the lanes in ascending order (R208) as far as the buffer has room. -/
def storeAccs (s : State) (p : Pend) : List Acc → State × Pend × Bool
  | [] => (s, p, true)
  | a :: t =>
    if a.st ≠ 0 then storeAccs s p t
    else match storeAcc s p a with
      | some (s', p') => storeAccs s' p' t
      | none => (s, p, false)

/-- R208: of the lanes of one store that reach a byte of memory the highest leaves its value, and no access of another
party falls between them: what a higher lane overwrites is not handed over. -/
def stripLanes : List Acc → List Acc
  | [] => []
  | a :: t =>
    let hides := fun (k : Nat) => t.foldl (fun (m : Byte) (b : Acc) =>
      if a.rem == b.rem && isHbm a.pa && decide (b.pa ≤ a.pa + k) then m ||| (b.data.getD (a.pa + k - b.pa) (0, 0)).2 else m) 0
    { a with data := (List.range a.data.length).map (fun k =>
        let e := a.data.getD k (0, 0)
        (e.1, e.2 &&& ~~~(hides k))) } :: stripLanes t

/-- A store goes to the buffer; a full buffer sends its oldest entry (R309). -/
def tryStore (s : State) (p : Pend) : Option State :=
  if !mayPerform s s.G p then none
  else match storeAccs s { p with accs := stripLanes p.accs } (stripLanes p.accs) with
    | (s', p', true) => some (s'.setG ((s'.G.setPend p').handOver p'))
    | (s', p', false) =>
      if (s'.core s'.G.core).sgb.all (fun e => e.sent) then (if p' = p then none else some (s'.setG (s'.G.setPend p')))
      else some (sgbSendOldest (s'.setG (s'.G.setPend p')) s'.G.core)

/-- Host memory answers a store already handed over, in time: it acknowledges or refuses it (R327, R424). -/
def ackHost (s : State) (p : Pend) : Option State :=
  match p.accs.find? (fun a => a.rem.isNone && a.st == 1) with
  | some a =>
    if hostLate s p then none
    else match hostAnswers s [a] with
      | (some _, s) =>
        let s := postHost s s.G.vf a.va
        some (s.setG ((s.G.setPend (p.setAcc { a with st := 2 })).ackRefused p.id a.va))
      | (none, s) => some (s.setG ((s.G.setPend (p.setAcc { a with st := 2 })).ack p.id))
  | none => none

/-! ### Atomics (R217 to R219, R223) -/

/-- An atomic on bytes of an aperture. -/
def apertureAtom (s : State) (master pa : Nat) (op : AtomOp) (y cmp : Word) : Word × State :=
  let (bs, s) := apertureRead s pa 4
  let old := leWord bs
  (old, apertureWrite s master pa (leBytes 4 (atomStep op old y cmp).toNat))

/-- One lane of an atomic. -/
def atomLane (s : State) (p : Pend) (op : AtomOp) (a : Acc) : Acc × State :=
  let g := s.G
  let y := leWord (a.data.map Prod.fst)
  if a.rem.isSome then (a, s)
  else
    let (old, s) :=
      if isHbm a.pa then atomAt s a.home a.pa op y a.cmp g.task p.wkey p.wgroup
      else apertureAtom s (g.vf + 1) a.pa op y a.cmp
    ({ a with data := wholeBytes (leBytes 4 old.toNat), st := 2 }, s)

def atomLanes (s : State) (p : Pend) (op : AtomOp) : List Acc → List Acc × State
  | [] => ([], s)
  | a :: t =>
    let (x, s) := atomLane s p op a
    let (xs, s) := atomLanes s p op t
    (x :: xs, s)

/-- Entries of the core's buffer for lines that an access names go home first (R309, R218). -/
def clearLines (s : State) (ls : List Nat) : Option State :=
  let c := s.core s.G.core
  let mine := c.sgb.filter (fun e => ls.contains e.pline)
  if mine.isEmpty then none
  else if mine.all (fun e => e.sent) then some s
  else some (sgbSend s s.G.core (fun e => ls.contains e.pline))

/-- A waiting release sends what it needs; none when nothing changes. -/
def tryPush (s : State) (p : Pend) : Option State :=
  let s' := pushEntries s s.G p
  if s' = s then none else some s'

def tryAtom (s : State) (p : Pend) (op : AtomOp) : Option State :=
  if !mayPerform s s.G p then tryPush s p
  else match clearLines s p.lines with
    | some s' => if s' = s then none else some s'
    | none =>
      if p.far.any (fun a => a.st == 0) then
        match sendParts s p 4 1 (atomBody op s p) with
        | (s', p', none) => some (s'.setG (s'.G.setPend p'))
        | (s', p', some a) => some (refuseLoad (postRefusal s' s'.G 4 a.va) p' a.lane a.va)
      else if p.far.any (fun a => a.st == 1) then none
      else if p.accs.any Acc.host && hostLate s p then none
      else match hostAnswers s (p.accs.filter Acc.host) with
      | (some a, s) => some (refuseLoad (postHost s s.G.vf a.va) p a.lane a.va)
      | (none, s) =>
        let (accs, s) := atomLanes s p op p.accs
        let s := if (p.order == .acq || p.order == .full) && !nearScope p.scope then l1Drop s s.G.core
          else l1DropLines s s.G.core p.lines
        let g := ((s.G.xferDown p.left).complete p (loadWrites p accs)).lift p s.seq
        some (s.setG (if p.order == .acq then g.orderLeft p .acq p.scope else g))

/-! ### The pool (R215, R216, R225) -/

def State.myPool (s : State) : List Host.Cell := s.pool (clusterOf s.G.core)
def State.setMyPool (s : State) (m : List Host.Cell) : State := s.setPool (clusterOf s.G.core) m

def poolRead (m : List Host.Cell) (a : Acc) : Acc := { a with data := wholeBytes (bgetN m a.pa a.size), st := 2 }

def tryPool (s : State) (p : Pend) : Option State :=
  if !mayPerform s s.G p then none
  else match p.body with
    | .poolLoad _ => some (s.setG (s.G.complete p (loadWrites p (p.accs.map (poolRead s.myPool)))))
    | .poolStore =>
      let s := s.setMyPool (p.accs.foldl (fun m a => bputN m a.pa (a.data.map Prod.fst)) s.myPool)
      some (s.setG (s.G.complete p []))
    | .boset a q =>
      let s := s.setMyPool (writeObj s.myPool a (BarrierObj.mk 0 q 0 false))
      some (s.setG (s.G.complete p []))
    | .boadd a q =>
      let o := readObj s.myPool a
      let s := s.setMyPool (writeObj s.myPool a { o with quota := o.quota + q })
      some (s.setG (s.G.complete p []))
    | .bowait a t =>
      if (readObj s.myPool a).reached t then some ((l1Drop s s.G.core).setG ((s.G.acquireObj s a).complete p [])) else none
    | .bopoll a t =>
      let ok := (readObj s.myPool a).reached t
      let s := if ok then l1Drop (s.setG (s.G.acquireObj s a)) s.G.core else s
      some (s.setG (s.G.complete p (p.dst.map (fun r => ⟨r, mkRow (fun _ => if ok then 1 else 0), p.lanes⟩))))
    | _ => none

/-! ### Fences (R220 to R222) -/

/-- The prior accesses with a refused store that a fence of a scope reports (R222, R327). -/
def refusedBefore (g : Group) (f : Pend) (q : Scope) : List Pend :=
  g.pends.filter (fun x => inPrior f x && x.settled && x.refused.isSome && x.outside q)

/-- A fence that reports a refused store makes the remote-store trap pending, with the first one's address (R301): the
earliest issued of them, and its lane that was refused first (DESIGN CHOICE, log entry 48). -/
def reportRefused (g : Group) (f : Pend) (q : Scope) : Group :=
  match refusedBefore g f q with
  | [] => g
  | x :: xs =>
    let gone := (x :: xs).map Pend.id
    let g := { g with pends := g.pends.filter (fun y => !gone.contains y.id) }
    if g.tpend.any (fun t => t.code == 43) then g
    else { g with tpend := g.tpend ++ [⟨43, 0, x.refused.getD 0, 0⟩] }

def tryFence (s : State) (p : Pend) (o : FenceOrder) (q : Scope) : Option State :=
  if fenceHolds s s.G p o q && !lineBehind s.G p then
    let s := if o != .rel && !nearScope q then l1Drop s s.G.core else s
    let g := (s.G.complete p []).orderLeft p o q
    some (s.setG (reportRefused g p q))
  else tryPush s p

/-- What is left of an order ends; a wide acquire empties the L1 again before the accesses that waited for it (R220). -/
def tryOrder (s : State) (p : Pend) (o : FenceOrder) (q : Scope) : Option State :=
  if orderHolds s s.G p o q then
    let s := if o != .rel && !nearScope q then l1Drop s s.G.core else s
    some (s.setG (s.G.dropPend p.id))
  else tryPush s p

/-! ### Queues (R230 to R234) -/

/-- Elements of an operation's queue, oldest first, with its free room. -/
def queueLook (s : State) (p : Pend) (name : Word) (n : Nat) : Option (List Word × Nat) :=
  let g := s.G
  let idx := (name.extractLsb' 0 16).toNat
  if !name.getLsbD 31 then
    (fifoBank s g idx).map (fun b =>
      let f := (mgetD (s.cluster (clusterOf g.core)).banks b Bank.empty).fifo
      (f.take n, 16384 - f.length))
  else
    (queueHead s p).map (fun h =>
      let have_ := (h.tail - h.head).toNat
      let word := fun (a : DWord) =>
        match queuePlace p a with
        | some y => leWord (homeBytes s y.2 y.1 4)
        | none => 0
      ((h.elems h.head (min n have_)).map word, h.cap - have_))

/-- One element or counter written by a queue's home slice: no store, atomic or engine write, it belongs to no cell of a phase
(R278). -/
def queueWrite (s : State) (p : Pend) (va : DWord) (bs : List Byte) : State :=
  match queuePlace p va with
  | some x => spanWrite s x.2 x.1 0 0 0 (wholeBytes bs)
  | none => s

/-- Takes elements from the front, or adds them at the end, and moves HEAD or TAIL. -/
def queueMove (s : State) (p : Pend) (name : Word) (pushed : List Word) (popped : Nat) : State :=
  let g := s.G
  let idx := (name.extractLsb' 0 16).toNat
  if !name.getLsbD 31 then
    match fifoBank s g idx with
    | some b =>
      let c := clusterOf g.core
      let cl := s.cluster c
      let k := mgetD cl.banks b Bank.empty
      s.setCluster c { cl with banks := mput cl.banks b { k with fifo := k.fifo.drop popped ++ pushed } }
    | none => s
  else match p.accs, queueHead s p with
    | a :: _, some h =>
      let s := ((h.elems h.tail pushed.length).zip pushed).foldl (fun s e =>
        queueWrite s p e.1 (leBytes 4 e.2.toNat)) s
      let s := if popped = 0 then s else queueWrite s p (a.va + 16) (leBytes 8 (h.head + BitVec.ofNat 64 popped).toNat)
      if pushed = [] then s else queueWrite s p (a.va + 24) (leBytes 8 (h.tail + BitVec.ofNat 64 pushed.length).toNat)
    | _, _ => s

/-- The register writes of a pop. -/
def popWrites (p : Pend) (form : Nat) (els : List Word) : List RegWrite :=
  let lanes := laneList p.lanes
  p.dst.map (fun r => match form with
    | 0 => ⟨r, mkRow (fun i => els.getD (lanes.idxOf i) 0), p.lanes⟩
    | 1 => ⟨r, [els.headD 0], 1⟩
    | _ => ⟨r, mkRow (fun _ => els.headD 0), p.lanes⟩)

/-- The uniform ones of some register writes. -/
def uniWrites (ws : List RegWrite) : List (Nat × Word) :=
  ws.filterMap (fun w => match w.reg with | .s n => some (n, w.row.at 0) | _ => none)

/-- R18 for results that arrive later. -/
def emptiesOnWrite (g : Group) (ws : List RegWrite) : Bool := g.emptiesMask (uniWrites ws)

/-- Lines that an operation on a global queue names: the core's buffer sends its entries for them (R309). -/
def queueLines (s : State) (p : Pend) (name : Word) (push : Bool) : List Nat :=
  if !name.getLsbD 31 then [] else (queueSpans s p push p.elems).map (fun e => e.1 / 128)

/-- The operation reaches its queue (R233). -/
def arriveAt (s : State) (p : Pend) : State := (s.setG (s.G.setPend { p with arrived := s.seq })).tick1

/-- QUEUE_OP_SERVE: the operation reaches its queue once the order rules let it, and is served when it is its turn and the
elements or the room are there. -/
def tryQueue (s : State) (p : Pend) : Option State :=
  match queueName p with
  | none => none
  | some (name, push) =>
    if !mayPerform s s.G p then tryPush s p
    else if p.arrived = 0 then some (arriveAt s p)
    else if queueBehind s s.G p name push then none
    else match clearLines s (queueLines s p name push) with
      | some s' => if s' = s then none else some s'
      | none =>
        match p.body with
        | .qpush _ els =>
          match queueLook s p name 0 with
          | some (_, room) =>
            if room < els.length then none
            else
              let ls := queueLines s p name push
              let s := l1DropLines (queueMove s p name els 0) s.G.core ls
              some (s.setG (s.G.complete p []))
          | none => none
        | .qpop _ form =>
          let n := p.elems
          match queueLook s p name n with
          | some (els, _) =>
            if els.length < n then none
            else
              let ws := popWrites p form els
              if emptiesOnWrite s.G ws then some (lateFault s p (s.G.splitTrap 5))
              else
                let s := l1Drop (queueMove s p name [] n) s.G.core
                some (s.setG (((s.G.complete p ws).lift p s.seq).orderLeft p .acq p.scope))
          | none => none
        | _ => none

end Sys2Proof.Machine
end

