-- ==== Sys2Proof/Machine/Engine.lean ====
section
/-! DEFINITION. Engine commands at their issue (10, R236 to R260): the checks of R238, batches, BWAIT and BSTAT, and the
order in which commands start (R244, R245). -/

namespace Sys2Proof.Machine

/-! ### Descriptors -/

def wordOf (d : List Word) (k : Nat) : Word := d.getD k 0
def addrOf (d : List Word) (k : Nat) : DWord := pair (wordOf d k) (wordOf d (k + 1))

/-- Engine class of a SUB (R236). -/
def cmdClass : Nat → Nat
  | 0 => 0 | 1 => 1 | 2 => 1 | 3 => 2 | 4 => 2 | 5 => 3 | 6 => 0 | 7 => 0 | _ => 4

/-- Type of a matrix operand (R250): BF16, FP32 or a narrow format. -/
inductive ElemType where
  | bf16 | fp32 | narrow (desc : Word)
  deriving DecidableEq, Repr

/-- Number format of an operand type. -/
def ElemType.fmt : ElemType → Fmt
  | .bf16 => Machine.bf16
  | .fp32 => Machine.fp32
  | .narrow d => fmtOf d

/-- K of R251. -/
def ElemType.k : ElemType → Nat
  | .narrow d => if (fmtOf d).nibble then 128 else 64
  | _ => 32

/-- Bytes of n elements (R107). -/
def ElemType.bytes (e : ElemType) (n : Nat) : Nat :=
  match e with
  | .bf16 => 2 * n
  | .fp32 => 4 * n
  | .narrow d => if (fmtOf d).nibble then (n + 1) / 2 else n

/-- Under Microscaling. -/
def ElemType.scaled : ElemType → Bool
  | .narrow d => fmtScale d == 1
  | _ => false

/-- The operand type that a code selects (R250, R255): none for code 11. -/
def elemType (fmts : List Word) (code sel : Nat) : Option ElemType :=
  match code with
  | 0 => some .bf16
  | 1 => some .fp32
  | 2 => some (.narrow (fmts.getD sel 0))
  | _ => none

/-- The output type of MMADRAIN: 00 is FP32 and 01 is BF16. -/
def outType (fmts : List Word) (code sel : Nat) : Option ElemType :=
  match code with
  | 0 => some .fp32
  | 1 => some .bf16
  | 2 => some (.narrow (fmts.getD sel 0))
  | _ => none

/-- R34, R114: a format register holds an invalid descriptor or names an unusable scale. -/
def formatBad (scales : List Word) (sel : Nat) : ElemType → Bool
  | .narrow d => !fmtValid d || (fmtScale d == 2 && scaleBad (scales.getD sel 0))
  | _ => false

def bitsW (w : Word) (h l : Nat) : Nat := bitsOf w.toNat h l

/-- MMA's operands (R250). -/
structure MmaDesc where
  a    : ElemType
  b    : ElemType
  fa   : Nat
  fb   : Nat
  pair : Bool
  zero : Bool
  acc  : Nat

def mmaDesc (d fmts : List Word) : Option MmaDesc :=
  let c := wordOf d 6
  match elemType fmts (bitsW c 9 8) (bitsW c 13 12), elemType fmts (bitsW c 11 10) (bitsW c 15 14) with
  | some a, some b => some ⟨a, b, bitsW c 13 12, bitsW c 15 14, c.getLsbD 16, c.getLsbD 4, bitsW c 3 0⟩
  | _, _ => none

/-- Chunks of a dense array (R257), and the padded size of their table. -/
def chunksOf (e : Nat) : Nat := (e + 127) / 128
def tableBytes (c : Nat) : Nat := (4 + 4 * c + 15) / 16 * 16

/-! ### The checks of R238 -/

/-- What a command asks of its check: whether a descriptor field is bad, whether a format register is, whether it is a pair
operation, its global addresses, the values that must be aligned, its pool ranges. -/
structure Plan where
  bad    : Bool
  format : Bool
  pair   : Bool
  addrs  : List DWord
  align  : List (Nat × Nat)
  ranges : List (Int × Nat)

/-- A tile of the team's share (R250). -/
def tileOk (s : State) (g : Group) (t : Nat) : Bool :=
  (g.kind == .started || g.kind == .spawned) &&
  (match s.team? g.team with | some k => decide (t + 1 ≤ k.accUnits) | none => false)

def stepped (base : DWord) (step : Word) (k : Nat) : DWord := base + step.signExtend 64 * BitVec.ofNat 64 k

/-- R247. -/
def planCpy (d : List Word) : Plan :=
  let rb := (wordOf d 4).toNat
  let c := wordOf d 5
  let rows := bitsW c 15 0
  let sp := c.getLsbD 16
  let dp := c.getLsbD 17
  let side := fun (pool : Bool) (k w : Nat) =>
    if pool then ([], (List.range rows).map (fun (q : Nat) => (((wordOf d k).toNat : Int) + (q : Int) * (wordOf d w).toInt, rb)))
    else ([addrOf d k, stepped (addrOf d k) (wordOf d w) (rows - 1)], [])
  let a := side sp 0 6
  let b := side dp 2 7
  { bad := decide (rb < 4) || decide (2 ^ 24 < rb) || rb % 4 != 0 || rows == 0 ||
      (wordOf d 6).toNat % 4 != 0 || (wordOf d 7).toNat % 4 != 0 || (c.getLsbD 18 && (!dp || rb % 256 != 0)),
    format := false, pair := false, addrs := a.1 ++ b.1,
    align := [((wordOf d 0).toNat, 4), ((wordOf d 2).toNat, 4)], ranges := a.2 ++ b.2 }

/-- R248. -/
def planGather (d : List Word) : Plan :=
  let rb := (wordOf d 2).toNat
  let c := wordOf d 7
  let n := bitsW c 3 0
  let ip := c.getLsbD 5
  { bad := decide (rb < 16) || decide (65536 < rb) || rb % 16 != 0 || n == 0 || decide (8 < n) ||
      (c.getLsbD 4 && rb % 256 != 0),
    format := false, pair := false,
    addrs := addrOf d 0 :: (if ip then [] else [addrOf d 4]),
    align := [((wordOf d 0).toNat, 16), ((wordOf d 4).toNat, 4), ((wordOf d 6).toNat, 16)],
    ranges := (((wordOf d 6).toNat + bitsW c 31 16 * rb : Nat), n * rb) ::
      (if ip then [(((wordOf d 4).toNat : Int), 4 * n)] else []) }

/-- R250, R251. -/
def planMma (s : State) (g : Group) (d fmts scales : List Word) : Plan :=
  match mmaDesc d fmts with
  | none => ⟨true, false, false, [], [], []⟩
  | some m =>
    { bad := m.a.k != m.b.k || ((m.a == .fp32) != (m.b == .fp32)) || !tileOk s g m.acc,
      format := formatBad scales m.fa m.a || formatBad scales m.fb m.b, pair := m.pair,
      addrs := [addrOf d 0, addrOf d 2] ++ (if m.a.scaled then [addrOf d 8] else []) ++
        (if m.b.scaled then [addrOf d 10] else []),
      align := [((wordOf d 0).toNat, 16), ((wordOf d 2).toNat, 16), ((wordOf d 4).toNat, 16), ((wordOf d 5).toNat, 16)],
      ranges := [] }

/-- Columns that MMADRAIN drains, and the bytes of one output row (R255, R256). -/
def drainCols (d : List Word) : Nat := if (wordOf d 3).getLsbD 11 then 128 else 64
def drainBytes (e : ElemType) (n : Nat) : Nat := e.bytes n + (if e.scaled then n / 32 else 0)

/-- R255. RLD is checked with RES, where RESADD is 1: chapter 17 drains with 8 there and RESADD 0, and completes. -/
def planDrain (s : State) (g : Group) (d fmts scales : List Word) : Plan :=
  let c := wordOf d 3
  match outType fmts (bitsW c 5 4) (bitsW c 7 6) with
  | none => ⟨true, false, false, [], [], []⟩
  | some e =>
    let res := c.getLsbD 8
    { bad := !tileOk s g (bitsW c 3 0) || decide ((wordOf d 2).toNat < drainBytes e (drainCols d)),
      format := formatBad scales (bitsW c 7 6) e, pair := c.getLsbD 11,
      addrs := addrOf d 0 :: (if res then [addrOf d 5] else []),
      align := [((wordOf d 0).toNat, 16), ((wordOf d 2).toNat, 16)] ++
        (if res then [((wordOf d 5).toNat, 16), ((wordOf d 7).toNat, 16)] else []),
      ranges := [] }

/-- R258. -/
def planWalk (d : List Word) : Plan :=
  let cap := (wordOf d 4).toNat
  { bad := bitsW (wordOf d 2) 15 0 == 0 || bitsW (wordOf d 2) 31 16 == 0 || cap == 0 || decide (2 ^ 24 < cap),
    format := false, pair := false, addrs := [addrOf d 0],
    align := [((wordOf d 0).toNat, 16), ((wordOf d 3).toNat, 8)],
    ranges := [(((wordOf d 3).toNat : Int), 8 + 8 * cap)] }

/-- R259. -/
def planSparse (d : List Word) (store : Bool) : Plan :=
  let e := (wordOf d 2).toNat
  let z := (wordOf d 3).toNat
  let k := if store then 0 else 4
  let pool := (wordOf d 7).getLsbD (if store then 0 else 1)
  { bad := e == 0 || decide (2 ^ 26 < e) || !(z == 1 || z == 2 || z == 4) ||
      (store && decide ((wordOf d 6).toNat < tableBytes (chunksOf e))),
    format := false, pair := false,
    addrs := (if pool then [] else [addrOf d k]) ++ [addrOf d (4 - k)],
    align := [((wordOf d k).toNat, z), ((wordOf d (4 - k)).toNat, 16)],
    ranges := if pool then [(((wordOf d k).toNat : Int), e * z)] else [] }

/-- The four words of a communicator (R294, R296). -/
def commWord (d : Device) (c w : Nat) : Word := mgetD d.comms (4 * c + w) 0
def commRanks (d : Device) (c : Nat) : Nat := bitsW (commWord d c 2) 20 0

/-- The rank list of a communicator: its address is physical (DEDUCED, log entry 22). -/
def rankList (s : State) (c : Nat) : List Nat :=
  let a := (pair (commWord s.dev c 0) (commWord s.dev c 1)).toNat
  (List.range (commRanks s.dev c)).map (fun k => leNat (bgetN s.mem (a + 4 * k) 4))

/-- R260. -/
def planColl (s : State) (d : List Word) : Plan :=
  let n := (wordOf d 2).toNat
  let c := (wordOf d 4).toNat
  { bad := n == 0 || decide (2 ^ 28 < n) || decide (10 < (wordOf d 3).toNat) || decide (63 < c) ||
      commWord s.dev c 2 == 0 || !(rankList s c).contains s.dev.pkg,
    format := false, pair := false, addrs := [addrOf d 0], align := [((wordOf d 0).toNat, 4)], ranges := [] }

def planOf (s : State) (g : Group) (sub : Nat) (d fmts scales : List Word) : Plan :=
  match sub with
  | 0 => planCpy d
  | 1 | 2 => planGather d
  | 3 => planMma s g d fmts scales
  | 4 => planDrain s g d fmts scales
  | 5 => planWalk d
  | 6 => planSparse d true
  | 7 => planSparse d false
  | _ => planColl s d

/-- R252: a pair operation runs on the leader of a pair whose two cores hold the team. -/
def pairOk (s : State) (g : Group) : Bool :=
  g.core % 2 == 0 && (match s.team? g.team with
    | some t => t.cores.contains g.core && t.cores.contains (g.core + 1)
    | none => false)

/-- A pool range that may start below zero. -/
def rangeCause (s : State) (g : Group) (r : Int × Nat) : Nat :=
  if r.1 < 0 then 17 else poolCause s g r.1.toNat r.2

/-- R238: the first check that fails. Within check 2 the engine-descriptor fault comes before the format fault, and within check
7 the first range that fails, in the order of the descriptor, decides (DESIGN CHOICE, log entry 48). -/
def cmdTrap (s : State) (sub : Nat) (p : Plan) (bo : Word) : Option Trap :=
  let g := s.G
  let t := fun (c : Nat) (a : DWord) => some { Trap.of c with lanes := g.active, addr := a }
  let ranges := p.ranges ++ (if bo = 0xFFFFFFFF then [] else [((bo.toNat : Int), 16)])
  if p.bad || (sub == 3 && bo != 0xFFFFFFFF) then t 25 0
  else if p.format then t 7 0
  else if p.pair && !pairOk s g then t 26 0
  else match p.addrs.find? (fun a => a.toNat / 2 ^ 57 != 0) with
    | some a => t 15 a
    | none =>
      if p.align.any (fun e => e.2 != 0 && e.1 % e.2 != 0) then t 16 0
      else if bo ≠ 0xFFFFFFFF ∧ bo.toNat % 16 ≠ 0 then t 16 0
      else match (ranges.map (rangeCause s g)).find? (· != 0) with
        | some c => t c 0
        | none => none

/-! ### Issue -/

def Batch.empty : Batch := ⟨0, 0, [], [], []⟩

def Group.batch (g : Group) (cls : Nat) : Batch := mgetD g.batches cls Batch.empty
def Group.setBatch (g : Group) (cls : Nat) (b : Batch) : Group := { g with batches := mput g.batches cls b }

/-- A number one higher at a key. -/
def mbump (m : Map Nat) (k : Nat) : Map Nat := mput m k (mgetD m k 0 + 1)

/-- The registers a matrix command reads besides its operands: scales and seeds (R114, R256). -/
def matrixRegs (g : Group) (sub : Nat) (d : List Word) : List Reg :=
  let sel := match sub with
    | 3 => [bitsW (wordOf d 6) 13 12, bitsW (wordOf d 6) 15 14]
    | 4 => [bitsW (wordOf d 3) 7 6]
    | _ => []
  let k := 2 * modeSeed g.mode
  (sel.filterMap (fun n => if fmtScale (g.fmt n) = 2 then some (Reg.s (fmtSreg (g.fmt n))) else none)) ++
  (if sub = 4 ∧ modeRnd g.mode = 5 then [.s k, .s (k + 1)] else [])

/-- The pool range of a GATHER's row slots (R248). -/
def gatherRange (d : List Word) : Nat × Nat :=
  let rb := (wordOf d 2).toNat
  ((wordOf d 6).toNat + bitsW (wordOf d 7) 31 16 * rb, bitsW (wordOf d 7) 3 0 * rb)

/-- The earlier gathers of a group that may leave their bytes in a new one's slots (R329). -/
def rivalsOf (g : Group) (d : List Word) : List Nat :=
  let r := gatherRange d
  (g.gathers.filter (fun x => decide (x.lo < r.1 + r.2) && decide (r.1 < x.lo + x.len))).map (·.id)

/-- The command of an engine word (R237). It takes the next number in order of arrival. -/
def mkCmd (s : State) (sub : Nat) (d : List Word) (bo : Word) : Cmd :=
  let g := s.G
  let cls := cmdClass sub
  let c := (wordOf d 4).toNat
  { id := s.seq, gid := s.cur, task := g.task, team := g.team, core := g.core, asid := g.asid, vf := g.vf,
    level := g.level, cls := cls, sub := sub, desc := d, bo := bo, mode := g.mode, fmts := (List.range 4).map g.fmt,
    scales := (List.range 4).map g.scaleAt, seeds := g.seeds,
    off := loWord (g.wordPc - g.text), batch := (g.batch cls).openN, flag := g.fa, sid := g.split.ids.headD 0,
    ids := g.split.ids, formed := g.split.formed, seq := g.nextId, key := pair (g.uni 10) (g.uni 11),
    wgroup := writerGroup (g.uni 9), queued := true, begun := false, units := 0, status := 0, missed := none,
    walkFail := false, seen := [], part := none, owed := 0, asked := [], fetched := [], nth := mgetD s.dev.commNo c 0,
    deadline := addNs s.clock (16000 * 2 ^ bitsW (commWord s.dev c 3) 4 0), mark := s.seq,
    outs := [], rows := [], rivals := if sub = 1 then rivalsOf g d else [], ranks := none }

/-- Issues an engine command (R237 to R239). -/
def issueCmd (s : State) (sub n : Nat) (a b : F7) : Res :=
  let g := s.G
  let d := (List.range n).map (fun k => g.rdS (a.toNat + k))
  let bo := g.rdS b.toNat
  let fmts := (List.range 4).map g.fmt
  let scales := (List.range 4).map g.scaleAt
  if !g.anyActive then .ok s
  else if interlocked g (matrixRegs g sub d) then .stall
  else match cmdTrap s sub (planOf s g sub d fmts scales) bo with
    | some t => .trap t
    | none =>
      if 65535 ≤ g.xfer then .stall
      else
        let c := mkCmd s sub d bo
        let cls := cmdClass sub
        let k := g.batch cls
        let n := k.openN.toNat
        let g := (g.flagUp g.fa).setBatch cls { k with left := mbump k.left n, total := mbump k.total n }
        let r := gatherRange d
        let gs := if sub = 1 then g.gathers ++ [⟨c.id, r.1, r.2, bo, c.batch⟩] else g.gathers
        let s := s.setG { g with xfer := g.xfer + 1, nextId := g.nextId + 1, gathers := gs }
        let s := if sub = 8 then
            { s with dev := { s.dev with commNo := mbump s.dev.commNo (wordOf d 4).toNat } } else s
        .ok ({ s with cmds := s.cmds ++ [c] }).tick1

def execCpy (a b : F7) (s : State) := issue (Instr.shape (.cpy a b)) s (fun s => issueCmd s 0 8 a b)
def execGather (a b : F7) (s : State) := issue (Instr.shape (.gather a b)) s (fun s => issueCmd s 1 8 a b)
def execScatter (a b : F7) (s : State) := issue (Instr.shape (.scatter a b)) s (fun s => issueCmd s 2 8 a b)
def execMma (a b : F7) (s : State) := issue (Instr.shape (.mma a b)) s (fun s => issueCmd s 3 12 a b)
def execMmadrain (a b : F7) (s : State) := issue (Instr.shape (.mmadrain a b)) s (fun s => issueCmd s 4 16 a b)
def execIdxwalk (a b : F7) (s : State) := issue (Instr.shape (.idxwalk a b)) s (fun s => issueCmd s 5 5 a b)
def execCstore (a b : F7) (s : State) := issue (Instr.shape (.cstore a b)) s (fun s => issueCmd s 6 8 a b)
def execCload (a b : F7) (s : State) := issue (Instr.shape (.cload a b)) s (fun s => issueCmd s 7 8 a b)
def execColl (a b : F7) (s : State) := issue (Instr.shape (.coll a b)) s (fun s => issueCmd s 8 6 a b)

/-! ### Batches (R36, R241 to R243) -/

/-- Batch n is complete (R36). -/
def Batch.complete (b : Batch) (n : BitVec 16) : Bool := decide ((b.doneN - n - 1).toNat < 2 ^ 15)

/-- DONE passes every closed batch whose commands are complete; each one's commands leave the transfer count (R37). -/
def advanceBatch : Nat → Group → Nat → Group
  | 0, g, _ => g
  | fuel + 1, g, cls =>
    let b := g.batch cls
    let n := b.doneN.toNat
    if b.doneN = b.openN ∨ mgetD b.left n 0 ≠ 0 then g
    else
      let k := mgetD b.total n 0
      let word := (mgetD b.status n 0 &&& 0x1F) ||| BitVec.ofNat 32 (256 * min k 255)
      let old := (b.doneN - 8).toNat
      let g := (g.xferDown k).setBatch cls
        { b with doneN := b.doneN + 1, left := mdel b.left n, total := mdel b.total n,
                 status := mput (mdel b.status old) n word }
      advanceBatch fuel g cls

/-- BATCH (R241). -/
def closeBatch (s : State) (cls : Nat) (d : F7) : Res :=
  let g := s.G
  let b := g.batch cls
  if !g.whole then .trap (g.splitTrap 4)
  else if 2 ^ 15 - 1 ≤ (b.openN - b.doneN).toNat then .stall
  else
    let w := BitVec.ofNat 32 b.openN.toNat
    match writeUnis s false [(d.toNat, w)] with
    | .ok s =>
      let g := s.G.setBatch cls { s.G.batch cls with openN := b.openN + 1 }
      .ok (s.setG (advanceBatch 65536 g cls))
    | r => r

def execBatchCopy (d : F7) (s : State) := issue (Instr.shape (.batchCopy d)) s (fun s => closeBatch s 0 d)
def execBatchGather (d : F7) (s : State) := issue (Instr.shape (.batchGather d)) s (fun s => closeBatch s 1 d)
def execBatchMatrix (d : F7) (s : State) := issue (Instr.shape (.batchMatrix d)) s (fun s => closeBatch s 2 d)
def execBatchIndex (d : F7) (s : State) := issue (Instr.shape (.batchIndex d)) s (fun s => closeBatch s 3 d)
def execBatchColl (d : F7) (s : State) := issue (Instr.shape (.batchColl d)) s (fun s => closeBatch s 4 d)

/-- BWAIT (R242). -/
def batchWait (s : State) (sh : Shape) (cls : Nat) (a : F7) : Res :=
  let g := s.G
  let n : BitVec 16 := (g.rdS a.toNat).extractLsb' 0 16
  if 2 ^ 15 ≤ ((g.batch cls).openN - n - 1).toNat then .trap { Trap.of 24 with lanes := g.split.mask }
  else waitPend s sh (.bwait cls n.toNat)

def execBwaitCopy (a : F7) (s : State) := issueWith (Instr.shape (.bwaitCopy a)) s (fun sh s => batchWait s sh 0 a)
def execBwaitGather (a : F7) (s : State) := issueWith (Instr.shape (.bwaitGather a)) s (fun sh s => batchWait s sh 1 a)
def execBwaitMatrix (a : F7) (s : State) := issueWith (Instr.shape (.bwaitMatrix a)) s (fun sh s => batchWait s sh 2 a)
def execBwaitIndex (a : F7) (s : State) := issueWith (Instr.shape (.bwaitIndex a)) s (fun sh s => batchWait s sh 3 a)
def execBwaitColl (a : F7) (s : State) := issueWith (Instr.shape (.bwaitColl a)) s (fun sh s => batchWait s sh 4 a)

/-- The word of BSTAT (R243). -/
def Batch.stat (b : Batch) (n : BitVec 16) : Word :=
  if !b.complete n then 0x80000000
  else if 8 ≤ (b.doneN - n - 1).toNat then 0x40000000
  else mgetD b.status n.toNat 0

def batchStat (s : State) (cls : Nat) (d a : F7) : Res :=
  writeUnis s false [(d.toNat, (s.G.batch cls).stat ((s.G.rdS a.toNat).extractLsb' 0 16))]

def execBstatCopy (d a : F7) (s : State) := issue (Instr.shape (.bstatCopy d a)) s (fun s => batchStat s 0 d a)
def execBstatGather (d a : F7) (s : State) := issue (Instr.shape (.bstatGather d a)) s (fun s => batchStat s 1 d a)
def execBstatMatrix (d a : F7) (s : State) := issue (Instr.shape (.bstatMatrix d a)) s (fun s => batchStat s 2 d a)
def execBstatIndex (d a : F7) (s : State) := issue (Instr.shape (.bstatIndex d a)) s (fun s => batchStat s 3 d a)
def execBstatColl (d a : F7) (s : State) := issue (Instr.shape (.bstatColl d a)) s (fun s => batchStat s 4 d a)

end Sys2Proof.Machine
end

