-- ==== Sys2Proof/Machine/EngineRun.lean ====
section
/-! DEFINITION. The work of the engines (10, R240 to R261; 13, R325 to R331), unit by unit: a row of CPY, an index of GATHER
or SCATTER, a row group of MMA, a row of MMADRAIN, a chunk of CSTORE or CLOAD, a whole IDXWALK or COLL; and the events
ENGINE_ACCEPT, BO_ARRIVAL, ENGINE_COMMAND_COMPLETE, ENGINE_RESUME, COLL_MATCH and COLL_TIMEOUT. -/

namespace Sys2Proof.Machine

def findCmd (s : State) (id : Nat) : Option Cmd := s.cmds.find? (fun c => c.id == id)

def setCmd (s : State) (c : Cmd) : State :=
  { s with cmds := s.cmds.map (fun x => if x.id = c.id then c else x) }

def Cmd.who (c : Cmd) : Who :=
  { asid := c.asid, level := c.level, cluster := clusterOf c.core, core := c.core, master := c.vf + 1, phys := false,
    engine := true }

/-- What an attempt at a unit comes to: done, with the bytes to count; a TLB miss; a fault; a wait for other packages. -/
inductive UnitRes where
  | done (s : State) (c : Cmd) (n : Nat)
  | miss (kind page : Nat)
  | fault (cause : Nat) (va : DWord)
  | wait (s : State) (c : Cmd)
  /-- host memory refused an access (R327) -/
  | refused (s : State) (va : DWord)
  /-- an access table denies an access (R429) -/
  | denied (kind : AccKind) (va : DWord)
  /-- no route leads to the package of an access (R415, R416) -/
  | noRoute (va : DWord)

/-! ### Reads and writes of an engine (R244, R331) -/

/-- The first problem of a range, unit by unit of the access tables (R428): a page to wait for, or a fault (R261). -/
def engCheck (s : State) (c : Cmd) (kind : AccKind) (va : DWord) (n : Nat) : Option UnitRes :=
  (units (n / 4096 + 2) va.toNat n).findSome? (fun p =>
    let a := BitVec.ofNat 64 p.1
    if a.toNat / 2 ^ 57 ≠ 0 then some (.fault 23 a)
    else match translate s c.who kind a with
      | .miss page => some (.miss kind.code page)
      | .fault d => some (if d then .denied kind a else .fault 23 a)
      | .hit pa (some pkg) _ => if (accessPort s c.who kind pkg pa).isNone then some (.noRoute a) else none
      | .hit _ none _ => none)

/-- A matrix command of a team that has banks in the cache role now (R295, R331). -/
def Cmd.piped (c : Cmd) (s : State) : Bool :=
  c.cls == 2 && (s.cluster (clusterOf c.core)).banks.any (fun b => b.2.owner == some c.team && b.2.role == 0)

/-- R317: a range meets uncorrectable data. -/
def engBad (s : State) (c : Cmd) (va : DWord) (n : Nat) : Option DWord :=
  ((piecesOf va.toNat n).find? (fun p =>
    match translate s c.who .read (BitVec.ofNat 64 p.1) with
    | .hit pa none home => isHbm pa && spanBad s home pa p.2 &&
        !(c.piped s && (cacheLine (s.cluster (clusterOf c.core)) (pa / 128)).isSome)
    | _ => false)).map (fun p => BitVec.ofNat 64 p.1)

/-- Who makes an access of a command to another package (R397). -/
def Cmd.sender (c : Cmd) (s : State) (first : Bool) : Sender :=
  ⟨c.level, c.key, c.wgroup, first, if (phaseLines s c.task).isSome then c.task else 0⟩

/-- Asks another package for a piece. -/
def askPiece (s : State) (c : Cmd) (p : Nat × Nat) : State × Cmd :=
  match translate s c.who .read (BitVec.ofNat 64 p.1) with
  | .hit pa (some pkg) _ =>
    if c.asked.contains p.1 then (s, c)
    else match sendMsg s 0 (quarterOf c.core) pkg (homeQuarter pa) .accepted 0
        (.load c.asid (BitVec.ofNat 64 p.1) (BitVec.ofNat 64 pa) p.2 (c.sender s (!c.asked.any (fun x => x / 128 == p.1 / 128)))) (some (0, c.id, c.vf)) with
      | some s' => (s', { c with asked := p.1 :: c.asked })
      | none => (s, c)
  | _ => (s, c)

/-- Where the matrix pair's load pipes find a piece: through the cluster cache when the team has cache-role banks (R331). -/
def pipeBytes (s : State) (c : Cmd) (pa : Nat) (home : Option Nat) (n : Nat) : List Byte × State :=
  if c.piped s then
    let (line, s) := fillLine s c.core home (pa / 128)
    ((line.drop (pa % 128)).take n, s)
  else (homeBytes s home pa n, touchHome s home (pa / 128))

/-- One piece's bytes, if they are there. -/
def pieceBytes (s : State) (c : Cmd) (p : Nat × Nat) : Option (List Byte) × State :=
  match translate s c.who .read (BitVec.ofNat 64 p.1) with
  | .hit _ (some _) _ => (mget c.fetched p.1, s)
  | .hit pa none home =>
    if isHbm pa then
      let (bs, s) := pipeBytes s c pa home p.2
      (some bs, s)
    else
      let (bs, s) := apertureRead s pa p.2
      (some bs, s)
  | _ => (none, s)

/-- All pieces, in order. -/
def gatherPieces (s : State) (c : Cmd) : List (Nat × Nat) → Option (List Byte) × State
  | [] => (some [], s)
  | p :: ps =>
    match pieceBytes s c p with
    | (some bs, s) => let (r, s) := gatherPieces s c ps; (r.map (bs ++ ·), s)
    | (none, s) => (none, s)

/-- Lines of memory that a range touches: the core's buffer sends its entries for them (R309). -/
def engLines (s : State) (c : Cmd) (kind : AccKind) (va : DWord) (n : Nat) : List Nat :=
  (piecesOf va.toNat n).filterMap (fun p =>
    match translate s c.who kind (BitVec.ofNat 64 p.1) with
    | .hit pa none _ => if isHbm pa then some (pa / 128) else none
    | _ => none)

def sendLines (s : State) (core : Nat) (ls : List Nat) : State := sgbSend s core (fun e => ls.contains e.pline)

/-- The core's buffer still holds stores to some lines: an engine goes on at their homes once they have arrived there, since some of
them may happen before the command (R335, R345). -/
def linesHeld (s : State) (core : Nat) (ls : List Nat) : Bool := (s.core core).sgb.any (fun e => ls.contains e.pline)

/-- R397: an engine command counts each line once. -/
def countLines (s : State) (c : Cmd) (ls : List Nat) : State × Cmd :=
  match phaseLines s c.task with
  | some ps =>
    let new := ls.eraseDups.filter (fun l => !c.seen.contains l && decide (conflictLines ps c.key [l] ≠ 0))
    (countConflicts s c.task c.key new, { c with seen := new ++ c.seen })
  | none => (s, c)

/-- Host memory answers an engine's accesses of a range, or refuses one (R327): which is free (DESIGN CHOICE, log entry 9). -/
def hostRefusal (s : State) (c : Cmd) (kind : AccKind) (va : DWord) (n : Nat) : Option DWord × State :=
  ((piecesOf va.toNat n).filter (fun p =>
    match translate s c.who kind (BitVec.ofNat 64 p.1) with
    | .hit pa none _ => aperture pa == some 8
    | _ => false)).foldl (fun r p =>
      match r.1 with
      | some a => (some a, r.2)
      | none =>
        let (x, s) := r.2.draw
        (if x % 2 = 1 then some (BitVec.ofNat 64 p.1) else none, s)) (none, s)

/-- Reads a range and goes on with its bytes. -/
def readR (s : State) (c : Cmd) (va : DWord) (n : Nat) (k : State → Cmd → List Byte → UnitRes) : UnitRes :=
  match engCheck s c .read va n with
  | some r => r
  | none =>
    match engBad s c va n with
    | some a => .fault 22 a
    | none =>
      let ls := engLines s c .read va n
      if linesHeld s c.core ls then .wait (sendLines s c.core ls) c
      else
      let (s, c) := (piecesOf va.toNat n).foldl (fun r p => askPiece r.1 r.2 p) (s, c)
      match gatherPieces s c (piecesOf va.toNat n) with
      | (some bs, s) =>
        match hostRefusal s c .read va n with
        | (some a, s) => .refused s a
        | (none, s) =>
          let (s, c) := countLines s c ls
          k s c bs
      | (none, _) => .wait s c

/-- Reads several ranges. -/
def readMany : List (DWord × Nat) → State → Cmd → List (List Byte) → (State → Cmd → List (List Byte) → UnitRes) → UnitRes
  | [], s, c, acc, k => k s c acc.reverse
  | (va, n) :: t, s, c, acc, k => readR s c va n (fun s c bs => readMany t s c (bs :: acc) k)

/-- Goes on when a range can be written. -/
def writeCk (s : State) (c : Cmd) (va : DWord) (n : Nat) (k : State → UnitRes) : UnitRes :=
  match engCheck s c .write va n with
  | some r => r
  | none =>
    let ls := engLines s c .write va n
    if linesHeld s c.core ls then .wait (sendLines s c.core ls) c
    else match hostRefusal s c .write va n with
    | (some a, s) => .refused s a
    | (none, s) => k s

/-- Writes one piece. -/
def writePiece (s : State) (c : Cmd) (va : Nat) (bs : List Byte) : State × Cmd :=
  match translate s c.who .write (BitVec.ofNat 64 va) with
  | .hit pa (some pkg) _ =>
    match sendMsg s 1 (quarterOf c.core) pkg (homeQuarter pa) .accepted 0
        (.store c.asid (BitVec.ofNat 64 va) (BitVec.ofNat 64 pa) (wholeBytes bs) (c.sender s false)) (some (0, c.id, c.vf)) with
    | some s' => (noteAway s' c.task pkg, { c with owed := c.owed + 1, outs := va :: c.outs })
    | none => (s, c)
  | .hit pa none home =>
    if isHbm pa then (spanWrite s home pa c.task c.key c.wgroup (wholeBytes bs), c)
    else (apertureWrite s (c.vf + 1) pa bs, c)
  | _ => (s, c)

/-- Writes a range (R246, R331). -/
def engWrite (s : State) (c : Cmd) (va : DWord) (bs : List Byte) : State × Cmd :=
  (piecesOf va.toNat bs.length).foldl (fun r p => writePiece r.1 r.2 p.1 ((bs.drop (p.1 - va.toNat)).take p.2)) (s, c)

/-! ### The pool and accumulator memory of a command -/

def cmdBanks (s : State) (c : Cmd) : List Nat :=
  match s.team? c.team with | some t => t.scratch | none => []

def poolGet (s : State) (c : Cmd) (off n : Nat) : List Byte :=
  let banks := cmdBanks s c
  let m := s.pool (clusterOf c.core)
  (List.range n).map (fun k => bget m (poolAddr banks (off + k)))

def poolPut (s : State) (c : Cmd) (off : Nat) (bs : List Byte) : State :=
  let banks := cmdBanks s c
  s.setPool (clusterOf c.core) ((List.range bs.length).foldl (fun m k =>
    bput m (poolAddr banks (off + k)) (bs.getD k 0)) (s.pool (clusterOf c.core)))

/-- Where an accumulator element stands in a core's memory (R250, R330). -/
def accAddr (s : State) (team core t m n : Nat) : Nat :=
  let tiles := match s.team? team with
    | some k => (k.accTiles.getD (k.cores.idxOf core) []).getD t 0
    | none => 0
  16384 * tiles + 256 * m + 4 * n

def accGet (s : State) (team core t m n : Nat) : Word :=
  leWord (bgetN (s.core core).acc (accAddr s team core t m n) 4)

def accPut (s : State) (team core t m n : Nat) (w : Word) : State :=
  let k := s.core core
  s.setCore core { k with acc := bputN k.acc (accAddr s team core t m n) (leBytes 4 w.toNat) }

/-- An arrival of `n` bytes at the command's barrier object (R226, R240). -/
def boArrive (s : State) (c : Cmd) (n : Nat) : State :=
  if c.bo = 0xFFFFFFFF ∨ n = 0 then s
  else
    let a := poolAddr (cmdBanks s c) c.bo.toNat
    let m := s.pool (clusterOf c.core)
    s.setPool (clusterOf c.core) (writeObj m a (arrive (readObj m a) n))

/-! ### CPY (R247) -/

/-- Byte `k` of row `q` under SWZ: the 16-byte units are permuted, and the map is its own inverse. -/
def swzAt (swz : Bool) (q k : Nat) : Nat := if swz then 16 * ((k / 16) ^^^ (q % 16)) + k % 16 else k

def swizzle (swz : Bool) (q : Nat) (bs : List Byte) : List Byte :=
  if swz then (List.range bs.length).map (fun k => bs.getD (swzAt swz q k) 0) else bs

/-- Some row of a side holds a byte address. -/
def sideHas (base : DWord) (step : Word) (rows rb : Nat) (a : DWord) : Bool :=
  (List.range rows).any (fun q => decide ((a - stepped base step q).toNat < rb))

/-- A row with free values where source and destination bytes overlap. -/
def freeRow (s : State) (twice : Nat → Bool) (bs : List Byte) : List Byte × State :=
  if (List.range bs.length).any twice then
    let (n, s) := s.draw
    ((List.range bs.length).map (fun k => if twice k then BitVec.ofNat 8 (n / 256 ^ k) else bs.getD k 0), s)
  else (bs, s)

def unitCpy (s : State) (c : Cmd) (q : Nat) : UnitRes :=
  let d := c.desc
  let rb := (wordOf d 4).toNat
  let ctl := wordOf d 5
  let rows := bitsW ctl 15 0
  let sp := ctl.getLsbD 16
  let dp := ctl.getLsbD 17
  let swz := ctl.getLsbD 18
  let src := if sp then (wordOf d 0).zeroExtend 64 else addrOf d 0
  let dst := if dp then (wordOf d 2).zeroExtend 64 else addrOf d 2
  let sa := stepped src (wordOf d 6) q
  let da := stepped dst (wordOf d 7) q
  let twice := fun (k : Nat) => sp == dp &&
    (sideHas src (wordOf d 6) rows rb (da + BitVec.ofNat 64 k) ||
     sideHas dst (wordOf d 7) rows rb (sa + BitVec.ofNat 64 (swzAt swz q k)))
  let put := fun (s : State) (c : Cmd) (bs : List Byte) =>
    let (row, s) := freeRow s twice (swizzle swz q bs)
    if dp then UnitRes.done (poolPut s c da.toNat row) c rb
    else writeCk s c da rb (fun s => let (s, c) := engWrite s c da row; .done s c rb)
  if sp then put s c (poolGet s c sa.toNat rb)
  else if dp then readR s c sa rb put
  else writeCk s c da rb (fun s => readR s c sa rb put)

/-! ### GATHER and SCATTER (R248, R249) -/

/-- The parts in which a GATHER's rows come: index, offset in the row, bytes (R329). -/
def rowParts (c : Cmd) : List (Nat × Nat × Nat) :=
  let d := c.desc
  let rb := (wordOf d 2).toNat
  (List.range (bitsW (wordOf d 7) 3 0)).flatMap (fun j =>
    let row := (addrOf d 0 + BitVec.ofNat 64 ((wordOf d (8 + j)).toNat * rb)).toNat
    (piecesOf row rb).map (fun p => (j, p.1 - row, p.2)))

/-- Where the 16-byte unit at an offset of row `j` goes (R248). -/
def unitSlot (c : Cmd) (j off : Nat) : Nat :=
  let d := c.desc
  let ctl := wordOf d 7
  let r := bitsW ctl 31 16 + j
  (wordOf d 6).toNat + r * (wordOf d 2).toNat + swzAt (ctl.getLsbD 4) r off

/-- A GATHER that still works has written a 16-byte unit of the pool. -/
def Cmd.wrote (c : Cmd) (slot : Nat) : Bool :=
  let ps := rowParts c
  c.rows.any (fun k => match ps[k]? with
    | some (j, off, n) => (List.range (n / 16)).any (fun u => unitSlot c j (off + 16 * u) == slot)
    | none => false)

/-- Another gather of the group, not ordered with this one by an acquisition, has written a unit (R329). -/
def rivalWrote (s : State) (c : Cmd) (slot : Nat) : Bool :=
  (s.group c.gid).gathers.any (fun x =>
    x.id != c.id && (c.rivals.contains x.id || decide (c.id < x.id)) && decide (x.lo ≤ slot) && decide (slot < x.lo + x.len) &&
    (match findCmd s x.id with | some k => k.wrote slot | none => true))

/-- Writes a 16-byte unit; where two gathers meet, which one's bytes stay is free (R329). -/
def putUnit (s : State) (c : Cmd) (slot : Nat) (bs : List Byte) : State :=
  if rivalWrote s c slot then
    let (n, s) := s.draw
    if n % 2 = 0 then poolPut s c slot bs else s
  else poolPut s c slot bs

/-- Writes part of a row to its slot. -/
def putPart (s : State) (c : Cmd) (j off : Nat) (bs : List Byte) : State :=
  (List.range (bs.length / 16)).foldl (fun s u =>
    putUnit s c (unitSlot c j (off + 16 * u)) ((bs.drop (16 * u)).take 16)) s

/-- One part of a row of a GATHER: which of those left comes next is free (R329). -/
def unitRow (s : State) (c : Cmd) : UnitRes :=
  let d := c.desc
  let ps := rowParts c
  let left := (List.range ps.length).filter (fun k => !c.rows.contains k)
  let (n, s1) := s.draw
  let k := left.getD (n % left.length) 0
  let (j, off, len) := ps.getD k (0, 0, 0)
  let idx := (wordOf d (8 + j)).toNat
  let fin := fun (s : State) (c : Cmd) (bs : List Byte) =>
    UnitRes.done (putPart s c j off bs) { c with rows := k :: c.rows } len
  if (wordOf d 3).toNat ≤ idx then fin s1 { c with status := c.status ||| 1 } (List.replicate len 0)
  else readR s1 c (addrOf d 0 + BitVec.ofNat 64 (idx * (wordOf d 2).toNat + off)) len fin

def unitGather (s : State) (c : Cmd) (scatter : Bool) (u : Nat) : UnitRes :=
  let d := c.desc
  let rb := (wordOf d 2).toNat
  let ctl := wordOf d 7
  let n := bitsW ctl 3 0
  let swz := ctl.getLsbD 4
  if u = 0 then
    let keep := fun (s : State) (c : Cmd) (bs : List Byte) =>
      UnitRes.done s { c with desc := c.desc ++ (List.range n).map (fun j => wordAt bs (4 * j)) } 0
    if ctl.getLsbD 5 then keep s c (poolGet s c (wordOf d 4).toNat (4 * n)) else readR s c (addrOf d 4) (4 * n) keep
  else if !scatter then unitRow s c
  else
    let j := u - 1
    let r := bitsW ctl 31 16 + j
    let slot := (wordOf d 6).toNat + r * rb
    let idx := (wordOf d (8 + j)).toNat
    let row := addrOf d 0 + BitVec.ofNat 64 (idx * rb)
    if (wordOf d 3).toNat ≤ idx then .done s { c with status := c.status ||| 1 } rb
    else writeCk s c row rb (fun s => let (s, c) := engWrite s c row (swizzle swz r (poolGet s c slot rb)); .done s c rb)

/-! ### MMA (R116, R250 to R253) -/

/-- Element `i` of some bytes. -/
def elemCode (e : ElemType) (bs : List Byte) (i : Nat) : Nat :=
  match e with
  | .bf16 => fieldAt bs (2 * i) 2
  | .fp32 => fieldAt bs (4 * i) 4
  | .narrow d => if (fmtOf d).nibble then (bs.getD (i / 2) 0).toNat / 16 ^ (i % 2) % 16 else (bs.getD i 0).toNat

/-- Element `i` of an operand row with its scale. -/
def elemValue (e : ElemType) (scale : Word) (bs sc : List Byte) (i : Nat) : Num :=
  match e with
  | .narrow d =>
    narrowValue d (elemCode e bs i) (if fmtScale d = 1 then scaleValue (sc.getD (i / 32) 0).toNat else f32 scale)
  | _ => e.fmt.value (elemCode e bs i)

/-- An exact sum of eight pairs (R116). -/
def exactSum (q : Nat → Num) : Num :=
  let a := fun (x y : Num) => x.add y false
  a (a (a (q 0) (q 1)) (a (q 2) (q 3))) (a (a (q 4) (q 5)) (a (q 6) (q 7)))

/-- One accumulator element over K (R116). -/
def mmaElem (k : Nat) (x y : Nat → Num) (start : Word) : Word :=
  (List.range (k / 16)).foldl (fun acc blk =>
    let p := fun i => (x i).mul (y i)
    addF32 acc (roundNe (exactSum (fun j => (p (16 * blk + 2 * j)).add (p (16 * blk + 2 * j + 1)) false)))) start

/-- The ranges of operand rows: elements, and scales under Microscaling. -/
def rowRanges (e : ElemType) (base : DWord) (ld : Word) (sc : DWord) (sld : Word) (rows : List Nat) : List (DWord × Nat) :=
  rows.map (fun r => (base + ld.zeroExtend 64 * BitVec.ofNat 64 r, e.bytes e.k)) ++
  (if e.scaled then rows.map (fun r => (sc + sld.zeroExtend 64 * BitVec.ofNat 64 r, e.k / 32)) else [])

/-- Writes one row group's columns of one core. -/
def putRows (s : State) (c : Cmd) (core t : Nat) (rows : List Nat) (v : Nat → Nat → Word → Word) (zero : Bool) : State :=
  rows.foldl (fun s m => (List.range 64).foldl (fun s n =>
    let old := if zero then 0 else accGet s c.team core t m n
    accPut s c.team core t m n (v m n old)) s) s

def unitMma (s : State) (c : Cmd) (u : Nat) : UnitRes :=
  let d := c.desc
  match mmaDesc d c.fmts with
  | none => .done s c 0
  | some m =>
    let ns := if m.pair then 128 else 64
    let rows := (List.range 16).map (fun k => 16 * u + k)
    let ra := rowRanges m.a (addrOf d 0) (wordOf d 4) (addrOf d 8) (wordOf d 7) rows
    let rb := rowRanges m.b (addrOf d 2) (wordOf d 5) (addrOf d 10) (wordOf d 7) (List.range ns)
    readMany (ra ++ rb) s c [] (fun s c bs =>
      let a := fun (r i : Nat) => elemValue m.a (c.scales.getD m.fa 0) (bs.getD r []) (bs.getD (16 + r) []) i
      let off := ra.length
      let b := fun (n i : Nat) => elemValue m.b (c.scales.getD m.fb 0) (bs.getD (off + n) []) (bs.getD (off + ns + n) []) i
      let col := fun (base m' n : Nat) (old : Word) => mmaElem m.a.k (a (m' - 16 * u)) (b (base + n)) old
      let s := putRows s c c.core m.acc rows (col 0) m.zero
      let s := if m.pair then putRows s c (c.core + 1) m.acc rows (col 64) m.zero else s
      .done s c 0)

/-! ### MMADRAIN (R255, R256) -/

/-- Codes of an output row as bytes (R107). -/
def packRow (e : ElemType) (codes : List Nat) : List Byte :=
  match e with
  | .bf16 => codes.flatMap (leBytes 2)
  | .fp32 => codes.flatMap (leBytes 4)
  | .narrow d =>
    if (fmtOf d).nibble then
      (List.range ((codes.length + 1) / 2)).map (fun k => BitVec.ofNat 8 (codes.getD (2 * k) 0 + 16 * codes.getD (2 * k + 1) 0))
    else codes.map (BitVec.ofNat 8)

/-- The output bytes of a row of exact values (R111 to R114, R256). -/
def outRow (e : ElemType) (rnd : Nat → Rnd) (scale : Word) (xs : List Num) : List Byte :=
  match e with
  | .narrow d =>
    if fmtScale d = 1 then
      let cs := (List.range (xs.length / 32)).map (fun b => blockScale (fmtOf d) ((xs.drop (32 * b)).take 32))
      packRow e ((List.range xs.length).map (fun n => toBlock (fmtOf d) (rnd n) (cs.getD (n / 32) 0) (xs.getD n .zero))) ++
        cs.map (BitVec.ofNat 8)
    else packRow e ((List.range xs.length).map (fun n => toNarrow d (rnd n) (xs.getD n .zero) (f32 scale)))
  | _ => packRow e ((List.range xs.length).map (fun n => e.fmt.round (rnd n) (xs.getD n .zero)))

def unitDrain (s : State) (c : Cmd) (m : Nat) : UnitRes :=
  let d := c.desc
  let ctl := wordOf d 3
  match outType c.fmts (bitsW ctl 5 4) (bitsW ctl 7 6) with
  | none => .done s c 0
  | some e =>
    let ns := drainCols d
    let t := bitsW ctl 3 0
    let len := drainBytes e ns
    let da := addrOf d 0 + (wordOf d 2).zeroExtend 64 * BitVec.ofNat 64 m
    let ra := addrOf d 5 + (wordOf d 7).zeroExtend 64 * BitVec.ofNat 64 m
    let re : ElemType := if ctl.getLsbD 12 then .bf16 else .fp32
    let coreOf := fun (n : Nat) => c.core + n / 64
    let rnd := fun (n : Nat) => (⟨modeRnd c.mode, modeSat c.mode,
      if modeRnd c.mode = 5 then stochastic (loWord c.seeds) (hiWord c.seeds) (128 * m + n) 0 c.off else 0⟩ : Rnd)
    let value := fun (s : State) (res : List Byte) (n : Nat) =>
      let x := (f32 (accGet s c.team (coreOf n) t m (n % 64))).mul (f32 (wordOf d 4))
      let x := x.add (if ctl.getLsbD 8 then re.fmt.value (elemCode re res n) else .zero) (modeRnd c.mode == 3)
      let draw := (philox (wordOf d 13 + BitVec.ofNat 32 m, wordOf d 14 + BitVec.ofNat 32 n, wordOf d 11, wordOf d 12)
        (wordOf d 8, wordOf d 9)).1
      if ctl.getLsbD 9 && decide (draw.toNat < (wordOf d 10).toNat) then Num.zero else x
    let put := fun (s : State) (c : Cmd) (res : List Byte) =>
      let xs := (List.range ns).map (value s res)
      let (s, c) := engWrite s c da (outRow e rnd (c.scales.getD (bitsW ctl 7 6) 0) xs)
      let s := if ctl.getLsbD 10 then
          (List.range ns).foldl (fun s n => accPut s c.team (coreOf n) t m (n % 64) 0) s
        else s
      UnitRes.done s c len
    writeCk s c da len (fun s => if ctl.getLsbD 8 then readR s c ra (re.bytes ns) put else put s c [])

/-! ### Compressed data and IDXWALK (R257 to R259) -/

/-- A table word of a chunk: none where the chunk is missing or malformed (R257). -/
def chunkAt (table : List Byte) (c j : Nat) : Option Nat :=
  let n := min (fieldAt table 0 4) c
  let off := fieldAt table (4 * (j + 1)) 4
  if n ≤ j ∨ off = 2 ^ 32 - 1 ∨ off % 16 ≠ 0 ∨ off < tableBytes c then none else some off

/-- Bits of a chunk's bitmap, ascending. -/
def setBits (bm : List Byte) : List Nat := (List.range 128).filter (fun j => (bm.getD (j / 8) 0).getLsbD (j % 8))

/-- The two-dimensional key order with child index 2y + x (R258, R264). -/
def tileKey (row col : Nat) : Nat :=
  (List.range 12).foldl (fun k b => k + (2 * (row / 2 ^ b % 2) + col / 2 ^ b % 2) * 4 ^ b) 0

def insertNat (x : Nat × Nat × Nat × Nat) : List (Nat × Nat × Nat × Nat) → List (Nat × Nat × Nat × Nat)
  | [] => [x]
  | y :: t => if x.1 < y.1 then x :: y :: t else y :: insertNat x t

/-- The coordinate entries of set elements in visiting order: key, row, column, position. -/
def walkOrder (ncols : Nat) (es : List Nat) : List (Nat × Nat × Nat × Nat) :=
  (List.range es.length).foldl (fun acc p =>
    let e := es.getD p 0
    let r := e / ncols
    let q := e % ncols
    insertNat (tileKey (r / 16) (q / 16) * 256 + (r % 16) * 16 + q % 16, r, q, p) acc) []

def unitWalk (s : State) (c : Cmd) : UnitRes :=
  let d := c.desc
  let total := bitsW (wordOf d 2) 15 0 * bitsW (wordOf d 2) 31 16
  let n := chunksOf total
  let cap := (wordOf d 4).toNat
  readR s c (addrOf d 0) (4 + 4 * n) (fun s c table =>
    let have_ := (List.range n).filterMap (fun j => (chunkAt table n j).map (fun o => (j, o)))
    readMany (have_.map (fun e => (addrOf d 0 + BitVec.ofNat 64 e.2, 16))) s c [] (fun s c maps =>
      let es := ((List.range have_.length).flatMap (fun k =>
        (setBits (maps.getD k [])).map (fun b => 128 * (have_.getD k (0, 0)).1 + b))).filter (· < total)
      let ents := walkOrder (bitsW (wordOf d 2) 31 16) es
      let out := ents.take cap
      let body := leBytes 4 out.length ++ leBytes 4 0 ++
        out.flatMap (fun e => leBytes 4 (e.2.1 + 65536 * e.2.2.1) ++ leBytes 4 e.2.2.2)
      .done (poolPut s c (wordOf d 3).toNat body)
        (if cap < ents.length then { c with status := c.status ||| 2 } else c) (8 + 8 * out.length)))

/-- A chunk of 128 elements compressed: bitmap, values, padding (R257). -/
def packChunk (z : Nat) (bs : List Byte) : List Byte :=
  let elem := fun (j : Nat) => (bs.drop (j * z)).take z
  let on := (List.range 128).filter (fun j => (elem j).any (· != 0))
  let bm := (List.range 16).map (fun k => (List.range 8).foldl (fun (b : Byte) i =>
    if on.contains (8 * k + i) then b ||| (1 <<< i) else b) 0)
  let body := bm ++ on.flatMap elem
  padTo ((body.length + 15) / 16 * 16) body

/-- Elements of chunk `k` of `e`. -/
def chunkLen (e k : Nat) : Nat := min 128 (e - 128 * k)

/-- The table words of a CSTORE's chunks, from an offset on: none is written from the first that does not fit (R257, R259). -/
def storeTable (cap : Nat) : Nat → List (List Byte) → List Word
  | _, [] => []
  | off, ch :: t =>
    if off + ch.length ≤ cap then BitVec.ofNat 32 off :: storeTable cap (off + ch.length) t
    else List.replicate (t.length + 1) 0xFFFFFFFF

/-- A unit of CSTORE (R259): first the table, once every chunk's size is known; then each chunk in order; the header last, with which
the table's bytes are counted. -/
def unitCstore (s : State) (c : Cmd) (u : Nat) : UnitRes :=
  let d := c.desc
  let e := (wordOf d 2).toNat
  let z := (wordOf d 3).toNat
  let n := chunksOf e
  let buf := addrOf d 4
  let table := d.drop 8
  let source := fun (off len : Nat) (k : State → Cmd → List Byte → UnitRes) =>
    if (wordOf d 7).getLsbD 0 then k s c (poolGet s c ((wordOf d 0).toNat + off) len)
    else readR s c (addrOf d 0 + BitVec.ofNat 64 off) len k
  if u = 0 then
    source 0 (e * z) (fun s c bs =>
      let ws := storeTable (wordOf d 6).toNat (tableBytes n)
        ((List.range n).map (fun k => packChunk z ((bs.drop (128 * k * z)).take (chunkLen e k * z))))
      let out := ws.flatMap (fun w => leBytes 4 w.toNat) ++ List.replicate (tableBytes n - (4 + 4 * n)) (0 : Byte)
      writeCk s c (buf + 4) out.length (fun s =>
        let (s, c) := engWrite s c (buf + 4) out
        .done s { c with desc := d.take 8 ++ ws } 0))
  else if u ≤ n then
    let k := u - 1
    let off := wordOf table k
    if off = 0xFFFFFFFF then .done s c 0
    else source (128 * k * z) (chunkLen e k * z) (fun s c bs =>
      let ch := packChunk z bs
      writeCk s c (buf + off.zeroExtend 64) ch.length (fun s =>
        let (s, c) := engWrite s c (buf + off.zeroExtend 64) ch
        .done s c ch.length))
  else
    let done := (table.filter (· != 0xFFFFFFFF)).length
    writeCk s c buf 4 (fun s =>
      let (s, c) := engWrite s c buf (leBytes 4 done)
      .done s (if done < n then { c with status := c.status ||| 2 } else c) (tableBytes n))

/-- The dense bytes of a chunk (R259). -/
def expand (z n : Nat) (bm vals : List Byte) : List Byte :=
  let on := setBits bm
  (List.range n).flatMap (fun j =>
    if on.contains j then (vals.drop (z * on.idxOf j)).take z else List.replicate z 0)

def unitCload (s : State) (c : Cmd) (k : Nat) : UnitRes :=
  let d := c.desc
  let e := (wordOf d 2).toNat
  let z := (wordOf d 3).toNat
  let n := chunksOf e
  let len := chunkLen e k
  let buf := addrOf d 0
  let put := fun (s : State) (c : Cmd) (bs : List Byte) =>
    if (wordOf d 7).getLsbD 1 then UnitRes.done (poolPut s c ((wordOf d 4).toNat + 128 * k * z) bs) c (len * z)
    else
      let da := addrOf d 4 + BitVec.ofNat 64 (128 * k * z)
      writeCk s c da (len * z) (fun s => let (s, c) := engWrite s c da bs; .done s c (len * z))
  readMany [(buf, 4), (buf + BitVec.ofNat 64 (4 * (k + 1)), 4)] s c [] (fun s c ws =>
    let hdr := min (leNat (ws.getD 0 [])) n
    let off := leNat (ws.getD 1 [])
    if hdr ≤ k ∨ off = 2 ^ 32 - 1 ∨ off % 16 ≠ 0 ∨ off < tableBytes n then
      put s { c with status := c.status ||| 8 } (List.replicate (len * z) 0)
    else
      let a := buf + BitVec.ofNat 64 off
      readR s c a 16 (fun s c bm =>
        readR s c (a + 16) (z * (setBits bm).length) (fun s c vals => put s c (expand z len bm vals))))

/-! ### COLL (R119, R260) -/

/-- The combining step of an OP of R197. -/
def collStep (op : Nat) (x y : Word) : Word :=
  match op with
  | 0 => x + y
  | 1 => addF32 x y
  | 2 => minIW x y
  | 3 => minNW x y
  | 4 => maxIW x y
  | 5 => maxNW x y
  | 6 => BitVec.ofNat 32 (fp32.minMax false x.toNat y.toNat)
  | 7 => BitVec.ofNat 32 (fp32.minMax true x.toNat y.toNat)
  | 8 => x &&& y
  | 9 => x ||| y
  | _ => x ^^^ y

/-- An element over the ranks in ascending order (R119). -/
def collFold (op : Nat) : List Word → Word
  | [] => 0
  | x :: t => t.foldl (collStep op) x

/-- A rank's data for a COLL of a communicator: the parts in which they come are joined (class 5 of R410). -/
def collAdd (l : List (Nat × RankData)) (comm : Nat) (d : RankData) : List (Nat × RankData) :=
  let same := fun (e : Nat × RankData) => e.1 == comm && e.2.rank == d.rank && e.2.nth == d.nth
  if l.any same then l.map (fun e => if same e then (e.1, { e.2 with words := e.2.words ++ d.words }) else e) else l ++ [(comm, d)]

/-- Data of a COLL that this package has in work, or has not issued yet. -/
def collOpen (s : State) (e : Nat × RankData) : Bool :=
  decide (mgetD s.dev.commNo e.1 0 ≤ e.2.nth) ||
  s.cmds.any (fun c => c.sub == 8 && (wordOf c.desc 4).toNat == e.1 && c.nth == e.2.nth)

/-- A rank's data arrive from another package. -/
def collArrive (s : State) (comm : Nat) (d : RankData) : State :=
  if collOpen s (comm, d) then { s with collIn := collAdd s.collIn comm d } else s

/-- The data that the ranks have brought for a COLL. -/
def collRanks (s : State) (c : Cmd) : List RankData :=
  (s.collIn.filter (fun e => e.1 == (wordOf c.desc 4).toNat && e.2.nth == c.nth)).map Prod.snd

/-- A rank's data in parts that one message holds (R410). -/
def collParts : Nat → RankData → List RankData
  | 0, _ => []
  | fuel + 1, d => if d.words.length ≤ 16000 then [d]
    else { d with words := d.words.take 16000 } :: collParts fuel { d with words := d.words.drop 16000 }

/-- A COLL brings its buffer to every other rank's package, in class 5 (R260, R410; log entry 21). -/
def unitCollSend (s : State) (c : Cmd) : UnitRes :=
  let d := c.desc
  let n := (wordOf d 2).toNat
  let comm := (wordOf d 4).toNat
  readR s c (addrOf d 0) (4 * n) (fun s c bs =>
    let rl := rankList s comm
    let mine : RankData := ⟨rl.idxOf s.dev.pkg, c.nth, n, (wordOf d 3).toNat, (List.range n).map (fun k => wordAt bs (4 * k))⟩
    let q := quarterOf c.core
    let s := (rl.filter (fun p => p != s.dev.pkg)).foldl (fun s p => (collParts (n / 16000 + 1) mine).foldl (fun s x =>
      (sendMsg s 5 q p q .accepted 0 (.coll comm x) none).getD s) s) s
    .done { s with collIn := collAdd s.collIn comm mine } c 0)

/-- The work of a COLL whose ranks have all matched: each element's result, in ascending rank, is written. -/
def unitColl (s : State) (c : Cmd) (ranks : List RankData) : UnitRes :=
  let d := c.desc
  let n := (wordOf d 2).toNat
  let ws := (List.range (rankList s (wordOf d 4).toNat).length).map (fun k =>
    match ranks.find? (fun r => r.rank == k) with | some r => r.words | none => [])
  writeCk s c (addrOf d 0) (4 * n) (fun s =>
    let out := (List.range n).flatMap (fun k => leBytes 4 (collFold (wordOf d 3).toNat (ws.map (fun w => w.getD k 0))).toNat)
    let (s, c) := engWrite s c (addrOf d 0) out
    .done s c (4 * n))

/-! ### Running a command -/

/-- Units of a command. -/
def unitsOf (c : Cmd) : Nat :=
  let d := c.desc
  match c.sub with
  | 0 => bitsW (wordOf d 5) 15 0
  | 1 => if d.length ≤ 8 then 2 else (rowParts c).length + 1
  | 2 => bitsW (wordOf d 7) 3 0 + 1
  | 3 => 4
  | 4 => 64
  | 5 => 1
  | 6 => chunksOf (wordOf d 2).toNat + 2
  | 7 => chunksOf (wordOf d 2).toNat
  | _ => 2

/-- At most so many units. -/
def unitsMax (c : Cmd) : Nat :=
  if c.sub = 1 then 1 + bitsW (wordOf c.desc 7) 3 0 * ((wordOf c.desc 2).toNat / 128 + 2) else unitsOf c

/-- One unit; a COLL waits for its ranks. -/
def doUnit (s : State) (c : Cmd) (u : Nat) : UnitRes :=
  match c.sub with
  | 0 => unitCpy s c u
  | 1 => unitGather s c false u
  | 2 => unitGather s c true u
  | 3 => unitMma s c u
  | 4 => unitDrain s c u
  | 5 => unitWalk s c
  | 6 => unitCstore s c u
  | 7 => unitCload s c u
  | _ => if u = 0 then unitCollSend s c else match c.ranks with
    | some ranks => unitColl s c ranks
    | none => .wait s c

/-- A stand-in for a command among the group's accesses: a later load and a later store of its split (R244, R345). -/
def Cmd.asPend (c : Cmd) : Pend :=
  { id := c.seq, sid := c.sid, ids := c.ids, formed := c.formed, pc := 0, word := 0, flag := none, lanes := 0, dst := [],
    body := .atom .xchg, writes := [], accs := [], killed := [], order := .relaxed, scope := .group, missed := false,
    done := false, entry := none, mark := 0, clause := ⟨0, 0, 0, 15, 15, 0, 0, false, []⟩, refused := none, wkey := 0,
    wgroup := 0, failed := [], left := 0,
    proto := LogEntry.empty, born := 0, lined := true, arrived := 0, seen := 0 }

/-- The accumulator tile of a matrix command. -/
def Cmd.tile (c : Cmd) : Nat := if c.sub = 3 then bitsW (wordOf c.desc 6) 3 0 else bitsW (wordOf c.desc 3) 3 0

/-- A pair operation (R252). -/
def Cmd.pairOp (c : Cmd) : Bool :=
  (c.sub == 3 && (wordOf c.desc 6).getLsbD 16) || (c.sub == 4 && (wordOf c.desc 3).getLsbD 11)

/-- Commands that this one waits for before it starts (R245); a pair operation in progress has the follower's array to itself (R252). -/
def waitsFor (c x : Cmd) : Bool :=
  (x.gid == c.gid && x.cls == c.cls && decide (x.id < c.id) &&
    (!x.begun || (c.cls == 2 && x.tile == c.tile))) ||
  (c.cls == 2 && x.begun && x.pairOp && x.id != c.id && (c.core == x.core + 1 || (c.pairOp && c.core == x.core)))

/-- A command may work (R239, R244, R245, R324). -/
def cmdReady (s : State) (c : Cmd) : Bool :=
  !c.queued && c.missed.isNone &&
  (c.begun || (!s.cmds.any (waitsFor c) &&
    !lineBehind (s.group c.gid) c.asPend && (s.group c.gid).pends.all (fun q => !blocks s (s.group c.gid) q c.asPend)))

/-- TINFO of an engine fault (R294). -/
def faultInfo (c : Cmd) (cause : Nat) : Word :=
  BitVec.ofNat 32 (c.cls + 8 * c.sub + 256 * (cause % 256) + 65536 * c.batch.toNat)

/-- A command leaves its engine; its batch counts it (R241). -/
def finishCmd (s : State) (c : Cmd) : State :=
  let s := { s with cmds := s.cmds.filter (fun x => x.id != c.id) }
  let s := if c.sub = 8 then { s with collIn := s.collIn.filter (collOpen s) } else s
  let g := s.group c.gid
  if g.kind = .vacant then s
  else
    let b := g.batch c.cls
    let n := c.batch.toNat
    let g := (g.flagDown c.flag).setBatch c.cls
      { b with left := mput b.left n (mgetD b.left n 0 - 1), status := mput b.status n (mgetD b.status n 0 ||| c.status) }
    s.setGroup c.gid (advanceBatch 65536 g c.cls)

/-- An engine fault (R261, R301): the command stops with FAULT; the group's trap becomes pending, or, when it has retired
(R141), event 8 is posted. -/
def stopCmd (s : State) (c : Cmd) (cause : Nat) (va : DWord) : State :=
  let s := finishCmd s { c with status := c.status ||| 4 }
  let g := s.group c.gid
  if g.kind = .vacant ∨ g.live = 0 then s.post (c.vf + 1) 8 (c.vf + 1) (faultInfo c cause) va
  else if g.tpend.any (fun t => t.code == 42 && t.cls == c.cls) then s
  else s.setGroup c.gid { g with tpend := g.tpend ++ [⟨42, faultInfo c cause, 0, c.cls⟩] }

/-- A unit is complete: its bytes arrive (R240). -/
def endUnit (s : State) (c : Cmd) (n : Nat) : State :=
  setCmd (boArrive s c n) { c with units := c.units + 1, part := none, asked := [], fetched := [], outs := [] }

/-- What the result of an attempt makes of the machine. -/
def applyUnit (s : State) (c : Cmd) : UnitRes → Option State
  | .done s' c' n => some (if c'.owed = 0 then endUnit s' c' n else setCmd s' { c' with part := some n })
  | .miss kind page =>
    if missRoom s (clusterOf c.core) c.asid page then
      some (setCmd (s.addMiss c.who kind page) { c with missed := some page, walkFail := false })
    else none
  | .fault cause va => some (stopCmd s c cause va)
  | .denied kind va => some (stopCmd (s.deny (c.vf + 1) (BitVec.ofNat 32 kind.code) va) c 23 va)
  | .noRoute va => some (stopCmd (s.post (c.vf + 1) 3 (c.vf + 1) 4 va) c 33 va)
  | .refused s' va => some (stopCmd (postHost s' c.vf va) c 33 va)
  | .wait s' c' =>
    let s' := { s' with free := s.free }
    if s' = s ∧ c' = c then none else some (setCmd s' c')

/-- One attempt at the next unit: none while it cannot go on. -/
def tryUnit (s : State) (c : Cmd) : Option State :=
  if !cmdReady s c then none
  else
    let c := { c with begun := true }
    match c.part with
    | some n => if c.owed = 0 then some (endUnit s c n) else none
    | none => if unitsOf c ≤ c.units then none else applyUnit s c (doUnit s c c.units)

/-- All units are done. -/
def Cmd.finished (c : Cmd) : Bool := decide (unitsOf c ≤ c.units) && c.part.isNone && c.owed == 0

/-- Runs the rest of a command as far as it can go. -/
def runCmd : Nat → State → Nat → State
  | 0, s, _ => s
  | fuel + 1, s, id =>
    match findCmd s id with
    | none => s
    | some c =>
      if c.finished then finishCmd s c
      else match tryUnit s c with
        | some s' => runCmd fuel s' id
        | none => s

/-! ### The events -/

/-- The queue that a command waits in, and its room (R328). -/
def Cmd.queueKey (c : Cmd) : Nat × Nat :=
  match c.cls with
  | 0 => (0, clusterOf c.core) | 1 => (1, c.core) | 2 => (2, c.core / 2) | 3 => (3, clusterOf c.core) | _ => (4, 0)

def queueRoom : Nat → Nat
  | 0 => 32 | 1 => 16 | 2 => 4 | 3 => 8 | _ => 16

/-- ENGINE_ACCEPT (R239, R328): in the order the commands reached their queue, while it has room; the flag falls. -/
def acceptReady (s : State) (c : Cmd) : Bool :=
  c.queued &&
  !s.cmds.any (fun x => x.queued && x.queueKey == c.queueKey && decide (x.id < c.id)) &&
  decide ((s.cmds.filter (fun x => !x.queued && x.queueKey == c.queueKey)).length < queueRoom c.cls)

def execEngineAccept (cmd : Nat) (s : State) : Host.Outcome State Fault Refusal :=
  match findCmd s cmd with
  | some c =>
    if acceptReady s c then
      .next (setCmd (s.setGroup c.gid ((s.group c.gid).flagDown c.flag)) { c with queued := false, flag := none })
    else .next s
  | none => .next s

/-- BO_ARRIVAL (R226, R240): the engine does its next unit and arrives with its bytes. -/
def execBoArrival (cmd : Nat) (s : State) : Host.Outcome State Fault Refusal :=
  match findCmd s cmd with
  | some c => .next ((tryUnit s c).getD s)
  | none => .next s

/-- ENGINE_COMMAND_COMPLETE (R241): the rest of the work, then the status. -/
def execEngineCommandComplete (cmd : Nat) (s : State) : Host.Outcome State Fault Refusal :=
  match findCmd s cmd with
  | some c => .next (runCmd (2 * unitsMax c + 2) s cmd)
  | none => .next s

/-- ENGINE_RESUME (R325): after the walk of its page; a walk without a fill ends the command (R261). The address concerned is then the
page's (DESIGN CHOICE, log entry 30). -/
def execEngineResume (cmd : Nat) (s : State) : Host.Outcome State Fault Refusal :=
  match findCmd s cmd with
  | some c =>
    match c.missed with
    | some page =>
      if stillMissed s (clusterOf c.core) c.asid page then .next s
      else if c.walkFail then .next (stopCmd s c 23 (BitVec.ofNat 64 (page * 2 ^ 21)))
      else .next (setCmd s { c with missed := none })
    | none => .next s
  | none => .next s

/-- A COLL that is refused: REFUSED set, its bytes still counted (R260). -/
def refuseColl (s : State) (c : Cmd) : State :=
  finishCmd (boArrive s c (4 * (wordOf c.desc 2).toNat)) { c with status := c.status ||| 16 }

/-- In time every rank has arrived with its COLL of the same number, this one among them. Ranks that differ in COUNT or OP
refuse the command; else what they bring is kept, and the result can be formed. -/
def matchColl (s : State) (c : Cmd) : Option State :=
  let n := (wordOf c.desc 2).toNat
  let rl := rankList s (wordOf c.desc 4).toNat
  let rs := collRanks s c
  if c.ranks.isSome || decide (c.deadline.toNat ≤ s.clock.toNat) then none
  else if !(List.range rl.length).all (fun k => rs.any (fun r => r.rank == k && r.words.length == r.count)) then none
  else if rs.any (fun r => r.count != n || r.op != (wordOf c.desc 3).toNat) then some (refuseColl s c)
  else some (setCmd s { c with ranks := some rs })

/-- COLL_MATCH of a command on its communicator (R260). -/
def execCollMatch (cmd comm : Nat) (s : State) : Host.Outcome State Fault Refusal :=
  match findCmd s cmd with
  | some c =>
    if c.sub = 8 ∧ (wordOf c.desc 4).toNat = comm then
      match matchColl s c with
      | some s' => .next (runCmd 2 s' cmd)
      | none => .next s
    else .next s
  | none => .next s

/-- COLL_TIMEOUT (R260): some rank did not arrive in time. -/
def execCollTimeout (cmd : Nat) (s : State) : Host.Outcome State Fault Refusal :=
  match findCmd s cmd with
  | some c => if c.sub = 8 ∧ c.ranks = none ∧ c.deadline.toNat ≤ s.clock.toNat then .next (refuseColl s c) else .next s
  | none => .next s

end Sys2Proof.Machine
end

