-- ==== Sys2Proof/Machine/Keyspace.lean ====
section
/-! DEFINITION. The cut list and the cell indices (20, R385 to R396), lookups, staging, commits, cost, rebalancing and
ordered phases (11, R269 to R279): class 110 FN 001 and 010. -/

namespace Sys2Proof.Machine

/-! ### Tables in memory -/

def Task.asid (t : Task) : Nat := t.record.asid
def Task.master (t : Task) : Nat := t.mailbox / 8 + 1

/-- The first piece of a range that the hardware cannot access in a way. -/
def failAddr (s : State) (t : Task) (va : DWord) (n : Nat) (kind : AccKind) : DWord :=
  match (piecesOf va.toNat n).find? (fun p =>
      match hwXlat s t.asid t.master (BitVec.ofNat 64 p.1) kind with
      | some x => !isHbm x.1 || spanBad s x.2 x.1 p.2
      | none => true) with
  | some p => BitVec.ofNat 64 p.1
  | none => va

/-- Reads a table of the task; the address of what cannot be read otherwise. -/
def tget (s : State) (t : Task) (va : DWord) (n : Nat) : Except DWord (List Byte) :=
  match hwRead s t.asid t.master va n with
  | some bs => .ok bs
  | none => .error (failAddr s t va n .read)

/-- Some byte of a range is uncorrectable. -/
def rangeBad (s : State) (t : Task) (va : DWord) (n : Nat) : Bool :=
  (piecesOf va.toNat n).any (fun p => match hwXlat s t.asid t.master (BitVec.ofNat 64 p.1) .write with
    | some x => spanBad s x.2 x.1 p.2
    | none => true)

/-- Writes a table of the task (R439). -/
def tput (s : State) (t : Task) (va : DWord) (data : List Byte) : Except DWord State :=
  if rangeBad s t va data.length then .error (failAddr s t va data.length .write)
  else match hwWrite s t.asid t.master va data with
    | some s' => .ok s'
    | none => .error (failAddr s t va data.length .write)


/-- An entry of a cell index (R389). STATE: 0 LIVE, 1 LEAVING, 2 FORWARDED, 3 ARRIVING. -/
structure KEnt where
  key     : DWord
  payload : DWord
  cost    : Word
  state   : Nat
  fwd     : Word
  deriving DecidableEq, Repr

def entOf (bs : List Byte) (k : Nat) : KEnt :=
  ⟨dwordAt bs (32 * k), dwordAt bs (32 * k + 8), wordAt bs (32 * k + 16), fieldAt bs (32 * k + 20) 4 % 4,
   wordAt bs (32 * k + 24)⟩

def KEnt.bytes (e : KEnt) : List Byte :=
  leBytes 8 e.key.toNat ++ leBytes 8 e.payload.toNat ++ leBytes 4 e.cost.toNat ++ leBytes 4 e.state ++
  leBytes 4 e.fwd.toNat ++ leBytes 4 0

/-- The cell index of owner `j`. -/
def readIndex (s : State) (t : Task) (d : KDesc) (j : Nat) : Except DWord (List KEnt) := do
  let h ← tget s t (indexAddr d j) 64
  let n := fieldAt h 0 4
  let bs ← tget s t (indexAddr d j + 64) (32 * n)
  return (List.range n).map (entOf bs)

def writeIndex (s : State) (t : Task) (d : KDesc) (j : Nat) (es : List KEnt) : Except DWord State :=
  tput s t (indexAddr d j) (leBytes 4 es.length ++ List.replicate 60 0 ++ es.flatMap KEnt.bytes)

/-- LIVE or LEAVING: a leaf (R389). -/
def KEnt.leaf (e : KEnt) : Bool := e.state == 0 || e.state == 1

/-- The cut list of a version. -/
def cutsOf (s : State) (t : Task) (d : KDesc) (ver : DWord) : Except DWord (List Cut) := do
  let bs ← tget s t (cutBuffer d ver) (16 * d.nown)
  return (List.range d.nown).map (cutAt bs)

/-- VERSION as this package's header gives it. -/
def headVersion (s : State) (t : Task) (d : KDesc) : Except DWord DWord := do
  let bs ← tget s t d.cuts 8
  return leDWord bs

def Cut.local (s : State) (c : Cut) : Bool := ownerPkg c.owner == s.dev.pkg

def cutEntry (cs : List Cut) (j : Nat) : Cut := cs.getD j ⟨0, 0, true, true⟩

/-- The owners of this package. -/
def localOwners (s : State) (cs : List Cut) : List Nat :=
  (List.range cs.length).filter (fun j => (cutEntry cs j).local s)

/-- R387: the owner of the reach that holds a key. -/
def reachOf (cs : List Cut) (k : Nat) : Option Nat :=
  let live := (List.range cs.length).filter (fun j => !(cutEntry cs j).empty)
  match (live.filter (fun j => decide ((cutEntry cs j).first.toNat ≤ k))).getLast? with
  | some j => some j
  | none => live.head?

/-! ### A table that cannot be written (R439) -/

/-- The bytes of a range become free, as far as the hardware can write them. -/
def freeRange (s : State) (t : Task) (r : DWord × Nat) : State :=
  let (x, s) := s.draw
  let bs := leBytes r.2 x
  (piecesOf r.1.toNat r.2).foldl (fun s p =>
    match hwXlat s t.asid t.master (BitVec.ofNat 64 p.1) .write with
    | some a =>
      if isHbm a.1 then spanWrite s a.2 a.1 0 0 0 (wholeBytes ((bs.drop (p.1 - r.1.toNat)).take p.2)) else s
    | none => s) s

/-- The tables of a task in this package: the cut list and its owners' indices, every owner's where the list cannot be read. -/
def tableRanges (s : State) (t : Task) (d : KDesc) : List (DWord × Nat) :=
  let owners := match (do let v ← headVersion s t d; cutsOf s t d v : Except DWord (List Cut)) with
    | .ok cs => localOwners s cs
    | .error _ => List.range d.nown
  (d.cuts, 64 + 32 * d.nown) :: owners.map (fun j => (indexAddr d j, indexBytes d))

/-- The task is killed, its handles break with KILLED, event 10 is posted, and the contents of the tables are free. -/
def tableFail (s : State) (tid : Nat) (t : Task) (va : DWord) : State :=
  let s := s.post t.master 10 t.master 0 va
  let s := match t.kdesc with
    | some d => (tableRanges s t d).foldl (fun s r => freeRange s t r) s
    | none => s
  let s := s.setTask tid { t with rebal := none }
  killTask (breakTask s tid 2) tid false

/-- Ends an event of the tables: done, or R439.
A table that cannot be read ends it like one that cannot be written, a case of which R439 does not speak (log entry 27, DESIGN CHOICE). -/
def endTable (s : State) (tid : Nat) (t : Task) : Except DWord State → State
  | .ok s' => s'
  | .error va => tableFail s tid t va

/-- R277: some owner is in another package. -/
def spansPackages (s : State) (t : Task) : Bool :=
  match t.kdesc with
  | none => false
  | some d => match headVersion s t d with
    | .ok v => match cutsOf s t d v with
      | .ok cs => cs.any (fun c => !c.local s)
      | .error _ => false
    | .error _ => false

/-! ### Leaves as a quarter sees them (R271, R272) -/

/-- A leaf: its key, its owner's entry number, whether it is migrating for the quarter that asks. -/
structure KLeaf where
  key   : DWord
  owner : Nat
  moving : Bool
  deriving DecidableEq, Repr

/-- The version that a quarter has switched to (R270). -/
def quarterVersion (t : Task) (q : Nat) : DWord := mgetD t.versions q 1

/-- A move whose copy has begun. -/
def begunMove (t : Task) (k : DWord) : Option Move :=
  t.rebal.bind (fun r => r.moves.find? (fun m => m.key == k && m.stage != 0))

def switchedTo (t : Task) (q : Nat) : Bool :=
  match t.rebal with
  | some r => r.switched.contains q
  | none => true

/-- The indices of this package's owners. -/
abbrev Indices := List (Nat × List KEnt)

def Indices.of (all : Indices) (j : Nat) : Option (List KEnt) := (all.find? (fun e => e.1 == j)).map (fun e => e.2)

/-- The new owner of a leaf that has moved still has it: no commit there has replaced it since. -/
def stillLeaf (all : Indices) (m : Move) : Bool :=
  match all.of m.dst with
  | some es => es.any (fun e => e.key == m.key && e.state != 2)
  | none => true

/-- What an entry of owner `j` is for a quarter: the old owner's record stands for a leaf on the move, or the new owner's where the
old one is in another package. -/
def seenLeaf (t : Task) (q : Nat) (all : Indices) (j : Nat) (e : KEnt) : Option KLeaf :=
  match begunMove t e.key with
  | some m =>
    if j = m.src then
      if decide (m.stage < 3) || stillLeaf all m then
        (if switchedTo t q then some ⟨e.key, m.dst, false⟩ else some ⟨e.key, m.src, true⟩)
      else none
    else if j = m.dst ∧ (all.of m.src).isNone ∧ switchedTo t q then some ⟨e.key, j, false⟩ else none
  | none => if e.leaf then some ⟨e.key, j, false⟩ else none

def localIndices (s : State) (t : Task) (d : KDesc) (cs : List Cut) : Except DWord Indices :=
  (localOwners s cs).foldlM (fun acc j => do
    let es ← readIndex s t d j
    return acc ++ [(j, es)]) []

/-- Every leaf that this package's owners hold, owner by owner. -/
def seenLeaves (s : State) (t : Task) (d : KDesc) (cs : List Cut) (q : Nat) : Except DWord (List KLeaf) := do
  let all ← localIndices s t d cs
  return all.flatMap (fun e => e.2.filterMap (seenLeaf t q all e.1))

/-- What KLOCATE finds for a key (R271): status, the leaf named, the number of leaves. -/
structure Located where
  status : Nat
  leaf   : Option KLeaf
  count  : Nat
  deriving DecidableEq, Repr

/-- The lowest key of some leaves. -/
def firstLeaf : List KLeaf → Option KLeaf
  | [] => none
  | x :: t => match firstLeaf t with
    | none => some x
    | some y => if x.key.toNat ≤ y.key.toNat then some x else some y

/-- R269: the no-key value, a malformed key and a key of another DIM are alike. -/
def goodKey (d : KDesc) (k : Nat) : Bool := keyOk k && keyDim k == d.dim

def locate (d : KDesc) (ls : List KLeaf) (k : Nat) : Located :=
  if !goodKey d k then ⟨4, none, 0⟩
  else match ls.find? (fun l => l.key.toNat == k) with
    | some l => ⟨0, some l, 1⟩
    | none => match ls.find? (fun l => inSubtree l.key.toNat k) with
      | some l => ⟨1, some l, 1⟩
      | none =>
        let below := ls.filter (fun l => inSubtree k l.key.toNat)
        match firstLeaf below with
        | some l => ⟨2, some l, min below.length (2 ^ 24 - 1)⟩
        | none => ⟨4, none, 0⟩

/-- The four words of a run (R271). -/
def runWords (cs : List Cut) (l : Located) : List Word :=
  match l.leaf with
  | some f => [loWord f.key, hiWord f.key, (cutEntry cs f.owner).owner, BitVec.ofNat 32 (l.status + 256 * l.count)]
  | none => [0, 0, 0xFFFFFFFF, 4]

/-- Some owner whose leaves the answer depends on is in another package: its index is not held here, and the answer is
free (DESIGN CHOICE, log entry 23). -/
def answeredAway (s : State) (d : KDesc) (cs : List Cut) (k : Nat) : Bool :=
  goodKey d k &&
  (List.range cs.length).any (fun j => !(cutEntry cs j).local s && !(cutEntry cs j).empty &&
    (reachOf cs k == some j || inSubtree k (cutEntry cs j).first.toNat))

/-- Draws words. -/
def drawWords : Nat → State → List Word × State
  | 0, s => ([], s)
  | n + 1, s =>
    let (x, s) := s.draw
    let (xs, s) := drawWords n s
    (BitVec.ofNat 32 x :: xs, s)

/-- What a lookup needs: the task, its descriptor, the cuts of the quarter's version, the leaves. -/
structure KView where
  d  : KDesc
  cs : List Cut
  ls : List KLeaf

def kview (s : State) (t : Task) (q : Nat) : Option KView :=
  t.kdesc.bind (fun d =>
    match cutsOf s t d (quarterVersion t q) with
    | .ok cs => match seenLeaves s t d cs q with
      | .ok ls => some ⟨d, cs, ls⟩
      | .error _ => none
    | .error _ => none)

/-- The leaf that a run would name is migrating for the quarter (R272). -/
def Located.moving (l : Located) : Bool := match l.leaf with | some f => f.moving | none => false

/-- One run of KLOCATE in a quarter; none where it needs a handle. Tables that cannot be read give free words. -/
def kRun (s : State) (v : Option KView) (k : Nat) : Option (List Word × State) :=
  match v with
  | none => some (drawWords 4 s)
  | some v =>
    if answeredAway s v.d v.cs k then some (drawWords 4 s)
    else
      let l := locate v.d v.ls k
      if l.moving then none else some (runWords v.cs l, s)

/-- Runs of some keys, each with a handle where its leaf is migrating; none where a handle is missing. -/
def kRuns (s : State) (v : Option KView) (q task : Nat) (handles : Bool) :
    List (Nat × DWord) → Option (List (Nat × List Word) × State)
  | [] => some ([], s)
  | (i, k) :: t =>
    match kRun s v k.toNat with
    | some (ws, s) => (kRuns s v q task handles t).map (fun r => ((i, ws) :: r.1, r.2))
    | none =>
      if !handles then none
      else match issueHandle s q task 20 (some (k, q)) with
        | none => none
        | some (h, s) => (kRuns s v q task handles t).map (fun r => ((i, [loWord h, hiWord h, 0, 3]) :: r.1, r.2))

/-- A word of a lane's run. -/
def runAt (rs : List (Nat × List Word)) (j i : Nat) : Word :=
  match rs.find? (fun e => e.1 == i) with
  | some e => e.2.getD j 0
  | none => 0

/-! ### Instructions of the tables -/

/-- R266 check 4: the task has a keyspace. -/
def withKeyspace (s : State) (k : Nat → Task → KDesc → Res) : Res :=
  match s.task? s.G.task with
  | some t => match t.kdesc with
    | some d => k s.G.task t d
    | none => .trap { Trap.of 27 with lanes := s.G.active }
  | none => .trap { Trap.of 27 with lanes := s.G.active }

def Group.laneKeys (g : Group) (a : F7) : List (Nat × DWord) := (laneList g.active).map (fun i => (i, g.rdV2 a.toNat i))

/-- KLOCATE (R271, R272). -/
def execKlocate (d a : F7) (s : State) :=
  issueWith (Instr.shape (.klocate d a)) s (fun sh s =>
    withKeyspace s (fun tid t _ =>
      let g := s.G
      let q := quarterOf g.core
      let ks := g.laneKeys a
      match kRuns s (kview s t q) q tid true ks with
      | some (rs, s) =>
        .ok (s.setG ((List.range 4).foldl (fun g' j => g'.putV g.nextId (d.toNat + j) g.active (runAt rs j)) s.G))
      | none => .ok (s.addPend { g.mkPend sh g.fa .klocate with
          accs := ks.map (fun e => ⟨e.1, e.2, 0, 0, none, none, [], 0, 0⟩) })))

/-- A KLOCATE without a handle completes when the quarter has switched (R272). -/
def tryKlocate (s : State) (p : Pend) : Option State :=
  let q := quarterOf s.G.core
  if !mayPerform s s.G p then none
  else
    let v := (s.task? s.G.task).bind (fun t => kview s t q)
    match kRuns s v q s.G.task false (p.accs.map (fun a => (a.lane, a.va))) with
    | some (rs, s) =>
      let ws : List RegWrite := (List.range 4).filterMap (fun j =>
        (p.dst[j]?).map (fun r => ⟨r, mkRow (runAt rs j), p.lanes⟩))
      some (s.setG (s.G.complete p ws))
    | none => none

/-- The entry holds a key of a task (R387). -/
def CutEnt.holds (e : CutEnt) (task k : Nat) : Bool :=
  e.task == task && decide (e.first.toNat ≤ k) && (e.next == 0 || decide (k < e.next.toNat))

/-- The owner of a key for a quarter (R388): from its local table, from its cut cache, or from its version of the cut list, whose entry
goes into the cache in place of the least recently used one. Where the list cannot be read it is free (DESIGN CHOICE, log entry 3). -/
def lookupOwner (s : State) (t : Task) (d : KDesc) (q tid k : Nat) : Word × State :=
  let ts := s.cutTables q
  match ts.loc.find? (fun e => e.holds tid k) with
  | some e => (e.owner, s)
  | none => match ts.cache.find? (fun e => e.holds tid k) with
    | some e => (e.owner, s.setCutTables q { ts with cache := e :: ts.cache.erase e })
    | none =>
      match (match cutsOf s t d (quarterVersion t q) with
          | .ok cs => (reachEnts tid cs).find? (fun (e : CutEnt) => e.holds tid k)
          | .error _ => none) with
      | some e => (e.owner, s.setCutTables q { ts with cache := (e :: ts.cache).take 16384 })
      | none => let (n, s) := s.draw; (BitVec.ofNat 32 n, s)

/-- Lookups of some lanes in turn. -/
def lookupOwners (s : State) (t : Task) (d : KDesc) (q tid : Nat) : List (Nat × DWord) → List (Nat × Word) × State
  | [] => ([], s)
  | (i, k) :: ks =>
    let (w, s) := if goodKey d k.toNat then lookupOwner s t d q tid k.toNat else (0xFFFFFFFF, s)
    let (ws, s) := lookupOwners s t d q tid ks
    ((i, w) :: ws, s)

/-- KOWNER (R270). -/
def execKowner (d a : F7) (s : State) :=
  issueWith (Instr.shape (.kowner d a)) s (fun _ s =>
    withKeyspace s (fun tid t kd =>
      let g := s.G
      let q := quarterOf g.core
      let (ws, s) := lookupOwners s t kd q tid (g.laneKeys a)
      let version := fun (i : Nat) => if goodKey kd (g.rdV2 a.toNat i).toNat then loWord (quarterVersion t q) else 0xFFFFFFFF
      writeVs s d.toNat 2 (fun j i => if j = 0 then mgetD ws i 0xFFFFFFFF else version i)))

/-! ### Staging (R273) -/

/-- The entry number of the issuing team's owner. -/
def teamOwner (s : State) (g : Group) (cs : List Cut) : Option Nat :=
  if g.kind = .started ∨ g.kind = .spawned then
    let q := quarterOf g.core
    let pr := g.core % 192 / 2
    (List.range cs.length).find? (fun j =>
      let o := (cutEntry cs j).owner
      ownerPkg o == s.dev.pkg && ownerQtr o == q && ownerPair o == pr)
  else none

def kidsOf (d : KDesc) (k : Nat) : List Nat := (List.range (2 ^ d.dim)).map (keyChildOf k)

/-- The leaves that a request names. -/
def named (d : KDesc) (refine : Bool) (k : Nat) : List Nat := if refine then [k] else kidsOf d k

def liveAt (es : List KEnt) (k : Nat) : Bool := es.any (fun e => e.key.toNat == k && e.state == 0)

/-- A request of a lane: staged or refused. -/
def stageOne (d : KDesc) (es : List KEnt) (staged : List (Bool × DWord)) (refine : Bool) (k : DWord) :
    Bool × List (Bool × DWord) :=
  let n := k.toNat
  if !goodKey d n || (refine && keyLvl n == maxLvl d.dim) || (!refine && keyLvl n == 0) ||
     !(named d refine n).all (liveAt es) then (false, staged)
  else if staged.contains (refine, k) then (true, staged)
  else if 4096 ≤ staged.length then (false, staged)
  else (true, staged ++ [(refine, k)])

/-- Requests of the lanes in ascending order: the lanes accepted, the team's requests. -/
def stageAll (d : KDesc) (es : List KEnt) (refine : Bool) :
    List (Nat × DWord) → List (Bool × DWord) → Mask × List (Bool × DWord)
  | [], st => (0, st)
  | (i, k) :: t, st =>
    let r := stageOne d es st refine k
    let rest := stageAll d es refine t r.2
    (if r.1 then rest.1 ||| BitVec.ofNat 96 (2 ^ i) else rest.1, rest.2)

/-- KREFINE and KCOARSEN. Where the tables cannot be read the answer is free (DESIGN CHOICE, log entry 3). -/
def stageReq (s : State) (refine : Bool) (d a : F7) : Res :=
  withKeyspace s (fun _ t kd =>
    let g := s.G
    let res : Except DWord (Option (List KEnt)) := do
      let v ← headVersion s t kd
      let cs ← cutsOf s t kd v
      match teamOwner s g cs with
      | none => return none
      | some j => let es ← readIndex s t kd j; return some es
    match res, s.team? g.team with
    | .ok (some es), some tm =>
      let r := stageAll kd es refine (g.laneKeys a) tm.staged
      writeP (s.setTeam g.team { tm with staged := r.2 }) d.toNat (fun i => r.1.getLsbD i)
    | .error _, _ =>
      let (n, s) := s.draw
      writeP s d.toNat (fun i => (BitVec.ofNat 96 n).getLsbD i)
    | _, _ => writeP s d.toNat (fun _ => false))

def execKrefine (d a : F7) (s : State) :=
  issue (Instr.shape (.krefine d a)) s (fun s => stageReq s true d a)
def execKcoarsen (d a : F7) (s : State) :=
  issue (Instr.shape (.kcoarsen d a)) s (fun s => stageReq s false d a)

/-! ### KCOST (R275, R394) -/

/-- Adds a cost to an entry where it stands. -/
def addCostAt (s : State) (t : Task) (d : KDesc) (j : Nat) (k amount : Nat) : Except DWord (Option State) := do
  let es ← readIndex s t d j
  match es.findIdx? (fun e => e.key.toNat == k && e.leaf) with
  | none => return none
  | some n =>
    let c := (es.getD n ⟨0, 0, 0, 0, 0⟩).cost.toNat + amount
    let s' ← tput s t (indexAddr d j + BitVec.ofNat 64 (64 + 32 * n + 16)) (leBytes 4 (min c (2 ^ 32 - 1)))
    return some s'

/-- Tries the owners of this package in turn. -/
def addCostAny (s : State) (t : Task) (d : KDesc) (k amount : Nat) : List Nat → Except DWord State
  | [] => .ok s
  | j :: js => do
    match ← addCostAt s t d j k amount with
    | some s' => return s'
    | none => addCostAny s t d k amount js

/-- A saturating sum of costs. -/
def satCost (x : Word) (n : Nat) : Word := BitVec.ofNat 32 (min (x.toNat + n) (2 ^ 32 - 1))

/-- Holds a cost for a leaf on the move. -/
def holdCost (r : Rebal) (k : DWord) (amount : Nat) : Rebal :=
  { r with moves := r.moves.map (fun m => if m.key = k then { m with held := satCost m.held amount } else m) }

/-- Sends a keyspace message from a quarter to an owner's (class 6). -/
def tellOwner (s : State) (q : Nat) (o : Word) (body : MsgBody) : State :=
  (sendMsg s 6 q (ownerPkg o) (ownerQtr o) .accepted 0 body none).getD s

/-- One cost addition, made in a quarter, at the leaf's current owner: held while the leaf moves, else added; sent on, with what waits for
its acknowledgement, where the leaf's reach or its new owner is in another package: `true` then. -/
def addCost (s : State) (q : Nat) (tid : Nat) (k : DWord) (amount : Word) (link : Option (Nat × Nat × Nat)) : Bool × State :=
  match s.task? tid with
  | none => (false, s)
  | some t => match t.kdesc with
    | none => (false, s)
    | some d =>
      if !goodKey d k.toNat then (false, s)
      else
        let away := fun (s : State) (o : Word) =>
          match sendMsg s 6 q (ownerPkg o) (ownerQtr o) .accepted 0 (.cost tid k amount) link with
          | some s => (true, s)
          | none => (false, s)
        let res : Except DWord (Bool × State) := do
          let v ← headVersion s t d
          let cs ← cutsOf s t d v
          let others := localOwners s cs
          match begunMove t k, t.rebal with
          | some m, some r =>
            if m.stage < 3 then return (false, s.setTask tid { t with rebal := some (holdCost r k amount.toNat) })
            else if (cutEntry cs m.dst).local s then
              let s ← addCostAny s t d k.toNat amount.toNat [m.dst]
              return (false, s)
            else return away s (cutEntry cs m.dst).owner
          | _, _ =>
            match reachOf cs k.toNat with
            | some j =>
              if (cutEntry cs j).local s then
                let s ← addCostAny s t d k.toNat amount.toNat others
                return (false, s)
              else return away s (cutEntry cs j).owner
            | none => return (false, s)
        match res with
        | .ok r => r
        | .error va => (false, tableFail s tid t va)

/-- The cost additions of some lanes of instruction `id` in turn: the lanes whose addition another package makes. -/
def addCosts (s : State) (tid id : Nat) : List (Nat × DWord × Word) → List (Nat × DWord) × State
  | [] => ([], s)
  | (i, k, c) :: t =>
    let (out, s) := addCost s (quarterOf s.G.core) tid k c (some (s.cur, id, i))
    let (rest, s) := addCosts s tid id t
    (if out then (i, k) :: rest else rest, s)

/-- KCOST (R275): complete once every owner in another package has taken its additions (R392); their messages count as transfers (R37). -/
def execKcost (a b : F7) (s : State) :=
  issueWith (Instr.shape (.kcost a b)) s (fun sh s =>
    withKeyspace s (fun tid _ _ =>
      let g := s.G
      if 65535 < g.xfer + laneCount g.active then .stall
      else
        let p := g.mkPend sh g.fa .kcost
        let (out, s) := addCosts s tid p.id ((laneList g.active).map (fun i => (i, g.rdV2 a.toNat i, g.rdV b.toNat i)))
        if out = [] then .ok s
        else .ok ((s.setG { s.G with xfer := s.G.xfer + out.length }).addPend { p with
          accs := out.map (fun e => ⟨e.1, e.2, 0, 0, none, none, [], 0, 1⟩) })))

/-- A KCOST whose additions have all been answered is complete. -/
def tryKcost (s : State) (p : Pend) : Option State :=
  if p.accs.all (fun a => a.st == 2) then some (s.setG (s.G.complete p [])) else none

/-! ### KCOMMIT and team barriers (R228, R229, R274, R390, R395, R404) -/

def execKcommit (s : State) :=
  issueWith (Instr.shape .kcommit) s (fun sh s =>
    let g := s.G
    if !g.whole then .trap (g.splitTrap 21)
    else withKeyspace s (fun _ _ _ =>
      if g.kind = .started then waitPend (s.setG { g with bars := g.bars + 1 }) sh (.kcommit (g.bars + 1))
      else waitPend s sh (.fence .full .team)))

/-- Slot numbers of an owner that entries name (R390). -/
def usedSlots (d : KDesc) (j : Nat) (es : List KEnt) : List Nat :=
  es.map (fun e => (e.payload - d.payload).toNat / d.psize - j * d.icap)

/-- The lowest free slot from `n`. -/
def lowestSlot (used : List Nat) : Nat → Nat → Nat
  | 0, n => n
  | fuel + 1, n => if used.contains n then lowestSlot used fuel (n + 1) else n

def slotAddr (d : KDesc) (j n : Nat) : DWord := d.payload + BitVec.ofNat 64 ((j * d.icap + n) * d.psize)

/-- Inserts an entry in ascending KEY. -/
def insertEnt (e : KEnt) : List KEnt → List KEnt
  | [] => [e]
  | x :: t => if e.key.toNat < x.key.toNat then e :: x :: t else x :: insertEnt e t

def dropEnt (k : Nat) (es : List KEnt) : List KEnt := es.filter (fun e => e.key.toNat != k)

/-- The new children of a refined leaf: child 0 keeps the slot, the others take the lowest free ones. -/
def addKids (d : KDesc) (j : Nat) (slot : DWord) : List Nat → Bool → List KEnt → List KEnt
  | [], _, es => es
  | k :: ks, first, es =>
    let used := usedSlots d j es
    let a := if first then slot else slotAddr d j (lowestSlot used (used.length + 1) 0)
    addKids d j slot ks false (insertEnt ⟨BitVec.ofNat 64 k, a, 0, 0, 0⟩ es)

/-- One request applied to an owner's entries; dropped where what it names is not there any more. -/
def applyReq (d : KDesc) (j : Nat) (all : List (Bool × DWord)) (es : List KEnt) (r : Bool × DWord) : List KEnt :=
  let k := r.2.toNat
  let kids := kidsOf d k
  if r.1 then
    match es.find? (fun e => e.key.toNat == k && e.state == 0) with
    | some e => addKids d j e.payload kids true (dropEnt k es)
    | none => es
  else if kids.any (fun x => all.any (fun q => q.1 && q.2.toNat == x)) || !kids.all (liveAt es) then es
  else
    let slot := match es.find? (fun e => e.key.toNat == kids.headD 0) with | some e => e.payload | none => 0
    let cost := kids.foldl (fun c x => match es.find? (fun e => e.key.toNat == x) with
      | some e => satCost c e.cost.toNat
      | none => c) (0 : Word)
    insertEnt ⟨r.2, slot, cost, 0, 0⟩ (kids.foldl (fun es x => dropEnt x es) es)

/-- Requests in ascending key order. -/
def insertReq (r : Bool × DWord) : List (Bool × DWord) → List (Bool × DWord)
  | [] => [r]
  | x :: t => if r.2.toNat < x.2.toNat then r :: x :: t else x :: insertReq r t

def sortReqs (rs : List (Bool × DWord)) : List (Bool × DWord) := rs.foldl (fun acc r => insertReq r acc) []

/-- R395: a request names a leaf whose move at this owner is not finished. -/
def commitWaits (t : Task) (d : KDesc) (rs : List (Bool × DWord)) : Bool :=
  rs.any (fun r => (named d r.1 r.2.toNat).any (fun k =>
    match begunMove t (BitVec.ofNat 64 k) with | some m => decide (m.stage < 3) | none => false))

/-- One owner of each other package that holds some. -/
def awayOwners (s : State) (cs : List Cut) : List Cut :=
  (cs.filter (fun c => !c.local s)).foldl (fun acc c =>
    if acc.any (fun x => ownerPkg x.owner == ownerPkg c.owner) then acc else acc ++ [c]) []

/-- Every other package that holds an owner is told. -/
def tellPackages (s : State) (q : Nat) (cs : List Cut) (body : MsgBody) : State :=
  (awayOwners s cs).foldl (fun s c => tellOwner s q c.owner body) s

/-- An entry is the parent of a cell that is its child 0. -/
def KEnt.above (e : KEnt) (d : KDesc) (k : Nat) : Bool := e.leaf && (kidsOf d e.key.toNat).head? == some k

/-- The leaf that begins where another that a commit has replaced began: its first child, or the parent of a child 0. -/
def heirOf (d : KDesc) (es : List KEnt) (k : Nat) : Option KEnt :=
  es.find? (fun e => e.above d k || (e.leaf && inSubtree k e.key.toNat))

/-- The versions of the cut list that something still reads: VERSION's, each quarter's, and the one a rebalance has written. -/
def versionsInUse (t : Task) (head : DWord) : List DWord :=
  ([head] ++ [0, 1, 2, 3].map (quarterVersion t) ++
    (match t.rebal with | some r => if r.snap then [r.version] else [] | none => [])).eraseDups

/-- The first leaf after a key among an owner's entries. -/
def nextLeaf (es : List KEnt) (k : Nat) : Option DWord :=
  (firstLeaf ((es.filter (fun e => e.leaf && decide (k < e.key.toNat))).map (fun e => ⟨e.key, 0, false⟩))).map (fun l => l.key)

/-- The lowest FIRST of a cut list above a key. -/
def firstAbove (cs : List Cut) (k : Nat) : Option DWord :=
  (firstLeaf ((cs.filter (fun c => !c.empty && decide (k < c.first.toNat))).map (fun c => ⟨c.first, 0, false⟩))).map (fun l => l.key)

/-- FIRST of a reach in the tables of a quarter: its neighbour's NEXT follows, and a cut cache drops both entries. -/
def CutTables.setFirst (x : CutTables) (task : Nat) (owners : List Word) (old new : DWord) : CutTables :=
  { loc := x.loc.map (fun e => if e.task = task then
      { e with first := if e.first = old then new else e.first, next := if e.next = old then new else e.next } else e),
    cache := x.cache.filter (fun e => !(e.task == task && (e.first == old || e.next == old || owners.contains e.owner))) }

/-- R404 in this package: the reaches that begin at a leaf that is gone begin at what stands in its place, in every buffer in use and in
every quarter's tables. -/
def rewriteFirst (s : State) (tid : Nat) (t : Task) (d : KDesc) (old new : DWord) : Except DWord (Bool × State) := do
  let head ← headVersion s t d
  let r ← (versionsInUse t head).foldlM (fun (r : List Word × State) v => do
    let cs ← cutsOf r.2 t d v
    ((List.range cs.length).filter (fun j => !(cutEntry cs j).empty && (cutEntry cs j).first == old)).foldlM
      (fun (r : List Word × State) j => do
        let a := cutBuffer d v + BitVec.ofNat 64 (16 * j)
        let s ← if new = 0 then tput r.2 t (a + 12) (leBytes 4 1) else tput r.2 t a (leBytes 8 new.toNat)
        return ((cutEntry cs j).owner :: r.1, s)) r) (([] : List Word), s)
  if r.1 = [] then return (false, s)
  else return (true, { r.2 with cuts := mmap (fun _ (x : CutTables) => x.setFirst tid r.1 old new) r.2.cuts })

/-- What a reach of the planned list begins with once its first leaf has become part of a coarser one that begins in an earlier reach: the next
leaf, where that lies before the next reach, else nothing (0: the reach is empty). R404 does not speak of planned reaches (DESIGN CHOICE, log
entry 27). -/
def plannedFirst (cs plan : List Cut) (after : List KEnt) (old : DWord) : DWord :=
  match (match nextLeaf after old.toNat, firstAbove cs old.toNat with
      | some a, some b => some (if a.toNat < b.toNat then a else b)
      | some a, none => some a
      | none, x => x) with
  | none => 0
  | some k => match firstAbove plan old.toNat with
    | some b => if k.toNat < b.toNat then k else 0
    | none => k

/-- R404: the FIRST of a reach whose first leaf a commit of owner `j` has replaced, in every copy of the cut list. -/
def followFirst (s : State) (tid : Nat) (t : Task) (d : KDesc) (cs : List Cut) (j : Nat) (before after : List KEnt) :
    Except DWord State := do
  let plan ← match t.rebal with | some r => if r.snap then cutsOf s t d r.version else .ok [] | none => .ok []
  let gone := (before.filter (fun e => e.leaf && !after.any (fun x => x.key == e.key && x.leaf))).map (fun e =>
    (e.key, match heirOf d after e.key.toNat with | some h => h.key | none => plannedFirst cs plan after e.key))
  gone.foldlM (fun s e => do
    let (hit, s) ← rewriteFirst s tid t d e.1 e.2
    return if hit then tellPackages s (ownerQtr (cutEntry cs j).owner) cs (.first tid e.1 e.2) else s) s

/-! ### Moves that commits meet (R392 step 3) -/

def insertMove (m : Move) : List Move → List Move
  | [] => [m]
  | x :: t => if m.key.toNat < x.key.toNat then m :: x :: t else x :: insertMove m t

def sortMoves (ms : List Move) : List Move := ms.foldl (fun acc m => insertMove m acc) []

/-- The slots of the leaves that owner `j` is to gain and that no entry names yet: in ascending key, each the lowest that is not
taken. -/
def assignSlots (j : Nat) : List Move → List Nat → List Move
  | [], _ => []
  | m :: ms, taken =>
    if m.dst = j ∧ m.stage = 0 then
      let n := lowestSlot taken (taken.length + 1) 0
      { m with slot := n } :: assignSlots j ms (n :: taken)
    else m :: assignSlots j ms taken

/-- R392 step 3: a slot is given that was free when the rebalance started, and that no entry names and no other leaf has. A commit may
have taken one meanwhile (R390). -/
def replan (r : Rebal) (d : KDesc) (j : Nat) (es : List KEnt) : Rebal :=
  let taken := mgetD r.used j [] ++ usedSlots d j es ++ (r.moves.filter (fun m => m.dst == j && m.stage != 0)).map Move.slot
  { r with moves := assignSlots j (sortMoves r.moves) taken }

/-- A leaf that a commit has replaced before its copy began: its children move in its place, or its parent in place of child 0
(DESIGN CHOICE, log entry 27). -/
def inheritMove (d : KDesc) (j : Nat) (after : List KEnt) (m : Move) : List Move :=
  if m.stage ≠ 0 ∨ m.src ≠ j ∨ after.any (fun e => e.key == m.key && e.leaf) then [m]
  else
    let kids := after.filter (fun e => e.leaf && inSubtree m.key.toNat e.key.toNat)
    (if kids = [] then after.filter (fun e => e.above d m.key.toNat) else kids).map (fun e => { m with key := e.key })

/-- The moves between two packages' owners, as a message carries them. -/
def planFor (r : Rebal) (mine : Move → Bool) : List (DWord × Nat × Nat) := (r.moves.filter mine).map (fun m => (m.key, m.src, m.dst))

/-- A rebalance after a commit of owner `j`; the packages to which its leaves go are told. -/
def planAfter (s : State) (tid : Nat) (t : Task) (d : KDesc) (cs : List Cut) (j : Nat) (after : List KEnt) : State :=
  match t.rebal with
  | none => s
  | some r =>
    if !r.snap then s
    else
      let moves := r.moves.flatMap (inheritMove d j after)
      let index := fun (k : Nat) => if k = j then after else match readIndex s t d k with | .ok es => es | .error _ => []
      let r' := (localOwners s cs).foldl (fun r k => replan r d k (index k))
        { r with moves := moves, total := r.total + moves.length - r.moves.length }
      let s := s.setTask tid { t with rebal := some r' }
      if moves.map Move.key = r.moves.map Move.key then s
      else (awayOwners s cs).foldl (fun s c => tellOwner s (ownerQtr (cutEntry cs j).owner) c.owner
        (.plan tid r.version [] (planFor r' (fun m => (cutEntry cs m.src).local s && ownerPkg (cutEntry cs m.dst).owner == ownerPkg c.owner)))) s

/-- R274: the team's staged requests, applied together at its owner. -/
def applyCommit (s : State) (tid : Nat) (t : Task) (core : Nat) (reqs : List (Bool × DWord)) : State :=
  match t.kdesc with
  | none => s
  | some d =>
    let res : Except DWord State := do
      let v ← headVersion s t d
      let cs ← cutsOf s t d v
      match teamOwner s { Group.vacant with kind := .started, core := core } cs with
      | none => return s
      | some j =>
        let es ← readIndex s t d j
        let es' := (sortReqs reqs).foldl (applyReq d j reqs) es
        let s ← writeIndex s t d j es'
        let s ← followFirst s tid t d cs j es es'
        return planAfter s tid t d cs j es'
    endTable s tid t res

/-- R404: a rewrite of FIRST is on its way to another package. -/
def firstsOut (s : State) (tid : Nat) : Bool :=
  s.streams.any (fun e => e.2.kept.any (fun k => match k.1.body with | .first t _ _ => t == tid | _ => false))

/-- The arrival of a group at barrier `n` of its team: its pending BAR or KCOMMIT, and whether it commits. -/
def arrivalAt (n : Nat) (p : Pend) : Option Bool :=
  match p.body with
  | .bar k => if k = n then some false else none
  | .kcommit k => if k = n then some true else none
  | _ => none

/-- The members of a team that have not retired. -/
def teamMembers (s : State) (team : Nat) : List (Nat × Group) :=
  s.groups.filter (fun e => e.2.team == team && e.2.kind == .started)

/-- A member's arrival, its accesses performed (R229). -/
def arrived (s : State) (n : Nat) (g : Group) : Option (Pend × Bool) :=
  g.pends.findSome? (fun p => match arrivalAt n p with
    | some c => if fenceHolds s g p .full .team then some (p, c) else none
    | none => none)

/-- Completes an arrival of a group, with the acquire of the fence it acts as. -/
def completeArrival (s : State) (gid : Nat) (p : Pend) (q : Scope) : State :=
  withGroup s gid (fun s =>
    let s := l1Drop s s.G.core
    s.setG (reportRefused (s.G.complete p []) p q))

/-- A team whose barrier counts have changed: while it is saved, its header holds them (R376). -/
def State.keepHeader (s : State) (team : Nat) (tm : Team) : State :=
  let s := s.setTeam team tm
  if tm.saved then s.putArea tm.area 0 (leBytes 4 tm.bars ++ leBytes 4 tm.staged.length) else s

/-- R228, R274: the team's next barrier, when every member has arrived; none while it cannot complete. A commit that rewrites FIRST
completes once the other packages have done so too (R404). -/
def tryBarrier (s : State) (team : Nat) : Option State :=
  match s.team? team with
  | none => none
  | some tm =>
    let n := tm.bars + 1
    let ms := teamMembers s team
    let as := ms.filterMap (fun e => (arrived s n e.2).map (fun a => (e.1, a)))
    if as.isEmpty || as.length != ms.length then none
    else
      let kcommit := as.any (fun a => a.2.2)
      let commits := kcommit && !tm.staged.isEmpty
      match s.task? tm.task with
      | none => none
      | some t =>
        let waits := match t.kdesc with | some d => commits && commitWaits t d tm.staged | none => false
        if waits || (kcommit && firstsOut s tm.task) then none
        else
          let s := if commits then applyCommit s tm.task t (tm.cores.headD 0) tm.staged else s
          let late := commits && firstsOut s tm.task
          let s := match s.team? team with
            | some tm' => s.keepHeader team { tm' with bars := if late then tm'.bars else n, staged := if commits then [] else tm'.staged }
            | none => s
          some (if late then s else as.foldl (fun s a => completeArrival s a.1 a.2.1 .team) s)

def execTeamBarrierComplete (team : Nat) (s : State) : Host.Outcome State Fault Refusal :=
  .next ((tryBarrier s team).getD s)

/-! ### Rebalancing (R276, R392, R393) -/

/-- R276: KREBAL breaks its handle with REFUSED. -/
def rebalRefused (s : State) (tid : Nat) (t : Task) : Bool :=
  t.rebal.isSome || t.inPhase || s.teams.any (fun e => e.2.task == tid && !e.2.staged.isEmpty)

/-- The quarter of this package's first owner, from which it speaks about the cut list. -/
def ownQuarter (s : State) (cs : List Cut) : Nat :=
  match cs.find? (fun c => c.local s) with | some c => ownerQtr c.owner | none => 0

/-- The package of owner 0 starts a rebalance for a handle, and asks the others whether it may (R276, R392 step 1; log entry 21). -/
def startRebal (s : State) (tid : Nat) (t : Task) (d : KDesc) (h : DWord) : State :=
  let q := match cutsOf s t d (quarterVersion t 0) with | .ok cs => ownerQtr (cutEntry cs 0).owner | .error _ => 0
  if rebalRefused s tid t then tellHandle s q h tid [] (breakWord 3 0) 0 0
  else
    let v := match headVersion s t d with | .ok v => v | .error _ => quarterVersion t q
    let s := s.setTask tid { t with rebal := some ⟨h, v + 1, [], false, 0, [], s.dev.pkg, q, false, [], [], [], [], [], []⟩ }
    match cutsOf s t d v with
    | .ok cs => tellPackages s q cs (.askRebal tid)
    | .error _ => s

def execKrebal (d a : F7) (s : State) :=
  issue (Instr.shape (.krebal d a)) s (fun s =>
    let g := s.G
    if !g.whole then .trap (g.splitTrap 4)
    else withKeyspace s (fun tid t kd =>
      let q := quarterOf g.core
      let tmo := bitsW (g.rdS a.toNat) 20 16
      if 20 < tmo then .trap { Trap.of 28 with lanes := g.active }
      else if 65535 ≤ g.xfer then .stall
      else match issueHandle s q tid tmo none with
        | none => writeUnis s false (pairWrites d.toNat 0)
        | some (h, s1) =>
          match writeUnis s1 false (pairWrites d.toNat h) with
          | .ok s2 =>
            let s2 := s2.setG { s2.G with issued := h :: s2.G.issued }
            let lead := cutsOf s t kd (quarterVersion t q)
            match lead with
            | .ok cs =>
              if (cutEntry cs 0).local s then .ok (startRebal s2 tid t kd h)
              else if rebalRefused s tid t then .ok (tellHandle s2 q h tid [] (breakWord 3 0) 0 0)
              else match sendMsg s2 6 q (ownerPkg (cutEntry cs 0).owner) (ownerQtr (cutEntry cs 0).owner) .accepted 0
                  (.rebalance tid h) (some (s2.cur, 0, 0)) with
                | some s3 => .ok (s3.setG { s3.G with xfer := s3.G.xfer + 1 })
                | none => .ok (tellHandle s2 q h tid [] (breakWord 3 0) 0 0)
            | .error _ => .ok (startRebal s2 tid t kd h)
          | r => r))

/-- Costs read and set to zero (R392 step 1), owner by owner: the leaves with their owners and costs. -/
def snapshotCosts (s : State) (t : Task) (d : KDesc) : List Nat → Except DWord (List (KEnt × Nat) × State)
  | [] => .ok ([], s)
  | j :: js => do
    let es ← readIndex s t d j
    let s ← writeIndex s t d j (es.map (fun e => { e with cost := 0 }))
    let r ← snapshotCosts s t d js
    return (es.map (fun e => (e, j)) ++ r.1, r.2)

/-- A leaf with its owner and its cost. -/
abbrev Costed := DWord × Nat × Word

def costedOf (ls : List (KEnt × Nat)) : List Costed := (ls.filter (fun e => e.1.leaf)).map (fun e => (e.1.key, e.2, e.1.cost))

def insertCost (x : Costed) : List Costed → List Costed
  | [] => [x]
  | y :: t => if x.1.toNat < y.1.toNat then x :: y :: t else y :: insertCost x t

/-- The new owner of each leaf in ascending key (R276): floor(P * n / T), the last owner at most (DESIGN CHOICE, log entry 27). -/
def newOwners (n total : Nat) : List Costed → Nat → List (DWord × Nat × Nat)
  | [], _ => []
  | (k, j, c) :: t, p => (k, j, min (p * n / max 1 total) (n - 1)) :: newOwners n total t (p + c.toNat)

/-- The bytes of a cut-list entry. An empty reach's FIRST is not given; it is free (DESIGN CHOICE, log entry 27). -/
def newCut (owner : Word) (first : Option DWord) (free : Nat) : List Byte :=
  match first with
  | some k => leBytes 8 k.toNat ++ leBytes 4 owner.toNat ++ leBytes 4 0
  | none => leBytes 8 free ++ leBytes 4 owner.toNat ++ leBytes 4 1

def newCuts (s : State) (cs : List Cut) (as : List (DWord × Nat × Nat)) : List Byte × State :=
  (List.range cs.length).foldl (fun r j =>
    let c := cutEntry cs j
    match as.find? (fun e => e.2.2 == j) with
    | some e => (r.1 ++ newCut c.owner (some e.1) 0, r.2)
    | none => let (n, s) := r.2.draw; (r.1 ++ newCut c.owner none n, s)) ([], s)

/-- The moves of some leaves, with the slots that this package's owners give (R392 step 3). -/
def planMoves (s : State) (d : KDesc) (cs : List Cut) (index : Nat → List KEnt) (r : Rebal) (ms : List (DWord × Nat × Nat)) :
    Rebal :=
  let r := { r with moves := ms.map (fun e => ⟨e.1, e.2.1, e.2.2, 0, 0, 0⟩),
                    used := (localOwners s cs).map (fun j => (j, usedSlots d j (index j))) }
  (localOwners s cs).foldl (fun r j => replan r d j (index j)) r

/-- Once every leaf that this package has a part in is copied, it says so to the leader; the leader writes VERSION when all have, and
tells them (R392 step 4). -/
def advance (s : State) (tid : Nat) (t : Task) (d : KDesc) (r : Rebal) : Except DWord State := do
  if !r.snap || r.header || r.moves.any (fun m => decide (m.stage < 2)) then return s
  else
    let cs ← cutsOf s t d r.version
    if r.leadPkg = s.dev.pkg then
      if (awayOwners s cs).any (fun c => !r.copied.contains (ownerPkg c.owner)) then return s
      else
        let s ← tput s t d.cuts (leBytes 8 r.version.toNat)
        let s := s.setTask tid { t with rebal := some { r with header := true } }
        return tellPackages s r.leadQtr cs (.switchTo tid r.version)
    else if r.copied.contains s.dev.pkg then return s
    else
      let s := s.setTask tid { t with rebal := some { r with copied := s.dev.pkg :: r.copied } }
      return (sendMsg s 6 (ownQuarter s cs) r.leadPkg r.leadQtr .accepted 0 (.copied tid s.dev.pkg) none).getD s

/-- A rebalance that has changed goes on. -/
def keepRebal (s : State) (tid : Nat) (t : Task) (d : KDesc) (r : Rebal) : Except DWord State :=
  advance (s.setTask tid { t with rebal := some r }) tid { t with rebal := some r } d r

/-- REBALANCE_SNAPSHOT_COMPLETE: steps 1 and 2 of R392, at the leader, once the other packages have brought their costs. -/
def trySnapshot (s : State) (tid : Nat) : Option State :=
  match s.task? tid with
  | none => none
  | some t => match t.kdesc, t.rebal with
    | some d, some r =>
      if r.snap then none
      else
        let res : Except DWord (Option State) := do
          let cs ← cutsOf s t d (r.version - 1)
          if (awayOwners s cs).any (fun c => !r.counted.contains (ownerPkg c.owner)) then return none
          else
            let (ls, s1) ← snapshotCosts s t d (localOwners s cs)
            let ls' := (costedOf ls ++ r.leaves).foldl (fun acc x => insertCost x acc) []
            let total := ls'.foldl (fun n e => n + e.2.2.toNat) 0
            if total = 0 then
              let v := r.version - 1
              return some (tellHandle (s1.setTask tid { t with rebal := none }) r.leadQtr r.handle tid
                [loWord v, hiWord v, 0, 0, 0, 0, 0, 0] 0 0 0)
            else
              let as := newOwners cs.length total ls' 0
              let moving := as.filter (fun e => e.2.1 != e.2.2)
              let part := fun (p : Nat) => moving.filter (fun e =>
                ownerPkg (cutEntry cs e.2.1).owner == p || ownerPkg (cutEntry cs e.2.2).owner == p)
              let index := fun (o : Nat) => (ls.filter (fun e => e.2 == o)).map Prod.fst
              let (bytes, s2) := newCuts s1 cs as
              let s3 ← tput s2 t (cutBuffer d r.version) bytes
              let r' := planMoves s3 d cs index { r with snap := true, total := moving.length } (part s.dev.pkg)
              let s4 := (awayOwners s cs).foldl (fun s c =>
                tellOwner s r.leadQtr c.owner (.plan tid r.version bytes (part (ownerPkg c.owner)))) s3
              let s5 ← keepRebal s4 tid t d r'
              return some s5
        match res with
        | .ok x => x
        | .error va => some (tableFail s tid t va)
    | _, _ => none

def execRebalanceSnapshotComplete (task : Nat) (s : State) : Host.Outcome State Fault Refusal :=
  .next ((trySnapshot s task).getD s)

def setMove (r : Rebal) (m : Move) : Rebal := { r with moves := r.moves.map (fun x => if x.key = m.key then m else x) }

/-- A service group runs on a leaf of the task (R392 step 3). -/
def serviceOn (s : State) (tid : Nat) (k : DWord) : Bool :=
  s.invs.any (fun r => r.inv.task == tid && r.inv.key == k && match r.inv.target, r.place with
    | .key _, .running _ => true
    | _, _ => false)

/-- Changes the entry of a key. -/
def updateEnt (k : DWord) (f : KEnt → KEnt) (es : List KEnt) : List KEnt := es.map (fun e => if e.key = k then f e else e)

/-- The new owner's entry as a copy begins (R393). -/
def arriveEnt (s : State) (t : Task) (d : KDesc) (m : Move) : Except DWord State := do
  let fs ← readIndex s t d m.dst
  writeIndex s t d m.dst (insertEnt ⟨m.key, slotAddr d m.dst m.slot, 0, 3, 0⟩ fs)

/-- MIGRATION_COPY_START (R392 step 3, R393), in the old owner's package. A leaf that is none any more does not move. -/
def tryCopyStart (s : State) (tid : Nat) (key : DWord) : Option State :=
  match s.task? tid with
  | none => none
  | some t => match t.kdesc, t.rebal with
    | some d, some r => match r.moves.find? (fun m => m.key == key && m.stage == 0) with
      | none => none
      | some m =>
        let res : Except DWord (Option State) := do
          let cs ← cutsOf s t d r.version
          if !(cutEntry cs m.src).local s || serviceOn s tid key then return none
          else
            let es ← readIndex s t d m.src
            if !liveAt es key.toNat then
              let s ← keepRebal s tid t d { r with moves := r.moves.filter (fun x => x.key != key), total := r.total - 1 }
              return some s
            else
              let s ← writeIndex s t d m.src (updateEnt key (fun e => { e with state := 1 }) es)
              let c := cutEntry cs m.dst
              let s ← if c.local s then arriveEnt s t d m
                else .ok (tellOwner s (ownerQtr (cutEntry cs m.src).owner) c.owner (.gain tid key))
              return some (s.setTask tid { t with rebal := some (setMove r { m with stage := 1 }) })
        match res with
        | .ok x => x
        | .error va => some (tableFail s tid t va)
    | _, _ => none

def execMigrationCopyStart (task : Nat) (key : DWord) (s : State) : Host.Outcome State Fault Refusal :=
  .next ((tryCopyStart s task key).getD s)

/-- MIGRATION_COPY_COMPLETE: the payload stands in the new slot, or is on its way to another package's (R392, R405). -/
def tryCopyEnd (s : State) (tid : Nat) (key : DWord) : Option State :=
  match s.task? tid with
  | none => none
  | some t => match t.kdesc, t.rebal with
    | some d, some r => match r.moves.find? (fun m => m.key == key && m.stage == 1) with
      | none => none
      | some m =>
        let res : Except DWord (Option State) := do
          let cs ← cutsOf s t d r.version
          if !(cutEntry cs m.src).local s then return none
          else
            let es ← readIndex s t d m.src
            let old := match es.find? (fun e => e.key == key) with | some e => e.payload | none => 0
            let bs ← tget s t old d.psize
            let c := cutEntry cs m.dst
            let s ← if c.local s then tput s t (slotAddr d m.dst m.slot) bs
              else .ok (tellOwner s (ownerQtr (cutEntry cs m.src).owner) c.owner (.payload tid key bs))
            let s ← keepRebal s tid t d (setMove r { m with stage := 2 })
            return some s
        match res with
        | .ok x => x
        | .error va => some (tableFail s tid t va)
    | _, _ => none

def execMigrationCopyComplete (task : Nat) (key : DWord) (s : State) : Host.Outcome State Fault Refusal :=
  .next ((tryCopyEnd s task key).getD s)

/-- The entries of one move at the switch (R393): FORWARDED at the old owner, LIVE with the held costs at the new one. An old owner in another
package is told; costs held there for the leaf then follow it (R394). -/
def switchMove (s : State) (tid : Nat) (t : Task) (d : KDesc) (cs : List Cut) (m : Move) : Except DWord State := do
  let a := cutEntry cs m.src
  let c := cutEntry cs m.dst
  let s ← if a.local s then do
      let es ← readIndex s t d m.src
      writeIndex s t d m.src (updateEnt m.key (fun e => { e with state := 2, fwd := c.owner }) es)
    else .ok s
  if c.local s then
    let fs ← readIndex s t d m.dst
    let s ← writeIndex s t d m.dst (updateEnt m.key (fun e => { e with state := 0, cost := satCost e.cost m.held.toNat }) fs)
    return if a.local s then s else tellOwner s (ownerQtr c.owner) a.owner (.moved tid m.key)
  else return if m.held = 0 then s else tellOwner s (ownerQtr a.owner) c.owner (.cost tid m.key m.held)

/-- R392 step 5: the forwarding records of the moves go. -/
def dropForwarded (s : State) (t : Task) (d : KDesc) (cs : List Cut) : List Move → Except DWord State
  | [] => .ok s
  | m :: ms => do
    if !(cutEntry cs m.src).local s then dropForwarded s t d cs ms
    else
      let es ← readIndex s t d m.src
      let s ← writeIndex s t d m.src (es.filter (fun e => !(e.key == m.key && e.state == 2)))
      dropForwarded s t d cs ms

/-- A lookup's handle becomes READY in its quarter (R272). -/
def answerLookups (s : State) (tid q : Nat) : State :=
  s.handles.foldl (fun s e =>
    match e.2.lookup with
    | some (k, q') =>
      if e.2.task = tid ∧ q' = q ∧ e.2.state = .pending then
        match kRun s ((s.task? tid).bind (fun t => kview s t q)) k.toNat with
        | some (ws, s) => settle s e.1 { e.2 with state := .ready, result := ws ++ [0, 0, 0, 0] }
        | none => s
      else s
    | none => s) s

/-- A move switches here with a quarter: that of its new owner (R393). -/
def Move.switches (m : Move) (s : State) (cs : List Cut) (q : Nat) : Bool :=
  m.stage == 2 && (cutEntry cs m.dst).local s && ownerQtr (cutEntry cs m.dst).owner == q

/-- Invocations at the old owner of a leaf that has moved go to its new owner, in another package over the fabric (R394). -/
def sendOn (s : State) (cs : List Cut) (tid : Nat) (m : Move) : State :=
  let mine := fun (r : InvRec) => r.inv.task == tid && r.place == .atLeaf m.src &&
    (match r.inv.target with | .key k => inSubtree m.key.toNat k.toNat | _ => false)
  let c := cutEntry cs m.dst
  if c.local s then
    { s with invs := s.invs.map (fun r => if mine r then { r with place := .atLeaf m.dst } else r) }
  else
    let gone := s.invs.filter mine
    let s := { s with invs := s.invs.filter (fun r => !mine r) }
    gone.foldl (fun s r => sendInvAway s (ownerQtr (cutEntry cs m.src).owner) r.inv (ownerPkg c.owner) (ownerQtr c.owner)) s

/-- R392 step 5 at the leader, once every die of every package has switched: the records go, and the handle is READY. -/
def finishRebal (s : State) (tid : Nat) (t : Task) (d : KDesc) (r : Rebal) : Except DWord State := do
  let cs ← cutsOf s t d r.version
  if r.switched.length < 4 || r.moves.any (fun m => decide (m.stage < 3)) then return s
  else if r.leadPkg ≠ s.dev.pkg then
    return (sendMsg s 6 (ownQuarter s cs) r.leadPkg r.leadQtr .accepted 0 (.switched tid s.dev.pkg) none).getD s
  else if (awayOwners s cs).any (fun c => !r.switchedAt.contains (ownerPkg c.owner)) then return s
  else
    let s ← dropForwarded s t d cs r.moves
    let s := tellPackages (s.setTask tid { t with rebal := none }) r.leadQtr cs (.finish tid)
    let v := r.version
    return tellHandle s r.leadQtr r.handle tid [loWord v, hiWord v, BitVec.ofNat 32 r.total, 0, 0, 0, 0, 0] 0 0 0

/-- QUARTER_SWITCH (R388, R392 steps 4 and 5, R393, R394). -/
def trySwitch (s : State) (tid q : Nat) : Option State :=
  match s.task? tid with
  | none => none
  | some t => match t.kdesc, t.rebal with
    | some d, some r =>
      if !r.header || decide (4 ≤ q) || r.switched.contains q then none
      else
        let res : Except DWord State := do
          let cs ← cutsOf s t d r.version
          let here := r.moves.filter (fun m => m.switches s cs q)
          let s ← here.foldlM (fun s m => switchMove s tid t d cs m) s
          let r' := here.foldl (fun r m => setMove r { m with stage := 3 }) { r with switched := q :: r.switched }
          let t' := { t with rebal := some r', versions := mput t.versions q r.version }
          let s := here.foldl (fun s m => sendOn s cs tid m) (loadCuts (s.setTask tid t') tid q cs)
          finishRebal (answerLookups s tid q) tid t' d r'
        some (endTable s tid t res)
    | _, _ => none

def execQuarterSwitch (task quarter : Nat) (s : State) : Host.Outcome State Fault Refusal :=
  .next ((trySwitch s task quarter).getD s)

/-! ### Keyspace messages from other packages (class 6 of R410; R392, R404; log entry 21) -/

/-- A plan from another package: the new cut list, and the moves of that package's leaves in place of those it told of before. -/
def takePlan (s : State) (m : Message) (tid : Nat) (t : Task) (d : KDesc) (version : DWord) (cuts : List Byte)
    (moves : List (DWord × Nat × Nat)) : Except DWord State := do
  let s ← if cuts = [] then .ok s else tput s t (cutBuffer d version) cuts
  let cs ← cutsOf s t d version
  let all ← localIndices s t d cs
  let index := fun (j : Nat) => (all.of j).getD []
  match t.rebal with
  | some r =>
    let stay := r.moves.filter (fun x => x.stage != 0 || ownerPkg (cutEntry cs x.src).owner != m.srcPkg)
    let r := { r with moves := stay ++ moves.map (fun e => ⟨e.1, e.2.1, e.2.2, 0, 0, 0⟩) }
    keepRebal s tid t d ((localOwners s cs).foldl (fun r j => replan r d j (index j)) r)
  | none =>
    keepRebal s tid t d (planMoves s d cs index ⟨0, version, [], true, moves.length, [], m.srcPkg, m.srcQtr, false, [], [], [], [], [], []⟩ moves)

/-- A step of a leaf's move that comes before the plan it belongs to waits for that. -/
def keepEarly (s : State) (tid : Nat) (t : Task) (m : Message) : State := s.setTask tid { t with early := t.early ++ [m] }

/-- What a keyspace message does. -/
def takeKeyspace (s : State) (m : Message) (tid : Nat) (t : Task) (d : KDesc) : Except DWord State :=
  match m.body, t.rebal with
  | .cost _ key amount, _ => .ok (addCost s m.dstQtr tid key amount none).2
  | .first _ old new, _ => do
    let r ← rewriteFirst s tid t d old new
    return r.2
  | .rebalance _ h, _ => .ok (startRebal s tid t d h)
  | .askRebal _, _ =>
    .ok ((sendMsg s 6 m.dstQtr m.srcPkg m.srcQtr .accepted 0 (.rebalOk tid s.dev.pkg (!rebalRefused s tid t)) none).getD s)
  | .rebalOk _ pkg ok, some r =>
    if !ok then .ok (tellHandle (s.setTask tid { t with rebal := none }) r.leadQtr r.handle tid [] (breakWord 3 0) 0 0)
    else do
      let cs ← cutsOf s t d (r.version - 1)
      let r' := { r with agreed := pkg :: r.agreed }
      let s := s.setTask tid { t with rebal := some r' }
      return if (awayOwners s cs).all (fun c => r'.agreed.contains (ownerPkg c.owner)) then tellPackages s r.leadQtr cs (.askCosts tid) else s
  | .askCosts _, _ => do
    let v ← headVersion s t d
    let cs ← cutsOf s t d v
    let (ls, s) ← snapshotCosts s t d (localOwners s cs)
    return (sendMsg s 6 m.dstQtr m.srcPkg m.srcQtr .accepted 0 (.costs tid s.dev.pkg (costedOf ls)) none).getD s
  | .costs _ pkg ls, some r =>
    .ok (s.setTask tid { t with rebal := some { r with counted := pkg :: r.counted, leaves := r.leaves ++ ls } })
  | .plan _ version cuts moves, _ => takePlan s m tid t d version cuts moves
  | .gain _ key, some r => match r.moves.find? (fun x => x.key == key && x.stage == 0) with
    | some x => do
      let s ← arriveEnt s t d x
      return s.setTask tid { t with rebal := some (setMove r { x with stage := 1 }) }
    | none => .ok (keepEarly s tid t m)
  | .payload _ key data, some r => match r.moves.find? (fun x => x.key == key && x.stage == 1) with
    | some x => do
      let s ← tput s t (slotAddr d x.dst x.slot) data
      keepRebal s tid t d (setMove r { x with stage := 2 })
    | none => .ok (keepEarly s tid t m)
  | .gain _ _, none | .payload _ _ _, none => .ok (keepEarly s tid t m)
  | .moved _ key, some r => match r.moves.find? (fun x => x.key == key && x.stage == 2) with
    | some x => do
      let cs ← cutsOf s t d r.version
      let s ← switchMove s tid t d cs x
      let r' := setMove r { x with stage := 3 }
      let s := sendOn (s.setTask tid { t with rebal := some r' }) cs tid x
      finishRebal s tid { t with rebal := some r' } d r'
    | none => .ok s
  | .copied _ pkg, some r => keepRebal s tid t d { r with copied := pkg :: r.copied }
  | .switchTo _ version, r => do
    let s ← tput s t d.cuts (leBytes 8 version.toNat)
    return match r with
      | some r => s.setTask tid { t with rebal := some { r with header := true } }
      | none => s
  | .switched _ pkg, some r =>
    let r' := { r with switchedAt := pkg :: r.switchedAt }
    finishRebal (s.setTask tid { t with rebal := some r' }) tid { t with rebal := some r' } d r'
  | .finish _, some r => do
    let cs ← cutsOf s t d r.version
    let s ← dropForwarded s t d cs r.moves
    return s.setTask tid { t with rebal := none }
  | _, _ => .ok s

/-- The task that a keyspace message concerns. -/
def msgTask : MsgBody → Option Nat
  | .cost t _ _ | .first t _ _ | .rebalance t _ | .askCosts t | .costs t _ _ | .plan t _ _ _ | .gain t _ | .payload t _ _
  | .askRebal t | .rebalOk t _ _ | .moved t _ | .copied t _ | .switchTo t _ | .switched t _ | .finish t => some t
  | _ => none

/-- One message about a task's tables. -/
def tableMsg (s : State) (m : Message) : State :=
  match msgTask m.body with
  | none => s
  | some tid => match s.task? tid with
    | some t => match t.kdesc with
      | some d => endTable s tid t (takeKeyspace s m tid t d)
      | none => s
    | none => s

/-- After a plan, the steps that came before it. -/
def takeEarly (s : State) (m : Message) : State :=
  match m.body with
  | .plan tid _ _ _ => match s.task? tid with
    | some t => t.early.foldl tableMsg (s.setTask tid { t with early := [] })
    | none => s
  | _ => s

/-! ### Ordered phases (R277 to R279, R399) -/

/-- ORDB and ORDE at their issue: under the whole mask, not in a service group, outside and inside a phase (DEDUCED, log entry 41). -/
def ordArrive (s : State) (sh : Shape) (opens : Bool) : Res :=
  let g := s.G
  let t29 : Res := .trap { Trap.of 29 with lanes := g.active }
  if !g.whole then .trap (g.splitTrap 21)
  else match s.task? g.task with
    | none => t29
    | some t =>
      if g.kind = .service ∨ t.inPhase = opens then t29
      else
        let n := if opens then (if g.kind = .started then g.ords + 1 else t.phaseNo + 1)
          else (if g.kind = .started then g.ordes + 1 else t.endNo + 1)
        let g := if g.kind = .started then
            (if opens then { g with ords := g.ords + 1 } else { g with ordes := g.ordes + 1 }) else g
        waitPend (s.setG g) sh (if opens then .ordb n else .orde n)

def execOrdb (s : State) := issueWith (Instr.shape .ordb) s (fun sh s => ordArrive s sh true)
def execOrde (s : State) := issueWith (Instr.shape .orde) s (fun sh s => ordArrive s sh false)

/-- ORDSTAT (R279). -/
def ordWord (t : Task) : Word :=
  BitVec.ofNat 32 (t.conflicts % 2 ^ 30 + (if t.spill then 2 ^ 30 else 0) + (if t.inPhase then 2 ^ 31 else 0))

def execOrdstat (d : F7) (s : State) :=
  issue (Instr.shape (.ordstat d)) s (fun s =>
    writeUnis s false [(d.toNat, match s.task? s.G.task with | some t => ordWord t | none => 0)])

/-- The pending arrival of a group at the task's next barrier. -/
def ordPend (opens : Bool) (n : Nat) (g : Group) : Option Pend :=
  g.pends.find? (fun p => match p.body with
    | .ordb k => opens && k == n
    | .orde k => !opens && k == n
    | _ => false)

/-- The scope that an arrival's fence has (R277). -/
def ordScope (s : State) (t : Task) : Scope := if spansPackages s t then .fabric else .package

/-- The arrivals at the task's next ORDB or ORDE in this package, when every started group of every team has made it, its fence's accesses
performed. -/
def ordArrivals (s : State) (tid : Nat) (t : Task) : Option (List (Nat × Pend)) :=
  let opens := !t.inPhase
  let n := if opens then t.phaseNo + 1 else t.endNo + 1
  let q := ordScope s t
  let mine := s.groups.filter (fun e => e.2.task == tid && (e.2.kind == .started || e.2.kind == .spawned))
  let as := mine.filterMap (fun e => (ordPend opens n e.2).map (fun p => (e.1, p)))
  let started := mine.filter (fun e => e.2.kind == .started)
  if t.plan = [] ∧ started.any (fun e => (ordPend opens n e.2).isSome) ∧
     started.all (fun e => (ordPend opens n e.2).isSome) ∧
     as.all (fun a => fenceHolds s (s.group a.1) a.2 .full q)
  then some as else none

/-- The number of the task's next barrier of its phases: ORDB and ORDE by turns. -/
def ordNth (t : Task) : Nat := t.phaseNo + t.endNo + 1

/-- One owner of each other package that the task spans: the groups that its record there starts are the task's too, and the barrier is of the
whole task (R277, R401; DEDUCED, log entry 50). -/
def ordMembers (s : State) (t : Task) : List Cut :=
  match t.kdesc with
  | none => []
  | some d => match (do let v ← headVersion s t d; cutsOf s t d v : Except DWord (List Cut)) with
    | .ok cs => awayOwners s cs
    | .error _ => []

/-- A package has said that it has arrived at the next barrier, or that its slices have rebuilt their lines. -/
def Task.said (t : Task) (pkg : Nat) (ready : Bool) : Bool :=
  t.notes.any (fun n => n.pkg == pkg && n.nth == ordNth t && n.ready == ready)

/-- Every other package of the task has said so. -/
def ordAll (s : State) (t : Task) (ready : Bool) : Bool := (ordMembers s t).all (fun c => t.said (ownerPkg c.owner) ready)

/-- This package tells the task's others. -/
def sayOrd (s : State) (tid : Nat) (t : Task) (ready : Bool) : State :=
  let n : OrdNote := ⟨s.dev.pkg, ordNth t, ready, t.wrote, t.conflicts, t.spill⟩
  (ordMembers s t).foldl (fun s c => tellOwner s t.dealer c.owner (.ordNote tid n)) (s.setTask tid { t with notes := t.notes ++ [n] })

/-- Packages without an owner of the task that its groups have written in the phase: the task's lowest package has them rebuild. -/
def ordGuests (s : State) (t : Task) : List Nat :=
  let ms := (ordMembers s t).map (fun c => ownerPkg c.owner)
  if ms.any (fun p => decide (p < s.dev.pkg)) then []
  else ((t.wrote ++ (t.notes.filter (fun n => n.nth == ordNth t)).flatMap OrdNote.guests).eraseDups).filter (fun p =>
    !ms.contains p && p != s.dev.pkg)

/-- Asks a package to rebuild the lines of a task of others; one that no route reaches any more is left out. -/
def askGuest (tid : Nat) (s : State) (p : Nat) : State :=
  match s.task? tid with
  | none => s
  | some t =>
    let note := fun (ready : Bool) => { t with notes := t.notes ++ [(⟨p, ordNth t, ready, [], 0, false⟩ : OrdNote)] }
    match sendMsg s 6 t.dealer p 0 .accepted 0 (.ordRebuild tid (ordNth t)) none with
    | some s => s.setTask tid (note false)
    | none => s.setTask tid (note true)

/-- WEIR_REBUILD_COMPLETE (R399): when every group has arrived at ORDE, the shared lines are rebuilt. -/
def tryRebuild (s : State) (tid : Nat) : Option State :=
  match s.task? tid with
  | none => none
  | some t =>
    if !t.inPhase || !t.lines.any (fun e => e.2.shared) || (ordArrivals s tid t).isNone || !ordAll s t false then none
    else
      let s := s.setTask tid { t with lines := t.lines.filter (fun e => !e.2.shared), spilled := 0 }
      some ((t.lines.filter (fun e => e.2.shared)).foldl (fun s e => rebuildAt s e.1 e.2) s)

def execWeirRebuildComplete (task : Nat) (s : State) : Host.Outcome State Fault Refusal :=
  .next ((tryRebuild s task).getD s)

/-- The barrier is complete: the phase begins, or it ends with the conflicts and the spill of every package (R279); the arrivals
complete. -/
def endOrd (s : State) (tid : Nat) (t : Task) (as : List (Nat × Pend)) : State :=
  let q := ordScope s t
  let others := t.notes.filter (fun n => n.nth == ordNth t && n.ready && n.pkg != s.dev.pkg)
  let rest := t.notes.filter (fun n => n.nth != ordNth t)
  let t' :=
    if t.inPhase then
      { t with inPhase := false, begun := false, endNo := t.endNo + 1, lines := [], spilled := 0, wrote := [], notes := rest,
               conflicts := min (2 ^ 30 - 1) (others.foldl (fun n x => n + x.conf) t.conflicts),
               spill := t.spill || others.any OrdNote.spill }
    else if t.begun then { t with inPhase := true, begun := false, phaseNo := t.phaseNo + 1, notes := rest }
    else { t with inPhase := true, phaseNo := t.phaseNo + 1, spill := false, conflicts := 0, lines := [], notes := rest }
  as.foldl (fun s a => completeArrival s a.1 a.2 q) (s.setTask tid t')

/-- ORD_BARRIER_COMPLETE (R277, R279, R399): over every package of the task, the phase begins once all have arrived; it ends once, after
that, all have rebuilt their shared lines. -/
def tryOrdBarrier (s : State) (tid : Nat) : Option State :=
  match s.task? tid with
  | none => none
  | some t => match ordArrivals s tid t with
    | none => none
    | some as =>
      let alone := (ordMembers s t).isEmpty
      if !alone && !t.said s.dev.pkg false then some (sayOrd s tid t false)
      else if !ordAll s t false then none
      else if !t.inPhase then some (endOrd s tid t as)
      else if t.lines.any (fun e => e.2.shared) then none
      else
        let gs := ordGuests s t
        if gs.any (fun p => !t.said p false && !t.said p true) then
          some ((gs.filter (fun p => !t.said p false && !t.said p true)).foldl (askGuest tid) s)
        else if gs.any (fun p => !t.said p true) then none
        else if !alone && !t.said s.dev.pkg true then some (sayOrd s tid t true)
        else if !ordAll s t true then none
        else some (endOrd s tid t as)

def execOrdBarrierComplete (task : Nat) (s : State) : Host.Outcome State Fault Refusal :=
  .next ((tryOrdBarrier s task).getD s)

/-- Keyspace messages of ordered phases. -/
def ordMsg (s : State) (m : Message) : State :=
  match m.body with
  | .ordNote tid n => match s.task? tid with
    | some t => s.setTask tid { t with notes := t.notes ++ [n] }
    | none => s
  | .ordRebuild tid nth =>
    let ls := match s.task? tid with | some t => t.lines | none => mgetD s.guests tid []
    let s := match s.task? tid with
      | some t => s.setTask tid { t with lines := [], spilled := 0, begun := false }
      | none => { s with guests := mdel s.guests tid }
    let s := (ls.filter (fun e => e.2.shared)).foldl (fun s e => rebuildAt s e.1 e.2) s
    (sendMsg s 6 m.dstQtr m.srcPkg m.srcQtr .accepted 0 (.ordNote tid ⟨s.dev.pkg, nth, true, [], 0, false⟩) none).getD s
  | _ => s

/-- A keyspace message is performed. -/
def keyspaceMsg (s : State) (m : Message) : State :=
  match m.body with
  | .ordNote _ _ | .ordRebuild _ _ => ordMsg s m
  | _ => takeEarly (tableMsg s m) m

end Sys2Proof.Machine
end

