-- ==== Sys2Proof/Machine/Remote.lean ====
section
/-! DEFINITION. Remote invocation and handles (11, R282 to R289; 22, R420 to R422): class 110 FN 011, SERVICE_START,
HANDLE_RESULT_ARRIVE, HANDLE_TIMEOUT. -/

namespace Sys2Proof.Machine

/-! ### RINV (R282, R283) -/

/-- The eight words and the target block of an RINV. -/
def rinvWords (g : Group) (a b : F7) : List Word × List Word :=
  ((List.range 8).map (fun k => g.rdS (a.toNat + k)), (List.range 3).map (fun k => g.rdS (b.toNat + k)))

/-- Issues an invocation: the handle is written at once, the sending waits for the release (R283). `tgt` gives the
target from the block. -/
def issueRinv (s : State) (sh : Shape) (d a b : F7) (keyed : Bool) (reserved : List Word → Bool)
    (tgt : List Word → InvTarget) : Res :=
  let g := s.G
  let (args, blk) := rinvWords g a b
  let w2 := blk.getD 2 0
  let task := s.task? g.task
  if !g.whole then .trap (g.splitTrap 4)
  else if keyed && (task.bind Task.kdesc).isNone then .trap { Trap.of 27 with lanes := g.active }
  else if 20 < bitsW w2 20 16 || reserved blk then .trap { Trap.of 28 with lanes := g.active }
  else if 65535 ≤ g.xfer then .stall
  else match issueHandle s (quarterOf g.core) g.task (bitsW w2 20 16) none with
    | none => writeUnis s false (pairWrites d.toNat 0)
    | some (h, s1) =>
      match writeUnis s1 false (pairWrites d.toNat h) with
      | .ok s2 =>
        let s2 := s2.setG { s2.G with issued := h :: s2.G.issued }
        let i : Invocation :=
          { id := s.seq, target := tgt blk, service := bitsW w2 7 0, args := args, handle := h, task := g.task,
            sender := s.cur, level := (match task with | some t => t.record.level | none => 0),
            prio := g.prio, input := [], key := 0, payload := 0, via := [] }
        match i.target with
        | .hdl x =>
          match findHandle s x g.task false with
          | .broken c => .ok (tellHandle s2 (quarterOf g.core) h g.task [] (hopOn c) 0 0)
          | _ => .ok ((s2.addPend { g.mkPend sh g.fa (.rinv i) with dst := [], mark := s.seq }).tick1)
        | _ => .ok ((s2.addPend { g.mkPend sh g.fa (.rinv i) with dst := [], mark := s.seq }).tick1)
      | r => r

def execRinvKey (d a b : F7) (s : State) :=
  issueWith (Instr.shape (.rinvKey d a b)) s (fun sh s =>
    issueRinv s sh d a b true (fun _ => false) (fun w => .key (pair (w.getD 0 0) (w.getD 1 0))))

def execRinvPkg (d a b : F7) (s : State) :=
  issueWith (Instr.shape (.rinvPkg d a b)) s (fun sh s =>
    issueRinv s sh d a b false (fun w => bitsW (w.getD 0 0) 31 22 != 0 || w.getD 1 0 != 0)
      (fun w => .pkg (bitsW (w.getD 0 0) 19 0) (bitsW (w.getD 0 0) 21 20)))

def execRinvHdl (d a b : F7) (s : State) :=
  issueWith (Instr.shape (.rinvHdl d a b)) s (fun sh s =>
    issueRinv s sh d a b false (fun _ => false) (fun w => .hdl (pair (w.getD 0 0) (w.getD 1 0))))

/-! ### Delivery (R283, R394, R422) -/

/-- The entry of a leaf or of a record of its move that covers a key at an owner. -/
def entryFor (es : List KEnt) (k : Nat) : Option KEnt := es.find? (fun e => inSubtree e.key.toNat k)

/-- What this package's owners know of the leaf that covers a key (R393, R394): the owner where it stands or is on its way to, or the owner
that has it now. -/
def leafAt (all : List (Nat × List KEnt)) (k : Nat) : Option (Nat ⊕ Word) :=
  let found := all.filterMap (fun e => (entryFor e.2 k).map (fun x => (e.1, x)))
  match found.find? (fun e => e.2.state != 2) with
  | some e => some (.inl e.1)
  | none => (found.head?).map (fun e => .inr e.2.fwd)

/-- An invocation sent from a quarter reaches the owner of a key: it waits there, goes where the leaf has gone, or finds no leaf
(NO_CELL). -/
def reachLeaf (s : State) (q : Nat) (r : InvRec) (k : DWord) : State :=
  let none_ := fun (s : State) (q : Nat) => breakInv s q r.inv (breakWord 8 0)
  match s.task? r.inv.task with
  | none => none_ s q
  | some t => match t.kdesc with
    | none => none_ s q
    | some d =>
      if !goodKey d k.toNat then none_ s q
      else
        let res : Except DWord State := do
          let v ← headVersion s t d
          let cs ← cutsOf s t d v
          let all ← localIndices s t d cs
          match leafAt all k.toNat with
          | some (.inl j) => return { s with invs := s.invs ++ [{ r with place := .atLeaf j }] }
          | some (.inr o) =>
            return if ownerPkg o = s.dev.pkg then none_ s (ownerQtr o) else sendInvAway s q r.inv (ownerPkg o) (ownerQtr o)
          | none => match reachOf cs k.toNat with
            | none => return none_ s q
            | some j =>
              let o := (cutEntry cs j).owner
              return if (cutEntry cs j).local s then none_ s (ownerQtr o) else sendInvAway s q r.inv (ownerPkg o) (ownerQtr o)
        endTable s r.inv.task t res

/-- An invocation from a quarter reaches its target in this package, or is sent to another. -/
def deliverInv (s : State) (q : Nat) (i : Invocation) : State :=
  let r : InvRec := ⟨i, .ready 0, s.seq⟩
  let s := s.tick1
  match i.target with
  | .key k => reachLeaf s q r k
  | .pkg p x => if p = s.dev.pkg then { s with invs := s.invs ++ [{ r with place := .ready x }] } else sendInvAway s q i p x
  | .hdl h => reachHandle 66 s q r h

/-- An invocation that has left for another package counts in its sender's transfers until it is accepted (R37). -/
def countInv (s : State) (h : DWord) : State :=
  let mine := fun (m : Message) => match m.body with | .invoke i => i.handle == h | _ => false
  if s.streams.any (fun e => e.2.kept.any (fun k => mine k.1)) then
    let link := fun (_ : Nat) (st : Stream) =>
      { st with kept := st.kept.map (fun k => if mine k.1 then (k.1, some (s.cur, 0, 0), k.2.2) else k) }
    let s := { s with streams := mmap link s.streams }
    s.setG { s.G with xfer := s.G.xfer + 1 }
  else s

/-- An RINV is sent once its release holds, after the earlier ones of its group to the same handle (R283, R286); those to keys have no
order (R396). -/
def tryRinv (s : State) (p : Pend) (i : Invocation) : Option State :=
  let earlier := s.G.pends.any (fun q => decide (q.id < p.id) && match q.body, i.target with
    | .rinv x, .hdl h => x.target == .hdl h
    | _, _ => false)
  if !mayPerform s s.G p || earlier || decide (65535 ≤ s.G.xfer) then tryPush s p
  else some (countInv (deliverInv (s.setG (s.G.complete p [])) (quarterOf s.G.core) i) i.handle)

/-! ### RAWAIT, RPOLL, RDROP (R288, R289) -/

/-- The register writes of a resolved RAWAIT. -/
def awaitWrites (p : Pend) (words : List Word) (ok : Bool) : List RegWrite :=
  let ss := p.dst.filter (fun r => !isPredReg r)
  (List.range ss.length).filterMap (fun k => (ss[k]?).map (fun r => ⟨r, [words.getD k 0], 1⟩)) ++
  (p.dst.filter isPredReg).map (fun r => ⟨r, mkRow (fun _ => if ok then 1 else 0), p.lanes⟩)

def issueRawait (s : State) (sh : Shape) (a : F7) (trap : Bool) : Res :=
  let g := s.G
  let h := g.rdS2 a.toNat
  if !g.whole then .trap (g.splitTrap 4)
  else
    let p := g.mkPend sh g.fa (.rawait h trap)
    match (if pollFree s p then findHandle s h g.task false else .pending) with
    | .broken c =>
      let ws := awaitWrites p [c] false
      if trap then .trap { Trap.of 30 with lanes := g.active, words := [c] }
      else if emptiesOnWrite g ws then .trap (g.splitTrap 5)
      else .ok (s.setG (g.applyNow (uniWrites ws) ws))
    | _ =>
      let s := s.addPend p
      .ok (if trap then s.setG { s.G with off := true } else s)

def execRawait (d a b : F7) (s : State) :=
  issueWith (Instr.shape (.rawait d a b)) s (fun sh s => issueRawait s sh a false)
def execRawaitTrap (d a : F7) (s : State) :=
  issueWith (Instr.shape (.rawaitTrap d a)) s (fun sh s => issueRawait s sh a true)

/-- A RAWAIT completes when its handle is resolved. The outcome of a handle of another package is not held here: it is
free (DESIGN CHOICE, log entry 23). -/
def tryRawait (s : State) (p : Pend) (h : DWord) (trap : Bool) : Option State :=
  let finish := fun (s : State) (words : List Word) (ok : Bool) =>
    let ws := awaitWrites p words ok
    let s :=
      if trap && !ok then lateFault s p { Trap.of 30 with lanes := p.lanes, words := words }
      else if emptiesOnWrite s.G ws then lateFault s p (s.G.splitTrap 5)
      else
        let s := if ok then l1Drop s s.G.core else s
        s.setG (s.G.complete p ws)
    if namesIssued s h then freeIfDone s (handleKey h) else s
  if !mayPerform s s.G p then none else match findHandle s h s.G.task true with
  | .ready ws => some (finish s ws true)
  | .broken c => some (finish s [c] false)
  | .elsewhere =>
    let (n, s) := s.draw
    let (ws, s) := drawWords 8 s
    some (if n % 2 = 0 then finish s ws true else finish s (ws.take 1) false)
  | _ => none

/-- Whether a handle is resolved (R281); of one of another package it is free (DESIGN CHOICE, log entry 23). -/
def resolved (s : State) (h : DWord) : Bool × State :=
  match findHandle s h s.G.task false with
  | .ready _ | .broken _ => (true, s)
  | .elsewhere => let (n, s) := s.draw; (n % 2 == 1, s)
  | _ => (false, s)

/-- RPOLL (R289): at once, unless something issued before must be performed first. -/
def execRpoll (d a : F7) (s : State) :=
  issueWith (Instr.shape (.rpoll d a)) s (fun sh s =>
    let p := s.G.mkPend sh s.G.fa (.rpoll (s.G.rdS2 a.toNat))
    if pollFree s p then
      let (t, s) := resolved s (s.G.rdS2 a.toNat)
      writeP s d.toNat (fun _ => t)
    else .ok (s.addPend p))

/-- An RPOLL that had to wait. -/
def tryRpoll (s : State) (p : Pend) (h : DWord) : Option State :=
  if !mayPerform s s.G p then none
  else
    let (t, s) := resolved s h
    some (s.setG (s.G.complete p (p.dst.map (fun r => ⟨r, mkRow (fun _ => if t then 1 else 0), p.lanes⟩))))

/-- RDROP (R289). A handle of another package is dropped there. -/
def execRdrop (a : F7) (s : State) :=
  issue (Instr.shape (.rdrop a)) s (fun s =>
    let h := s.G.rdS2 a.toNat
    if namesEntry s h s.G.task then
      let k := handleKey h
      .ok (freeIfDone (s.setHandle k { s.handle k with dropped := true }) k)
    else .ok s)

/-! ### SERVICE_START (R284, R285, R403) -/

/-- A service: text start, entry address, budget, address space, virtual function, the mailbox of its context region. -/
structure Service where
  text   : DWord
  entry  : DWord
  budget : Nat
  asid   : Nat
  vf     : Nat
  region : Nat
  deriving DecidableEq, Repr

/-- R403: SERVICE 0 to 2 of the task's launch record. -/
def taskService (t : Task) (n : Nat) : Option Service :=
  match t.record.roles[n]? with
  | some e =>
    if budgetOk e.regs && e.entry.toNat % 4 == 0 then
      some ⟨t.record.text, t.record.text + e.entry.zeroExtend 64, e.regs, t.record.asid, t.mailbox / 8, t.mailbox⟩
    else none
  | none => none

/-- The address space of a virtual function: its lowest (DESIGN CHOICE, log entry 24). -/
def spaceOf (s : State) (vf : Nat) : Nat :=
  ((s.dev.spaces.filter (fun e => e.2.2 == vf && e.2.1.getLsbD 0)).map Prod.fst).head?.getD 0

/-- R296: an entry of the package service table. Its table stands at a physical address; its text starts at its entry (DESIGN CHOICE, log
entry 24). -/
def packageService (s : State) (n : Nat) : Option Service :=
  if s.dev.svctab.2 ≤ n then none
  else
    let bs := bgetN s.mem (s.dev.svctab.1.toNat + 16 * n) 16
    let a := dwordAt bs 0
    let vf := fieldAt bs 10 2
    if a = 0 ∨ !budgetOk (fieldAt bs 8 1) then none else some ⟨a, a, fieldAt bs 8 1, spaceOf s vf, vf, 8 * vf⟩

/-- The service that an invocation names. -/
def serviceOf (s : State) (i : Invocation) : Option Service :=
  match i.target with
  | .pkg _ _ => packageService s i.service
  | _ => (s.task? i.task).bind (fun t => taskService t i.service)

/-- The cores on which an invocation may be placed (R285). -/
def coresFor (s : State) (r : InvRec) : List Nat :=
  let inParts := fun (m : Nat) (c : Nat) => (s.mailbox m).parts.getLsbD (partitionOf c)
  match r.place, r.inv.target with
  | .atLeaf j, _ =>
    match (s.task? r.inv.task).bind (fun t => t.kdesc.map (fun d => (t, d))) with
    | some (t, d) => match headVersion s t d with
      | .ok v => match cutsOf s t d v with
        | .ok cs => let c := ownerCore (cutEntry cs j).owner; [c, c + 1]
        | .error _ => []
      | .error _ => []
    | none => []
  | .ready q, .pkg _ _ =>
    match packageService s r.inv.service with
    | some v => ((List.range 192).map (192 * q + ·)).filter (fun c => (List.range 8).any (fun k => inParts (8 * v.vf + k) c))
    | none => []
  | .ready q, _ =>
    match s.task? r.inv.task with
    | some t => ((List.range 192).map (192 * q + ·)).filter (inParts t.mailbox)
    | none => []
  | _, _ => []

/-- Where SERVICE_START tries an invocation: the cores on which it may be placed; where there is none, one core stands for all, for an
invocation that names no service ends there (R284). -/
def startCores (s : State) (r : InvRec) : List Nat :=
  match coresFor s r, r.place with
  | [], .ready q => [192 * q]
  | cs, _ => cs

/-- The leaf of an invocation at an owner: LIVE there, gone, or on the move. -/
inductive LeafHere where
  | live (e : KEnt)
  | gone
  | held
  deriving DecidableEq, Repr

def leafHere (s : State) (r : InvRec) (j : Nat) (k : DWord) : LeafHere :=
  match (s.task? r.inv.task).bind (fun t => t.kdesc.map (fun d => (t, d))) with
  | some (t, d) => match readIndex s t d j with
    | .ok es => match entryFor es k.toNat with
      | some e => if e.state = 0 then .live e else .held
      | none => .gone
    | .error _ => .gone
  | none => .gone

/-- Two invocations wait for the same cores and group areas (R285).
Invocations whose core sets overlap but differ wait at different places, and either may start first (log entry 24, DESIGN CHOICE). -/
def samePlace (s : State) (x y : InvRec) : Bool :=
  x.place == y.place && coresFor s x == coresFor s y &&
  (serviceOf s x.inv).map Service.region == (serviceOf s y.inv).map Service.region

/-- An invocation that could start if it had room: one whose handle others were sent on from waits until those have started (R286). -/
def startable (s : State) (r : InvRec) : Bool :=
  match r.place, r.inv.target with
  | .atLeaf j, .key k => match leafHere s r j k with | .held => false | _ => true
  | .ready _, .hdl h => !namesIssued s h || (s.handle (handleKey h)).sentOn == 0
  | .ready _, _ => true
  | _, _ => false

/-- Earlier invocations go first at one place, and one group's in its order (R285, R286). -/
def invBefore (s : State) (r : InvRec) : Bool :=
  s.invs.any (fun x => decide (x.order < r.order) && samePlace s x r && startable s x)

/-- Starts the service group of an invocation on a core, with the registers of R284; a task's text is fixed when its first group
starts (R79), and its quarter's point follows (R370). -/
def startService (s : State) (r : InvRec) (v : Service) (core : Nat) (key payload : DWord) : State :=
  let i := r.inv
  let gid := s.newGid
  let words := (List.range 8).map (fun k => (k, i.args.getD k 0)) ++
    [(8, 0xFFFFFFFF), (9, BitVec.ofNat 32 i.service)] ++ pairWrites 10 key ++ pairWrites 12 payload ++
    pairWrites 14 i.handle ++ (List.range 8).map (fun k => (16 + k, i.input.getD k 0))
  let g := Group.start .service 32 v.budget core (s.seatFor core) ((s.freeCtx core).getD 0) 0 i.task v.asid v.vf v.text
    v.entry i.prio i.level words v.region (groupArea 32 v.budget) (s.newArea v.region (groupArea 32 v.budget))
  let s := match s.task? i.task with
    | some t => if t.stage = TaskStage.started ∨ t.text ≠ [] then s else s.setTask i.task { t with text := s.mem }
    | none => s
  let s := begunVia (l1Drop (s.setGroup gid { g with inv := i.id }) core) (quarterOf core) i
  refreshOpp { s with invs := s.invs.map (fun x => if x.inv.id = i.id ∧ x.order = r.order then
      { x with inv := { i with key := key, payload := payload, via := [] }, place := .running gid } else x) }

/-- An entry that an invocation was addressed to may be free now (R289). -/
def leaveHandle (s : State) (i : Invocation) : State :=
  match i.target with
  | .hdl h => if namesIssued s h then freeIfDone s (handleKey h) else s
  | _ => s

/-- Takes an invocation away from a quarter and breaks its handle. -/
def refuseInv (s : State) (q : Nat) (r : InvRec) (cause : Nat) : State :=
  leaveHandle (breakInv { s with invs := s.invs.filter (fun x => x.order != r.order) } q r.inv (breakWord cause 0)) r.inv

/-- SERVICE_START: none while the invocation must wait. -/
def tryService (s : State) (id core : Nat) : Option State :=
  match s.invs.find? (fun r => r.inv.id == id && (match r.place with | .running _ => false | _ => true)) with
  | none => none
  | some r =>
    if !startable s r || invBefore s r then none
    else
      let gone : Bool := match r.place, r.inv.target with
        | .atLeaf j, .key k => leafHere s r j k == .gone
        | _, _ => false
      if gone then some (refuseInv s (quarterOf core) r 8)
      else match serviceOf s r.inv with
        | none => some (refuseInv s (match r.place with | .ready q => q | _ => quarterOf core) r 7)
        | some v =>
          if (coresFor s r).contains core && s.roomOn core 32 v.budget && decide (groupArea 32 v.budget ≤ s.ctxFree v.region) then
            match r.place, r.inv.target with
            | .atLeaf j, .key k => match leafHere s r j k with
              | .live e => some (startService s r v core e.key e.payload)
              | _ => none
            | _, _ => some (leaveHandle (startService s r v core 0 0) r.inv)
          else none

def execServiceStart (inv core : Nat) (s : State) : Host.Outcome State Fault Refusal :=
  .next ((tryService s inv core).getD s)

/-! ### HANDLE_RESULT_ARRIVE, HANDLE_TIMEOUT -/

def execHandleResultArrive (msg : Nat) (s : State) : Host.Outcome State Fault Refusal :=
  match s.results.find? (fun m => m.id == msg) with
  | some m => .next (arriveResult { s with results := s.results.filter (fun x => x.id != msg) } m)
  | none => .next s

/-- Takes the waiting invocations of a handle away: the entry that held one counts it no longer (R422). -/
def dropWaiting (s : State) (h : DWord) : State :=
  let gone := s.invs.filter (fun r => r.inv.handle == h && match r.place with | .running _ => false | _ => true)
  let s := { s with invs := s.invs.filter (fun r => !gone.contains r) }
  let s := gone.foldl (fun s r => begunVia s (handleQtr h) r.inv) s
  gone.foldl (fun s r => match r.place with
    | .atHandle q i =>
      let k := 65536 * q + i
      freeIfDone (s.setHandle k { s.handle k with waiting := min 65535 (heldAt s k).length }) k
    | _ => leaveHandle s r.inv) s

/-- R420, R285: a handle still PENDING at its deadline breaks; an invocation that waits for it to be placed goes. -/
def tryTimeout (s : State) (quarter index : Nat) : Option State :=
  let k := 65536 * quarter + index
  let e := s.handle k
  if e.state = .pending ∧ e.deadline.toNat ≤ s.clock.toNat then
    let h := entryHandle s k e
    let s := dropWaiting s h
    some (settle s k { s.handle k with state := .broken, cause := breakWord 4 0 })
  else none

def execHandleTimeout (quarter index : Nat) (s : State) : Host.Outcome State Fault Refusal :=
  .next ((tryTimeout s quarter index).getD s)

end Sys2Proof.Machine
end

