-- ==== Sys2Proof/Machine/System.lean ====
section
/-! DEFINITION. System and trap instructions (12, R290 to R305): class 110 FN 100; and the steps of the TLB and the
walker (13, R321 to R324): TIMEWAIT_EXPIRE, BANKROLE_SWITCH, WALKER_START, WALKER_TIMEOUT, LOG_REISSUE. -/

namespace Sys2Proof.Machine

/-! ### The system registers (R294) -/

/-- A system register by its number. -/
inductive SysReg where
  | tcause | tinfo | tepcLo | tepcHi | tret | taddrLo | taddrHi | tpend | logmask | xfer | priv | thand
  | bankrole (b : Nat)
  | comm (w : Nat)
  | svctab (w : Nat)
  deriving DecidableEq, Repr

def sysReg (n : Nat) : Option SysReg :=
  if n < 12 then
    [SysReg.tcause, .tinfo, .tepcLo, .tepcHi, .tret, .taddrLo, .taddrHi, .tpend, .logmask, .xfer, .priv, .thand][n]?
  else if 0x10000 ≤ n ∧ n < 0x10040 then some (.bankrole (n - 0x10000))
  else if 0x20000 ≤ n ∧ n < 0x20100 then some (.comm (n - 0x20000))
  else if 0x30000 ≤ n ∧ n < 0x30003 then some (.svctab (n - 0x30000))
  else none

/-- The level that may read it. -/
def SysReg.readLevel : SysReg → Nat
  | .priv => 0
  | .bankrole _ | .comm _ | .svctab _ => 2
  | _ => 1

/-- The level that may write it; none for a read-only register. -/
def SysReg.writeLevel : SysReg → Option Nat
  | .tepcLo | .tepcHi | .tret => some 1
  | .thand | .bankrole _ | .comm _ | .svctab _ => some 2
  | _ => none

/-- LOGMASK. -/
def logMask (g : Group) : Word :=
  let valid := (List.range 8).foldl (fun n k => if (mget g.log k).isSome then n + 2 ^ k else n) 0
  let cur := match g.frame with
    | some f => match f.entry with | some k => 256 * k + 2048 | none => 0
    | none => 0
  BitVec.ofNat 32 (valid + cur)

def sysRead (s : State) (r : SysReg) : Word :=
  let g := s.G
  match r with
  | .tcause => g.tcause
  | .tinfo => g.tinfo
  | .tepcLo => loWord g.tepc
  | .tepcHi => hiWord g.tepc
  | .tret => g.tret
  | .taddrLo => loWord g.taddr
  | .taddrHi => hiWord g.taddr
  | .tpend => tpendWord g
  | .logmask => logMask g
  | .xfer => BitVec.ofNat 32 g.xfer
  | .priv => BitVec.ofNat 32 g.level
  | .thand => s.thand g
  | .bankrole b => BitVec.ofNat 32 (mgetD (s.cluster (clusterOf g.core)).banks b Bank.empty).role
  | .comm w => mgetD s.dev.comms w 0
  | .svctab w => if w = 0 then loWord s.dev.svctab.1 else if w = 1 then hiWord s.dev.svctab.1 else BitVec.ofNat 32 s.dev.svctab.2

/-- A value that a register may not be given (R293 to R296). -/
def sysBad (r : SysReg) (w : Word) : Bool :=
  match r with
  | .tret => decide (3 < w.toNat)
  | .thand => w.toNat % 4 != 0
  | .bankrole _ => w.toNat % 4 == 3
  | .comm n => n % 4 == 2 && decide (2 ^ 20 < w.toNat)
  | .svctab n => n == 2 && decide (256 < w.toNat)
  | _ => false

/-- A write of a register other than BANKROLE. -/
def sysWrite (s : State) (r : SysReg) (w : Word) : State :=
  let g := s.G
  match r with
  | .tepcLo => s.setG { g with tepc := pair w (hiWord g.tepc) }
  | .tepcHi => s.setG { g with tepc := pair (loWord g.tepc) w }
  | .tret => s.setG { g with tret := w }
  | .thand =>
    if s.ofPackage g then s.setG { g with thand := w }
    else match s.task? g.task with
    | some t => s.setTask g.task { t with thand := w }
    | none => s
  | .comm n => { s with dev := { s.dev with comms := mput s.dev.comms n w } }
  | .svctab n =>
    let v := s.dev.svctab
    { s with dev := { s.dev with svctab :=
        if n = 0 then (pair w (hiWord v.1), v.2) else if n = 1 then (pair (loWord v.1) w, v.2) else (v.1, w.toNat) } }
  | _ => s

def trap31 (g : Group) : Res := .trap { Trap.of 31 with lanes := g.active }
def trap32 (g : Group) : Res := .trap { Trap.of 32 with lanes := g.active }

def execSysrd (d a : F7) (s : State) :=
  issue (Instr.shape (.sysrd d a)) s (fun s =>
    let g := s.G
    ifActive s (match sysReg (g.rdS a.toNat).toNat with
      | none => trap32 g
      | some r =>
        if g.level < r.readLevel then trap31 g
        else writeUnis s false [(d.toNat, sysRead s r)]))

def execSyswr (a b : F7) (s : State) :=
  issueWith (Instr.shape (.syswr a b)) s (fun sh s =>
    let g := s.G
    let w := g.rdS b.toNat
    ifActive s (match sysReg (g.rdS a.toNat).toNat with
      | none => trap32 g
      | some r =>
        if g.level < r.writeLevel.getD r.readLevel then trap31 g
        else if r.writeLevel.isNone || sysBad r w then trap32 g
        else match r with
          | .bankrole k => waitPend s sh (.bankrole k (w.toNat % 4))
          | _ => .ok (sysWrite s r w)))

/-! ### Walks (R321, R322) -/

/-- The waiting accesses of a page take the translation fault: groups' accesses, engine commands, fetches. -/
def failPage (s : State) (cluster asid page : Nat) : State :=
  let hurt := fun (p : Pend) =>
    if p.missed && p.accs.any (fun a => pageOf a.va == page) then { p with failed := page :: p.failed } else p
  let mark := fun (_ : Nat) (g : Group) =>
    if g.kind != .vacant && g.kind != .walker && clusterOf g.core == cluster && g.asid == asid then
      { g with pends := g.pends.map hurt,
               pageWaits := g.pageWaits.map (fun w => if w.1 = page then (page, true) else w),
               fetchMiss := if g.fetchMiss = some (page, false) then some (page, true) else g.fetchMiss }
    else g
  { s with
    groups := mmap mark s.groups,
    cmds := s.cmds.map (fun c => if clusterOf c.core = cluster ∧ c.asid = asid ∧ c.missed = some page then
      { c with walkFail := true } else c) }

/-- The walker's group leaves its slot. -/
def dropWalker (s : State) (cluster : Nat) : State :=
  let cl := s.cluster cluster
  let s := s.setCluster cluster { cl with walk := none, walker := none }
  match cl.walker with
  | some gid => { s with groups := mdel s.groups gid }
  | none => s

/-- A page no longer waits; a walk of it ends. -/
def endWait (s : State) (cluster asid page : Nat) : State :=
  let cl := s.cluster cluster
  let s := s.setCluster cluster { cl with misses := cl.misses.filter (fun m => !(m.asid == asid && m.page == page)) }
  match cl.walk with
  | some (m, _) => if m.asid = asid ∧ m.page = page then dropWalker s cluster else s
  | none => s

/-- The walk in progress ends without a fill. -/
def failWalk (s : State) (cluster : Nat) : State :=
  match (s.cluster cluster).walk with
  | some (m, _) => failPage (dropWalker s cluster) cluster m.asid m.page
  | none => s

/-- The walker's group at its start (R322). Its varying budget is not given; it is the largest (DESIGN CHOICE, log entry 25). -/
def walkerGroup (s : State) (cluster : Nat) (m : Miss) (entry : DWord) : Group :=
  let va : DWord := BitVec.ofNat 64 (m.page * 2 ^ 21)
  let root : DWord := match spaceRoot s m.asid with | some (r, _) => BitVec.ofNat 64 r | none => 0
  Group.start .walker 32 124 (8 * cluster) 0 48 0 0 m.asid 0 entry entry 0 2
    (pairWrites 0 va ++ [(2, BitVec.ofNat 32 m.asid), (3, BitVec.ofNat 32 m.kind)] ++ pairWrites 4 root ++
      [(6, BitVec.ofNat 32 m.core)]) 0 0 []

/-- WALKER_START: the oldest miss is served; without an installed routine it takes the translation fault (R435). -/
def tryWalk (s : State) (cluster : Nat) : Option State :=
  let cl := s.cluster cluster
  match cl.walk, cl.misses with
  | none, m :: rest =>
    let entry := mgetD s.dev.walkers cluster 0
    if entry = 0 then some (failPage (s.setCluster cluster { cl with misses := rest }) cluster m.asid m.page)
    else
      let gid := s.newGid
      let s := s.setCluster cluster
        { cl with misses := rest, walk := some (m, addNs s.clock 64000), walker := some gid }
      some (s.setGroup gid (walkerGroup s cluster m entry))
  | _, _ => none

def execWalkerStart (cluster : Nat) (s : State) : Host.Outcome State Fault Refusal :=
  .next ((tryWalk s cluster).getD s)

/-- WALKER_TIMEOUT (R322). -/
def tryWalkEnd (s : State) (cluster : Nat) : Option State :=
  match (s.cluster cluster).walk with
  | some (_, till) => if till.toNat ≤ s.clock.toNat then some (failWalk s cluster) else none
  | none => none

def execWalkerTimeout (cluster : Nat) (s : State) : Host.Outcome State Fault Refusal :=
  .next ((tryWalkEnd s cluster).getD s)

/-! ### TLBFILL, TLBINV (R297, R298) -/

/-- Puts a translation into a cluster TLB of 512 sets of 8 ways; which entry of a full set it replaces is free (DESIGN CHOICE, log entry 19). -/
def tlbPut (s : State) (cluster : Nat) (e : TlbEntry) : State :=
  let cl := s.cluster cluster
  let rest := cl.tlb.filter (fun x => !(x.asid == e.asid && x.page == e.page))
  let mates := rest.filter (fun x => x.page % 512 == e.page % 512)
  if mates.length < 8 then s.setCluster cluster { cl with tlb := e :: rest }
  else
    let (n, s) := s.draw
    match mates[n % mates.length]? with
    | some v => s.setCluster cluster { cl with tlb := e :: rest.filter (fun x => !(x.asid == v.asid && x.page == v.page)) }
    | none => s

/-- A fill of a page from a leaf entry. -/
def tlbFill (s : State) (cluster asid page : Nat) (b : BitVec 128) : State :=
  if (leafOf b).valid s.dev.pkg then endWait (tlbPut s cluster ⟨asid, page, b⟩) cluster asid page
  else failPage (endWait s cluster asid page) cluster asid page

/-- The leaf entry that TLBFILL reads, or the cause of the fault that the read raises (R297, R317, R320, R424). -/
def readLeaf (s : State) (pa : Nat) : Except Nat (BitVec 128) × State :=
  if isHbm pa then (if s.bad.contains (pa / 128) then .error 22 else .ok (leafBits s pa), s)
  else match aperture pa with
    | none => (.error 23, s)
    | some k =>
      match hostAnswers s (if k = 8 then [⟨0, BitVec.ofNat 64 pa, pa, 16, none, none, [], 0, 0⟩] else []) with
      | (some a, s) => (.error 33, postHost s s.G.vf a.va)
      | (none, s) =>
        let (bs, s) := apertureRead s pa 16
        (.ok (BitVec.ofNat 128 (leNat bs)), s)

def execTlbfill (a b : F7) (s : State) :=
  issue (Instr.shape (.tlbfill a b)) s (fun s =>
    let g := s.G
    let x := g.rdS2 a.toNat
    let pa := (g.rdS2 b.toNat).toNat
    if g.level < 2 then trap31 g
    else ifActive s (
      if x.toNat / 2 ^ 57 ≠ 0 ∨ bitsOf x.toNat 20 16 ≠ 0 ∨ pa % 16 ≠ 0 then trap32 g
      else match readLeaf s pa with
        | (.error c, s') => .trapIn s' { Trap.of c with lanes := g.active, addr := BitVec.ofNat 64 pa }
        | (.ok leaf, s') =>
          let c := clusterOf g.core
          let mine : Bool := g.kind == .walker &&
            (match (s.cluster c).walk with
             | some (m, _) => m.asid == x.toNat % 65536 && m.page == pageOf x
             | none => false)
          let s' := tlbFill s' c (x.toNat % 65536) (pageOf x) leaf
          if mine then .done s' else .ok s'))

/-- The translations that a TLBINV removes. -/
def invHits (scope asid page a p : Nat) : Bool :=
  match scope with
  | 0 => a == asid && p == page
  | 1 => a == asid
  | _ => true

/-- The L1 lines of a cluster that belong to removed pages go (R297). -/
def l1Clear (s : State) (cluster scope asid page : Nat) : State :=
  let clear := fun (k : Nat) (co : Core) =>
    if clusterOf k = cluster then { co with l1 := co.l1.filter (fun l => !invHits scope asid page l.asid (l.vline / 16384)) } else co
  { s with cores := mmap clear s.cores }

/-- TLBINV removes at once; it completes when the accesses that used what it removed are performed, and drops what those have filled since. -/
def execTlbinv (a : F7) (s : State) :=
  issueWith (Instr.shape (.tlbinv a)) s (fun sh s =>
    let g := s.G
    let x := g.rdS2 a.toNat
    let scope := bitsOf x.toNat 17 16
    let asid := x.toNat % 65536
    if g.level < 2 then trap31 g
    else ifActive s (
      if x.toNat / 2 ^ 57 ≠ 0 ∨ bitsOf x.toNat 20 18 ≠ 0 ∨ scope = 3 then trap32 g
      else
        let c := clusterOf g.core
        let cl := s.cluster c
        let hits := invHits scope asid (pageOf x)
        let s := s.setCluster c { cl with tlb := cl.tlb.filter (fun e => !hits e.asid e.page) }
        waitPend (l1Clear s c scope asid (pageOf x)) sh (.tlbinv scope asid (pageOf x))))

/-- An access of a group that a TLBINV waits for. -/
def usedEntry (g : Group) (scope asid page mark : Nat) (q : Pend) : Bool :=
  q.access && !q.pool && !q.missed && !q.settled && decide (q.mark ≤ mark) &&
  q.accs.any (fun a => invHits scope asid page g.asid (pageOf a.va))

/-- An access of an engine command that a TLBINV waits for: asked of another package and not answered yet. -/
def Cmd.usedEntry (c : Cmd) (scope asid page mark : Nat) : Bool :=
  decide (c.mark ≤ mark) &&
  (c.asked.any (fun a => (mget c.fetched a).isNone && invHits scope asid page c.asid (a / 2 ^ 21)) ||
   (c.owed != 0 && c.outs.any (fun a => invHits scope asid page c.asid (a / 2 ^ 21))))

def tryTlbinv (s : State) (p : Pend) (scope asid page : Nat) : Option State :=
  let c := clusterOf s.G.core
  if s.cmds.any (fun k => clusterOf k.core == c && k.usedEntry scope asid page p.mark) then none
  else if s.groups.any (fun e => clusterOf e.2.core == c && e.2.kind != .vacant && e.2.kind != .walker &&
      e.2.pends.any (usedEntry e.2 scope asid page p.mark)) then none
  else some ((l1Clear s c scope asid page).setG (s.G.complete p []))

/-! ### LOG_REISSUE (R324) -/

/-- The kind of access of an issued instruction. -/
def Pend.kind (p : Pend) : AccKind :=
  match p.body with
  | .store => .write
  | .atom _ => .atomic
  | _ => .read

/-- Whether a load bypasses the L1. -/
def Pend.bypass (p : Pend) : Bool :=
  match p.body with
  | .load _ b | .loadConv _ _ _ b => b
  | _ => true

/-- The lanes of an instruction that touch a page whose walk failed. -/
def failedLanes (p : Pend) : Mask :=
  p.accs.foldl (fun m a => if p.failed.contains (pageOf a.va) then m ||| BitVec.ofNat 96 (2 ^ a.lane) else m) 0

def accTrap (cause : Nat) (p : Pend) (lanes : Mask) : Trap :=
  laneTrap cause lanes (fun i => match p.accs.find? (fun a => a.lane == i) with | some a => a.va | none => 0)

/-- An instruction that waited for its pages is issued again from the log; none while a page still waits. -/
def tryReissue (s : State) (p : Pend) : Option State :=
  let g := s.G
  let c := clusterOf g.core
  if !p.missed || p.accs.any (fun a => stillMissed s c g.asid (pageOf a.va)) then none
  else if failedLanes p ≠ 0 then some (lateFault s p (accTrap 23 p (failedLanes p)))
  else
    let xs := p.accs.map (fun a => (a.lane, translate s g.who p.kind a.va))
    match missPages xs with
    | [] =>
      let bad := faultLanes xs
      if bad ≠ 0 then
        let t := accTrap 23 p bad
        some (lateFault (if anyDenied xs then s.deny (g.vf + 1) (BitVec.ofNat 32 p.kind.code) t.addr else s) p t)
      else
        let w : Want := { kind := p.kind, size := (p.accs.map Acc.size).headD 1, align := 1,
                          addr := fun i => match p.accs.find? (fun a => a.lane == i) with | some a => a.va | none => 0,
                          data := fun _ => [], cmp := fun _ => 0, byp := p.bypass }
        let unc := badLanes s g w xs
        if unc ≠ 0 then some (lateFault s p (accTrap 22 p unc))
        else
          let fill := fun (a : Acc) => match translate s g.who p.kind a.va with
            | .hit pa rem home => { a with pa := pa, rem := rem, home := home }
            | _ => a
          some (s.setG (g.setPend { p with missed := false, accs := p.accs.map fill }))
    | pages => let s' := (addMisses s g p.kind pages).1; if s' = s then none else some s'

def execLogReissue (gid id : Nat) (s : State) : Host.Outcome State Fault Refusal :=
  match (s.group gid).findPend id with
  | some p => .next (withGroup s gid (fun s => (tryReissue s p).getD s))
  | none => .next s

/-! ### LOGRD (R304) -/

/-- A selected word in a lane. -/
def logWord (e : LogEntry) (sel i : Nat) : Word :=
  if sel < 16 then logHeader e sel
  else match e.src[sel - 16]? with
    | some (.uni w) => w
    | some (.lanes r) => r.at i
    | none => 0

def execLogrd (d a : F7) (s : State) :=
  issue (Instr.shape (.logrd d a)) s (fun s =>
    let g := s.G
    let w := (g.rdS a.toNat).toNat
    if g.level < 1 then trap31 g
    else match mget g.log (w % 8) with
      | none => trap32 g
      | some e =>
        if w / 2 ^ 10 ≠ 0 ∨ bitsOf w 3 3 ≠ 0 then trap32 g
          else writeV s d.toNat (fun i => logWord e (bitsOf w 9 4) i))

/-! ### ERET (R305) -/

/-- The current split's program counter. -/
def Group.setPc (g : Group) (pc : DWord) : Group := g.setSplit { g.split with pc := pc }

/-- The log entry of a fault is freed. -/
def Group.freeSlot (g : Group) : Option Nat → Group
  | some k => { g with log := mdel g.log k }
  | none => g

/-- The split that a fault's word issued in (R305): the current one, or that of a word whose fault came after its issue. -/
def Group.faultSplit (g : Group) (f : Frame) : Nat := if f.redo.isSome then splitOf g.splits f.lateSid g.cur else g.cur

/-- The clause in which a faulted word is issued again: its own clause, or the word alone, in its split, when later words have issued
since (R324). -/
def Group.reopen (g : Group) (f : Frame) (tw : BitVec 4) : Group :=
  match f.redo with
  | none => { g with clause := f.clause.map (fun c => { c with tw := tw }) }
  | some c =>
    let n := c.pos + 1 + litsOfWord (c.words.getD c.pos 0)
    { g with clause := some { c with tw := tw, len := n, taken := true }, cur := g.faultSplit f,
             after := ⟨f.clause, some f.temps, f.ovr, f.again, f.cur⟩ :: g.after }

/-- The lanes that are active in the splits that have come from one since its divergence `sid`. -/
def Group.activeIn (g : Group) (sid : Nat) : Mask :=
  let one := fun (acc : Mask) (sp : Split) =>
    if sp.ids.contains sid then acc ||| (sp.mask &&& g.pass sp.depth &&& g.guard) else acc
  g.parked.foldl one (g.splits.foldl (fun acc e => one acc e.2) 0)

/-- TRET 1: the entry stays until the word has completed, but the word reads its registers as they now stand, in its split. -/
def Group.rereads (g : Group) (f : Frame) : Group :=
  match f.entry with
  | none => g
  | some k => match mget g.log k with
    | none => g
    | some e =>
      let h := { g with cur := g.faultSplit f }
      let e' := { e with regs := [], affs := [], mode := h.split.mode, fmts := h.split.fmts, seeds := h.seedPair,
                         scales := h.split.fmts.map (fun w => g.uni (w.extractLsb' 24 6).toNat),
                         act := if f.redo.isSome then h.activeIn f.lateSid else g.active }
      { g with log := mput g.log k e', ovr := some k }

/-- The clause after the faulted word. -/
def afterWord (c : Clause) : Clause := { c with pos := c.pos + 1 + litsOfWord (c.words.getD c.pos 0) }

/-- The return from an exception: what R302 saved comes back, then the action of TRET; a double fault where it is not
allowed. Under TRET 3 a clause of another split that the fault interrupted goes on after the clause at TEPC (DEDUCED, log entry
47). -/
def eretGroup (s : State) (g : Group) (f : Frame) : Group :=
  let b := g.restoreFrame f
  let again := if f.redo.isSome then f.late else f.again
  match g.tret.toNat with
  | 0 =>
    match f.entry with
    | none => g.doubleFault
    | some k => match mget g.log k with
      | none => g.doubleFault
      | some e => { ({ b with t := e.temps }.reopen f e.tw) with ovr := some k, again := again }
  | 1 => if f.atWord then { (b.rereads f).reopen f f.tw with again := again } else g.doubleFault
  | 2 =>
    if !f.atWord then g.doubleFault
    else
      let b := b.freeSlot f.entry
      match f.redo with
      | some _ => { b with clause := f.clause, ovr := f.ovr, again := f.again }
      | none => { b with clause := f.clause.map (fun c => { afterWord c with tw := f.tw }) }
  | 3 =>
    if !inText s g g.tepc then g.doubleFault
    else if f.clause.isSome ∧ b.faultSplit f ≠ b.cur then
      { ({ b.freeSlot f.entry with cur := b.faultSplit f }).setPc g.tepc with
        after := ⟨f.clause, some f.temps, f.ovr, f.again, f.cur⟩ :: f.after }
    else
      let b := (f.after.map Back.ovr).foldl Group.freeSlot ((b.freeSlot f.entry).freeSlot f.ovr)
      { ({ b with cur := b.faultSplit f }).setPc g.tepc with after := [] }
  | _ => g.doubleFault

/-- An instruction of the handler that has not completed. -/
def handlerBusy (s : State) (g : Group) (f : Frame) : Bool :=
  g.pends.any (fun p => !p.done && decide (f.mark ≤ p.id)) ||
  s.cmds.any (fun c => c.gid == s.cur && c.queued && decide (f.mark ≤ c.seq))

def execEret (s : State) :=
  issue (Instr.shape .eret) s (fun s =>
    let g := s.G
    match g.frame with
    | none => trap31 g
    | some f => if handlerBusy s g f then .stall else .done (s.setG (eretGroup s g f)))

/-! ### CLOCK and TIMEWAIT (R299) -/

def execClock (d : F7) (s : State) :=
  issue (Instr.shape (.clock d)) s (fun s => ifActive s (writeUnis s false (pairWrites d.toNat s.clock)))

def execTimewait (a : F7) (s : State) :=
  issueWith (Instr.shape (.timewait a)) s (fun sh s =>
    let g := s.G
    ifActive s (.ok (s.addPend (g.mkPend sh none (.timewait (g.rdS2 a.toNat))))))

def tryTimewait (s : State) (p : Pend) : Option State :=
  match p.body with
  | .timewait till => if till.toNat ≤ s.clock.toNat ∧ !s.withdrawn s.G p then some (s.setG (s.G.complete p [])) else none
  | _ => none

def execTimewaitExpire (gid id : Nat) (s : State) : Host.Outcome State Fault Refusal :=
  match (s.group gid).findPend id with
  | some p => .next (withGroup s gid (fun s => (tryTimewait s p).getD s))
  | none => .next s

/-! ### BANKROLE_SWITCH (R295) -/

/-- The banks that a range of a team's scratch area lies in. -/
def rangeBanks (banks : List Nat) (r : Int × Nat) : List Nat :=
  let lo := r.1.toNat / 65536
  let hi := (r.1.toNat + max r.2 1 - 1) / 65536
  (List.range (hi + 1 - lo)).filterMap (fun k => banks[lo + k]?)

/-- An issued access of a group touches a bank. -/
def pendTouches (s : State) (g : Group) (bank : Nat) (p : Pend) : Bool :=
  (p.pool && p.accs.any (fun a => a.pa / 65536 == bank)) ||
  (match queueName p with
   | some (n, _) => !n.getLsbD 31 && fifoBank s g (n.extractLsb' 0 16).toNat == some bank
   | none => false)

/-- An engine command reads or writes a bank, or arrives at an object in it. -/
def cmdTouches (s : State) (c : Cmd) (bank : Nat) : Bool :=
  let g := s.group c.gid
  let rs := (planOf s g c.sub c.desc c.fmts c.scales).ranges ++ (if c.bo = 0xFFFFFFFF then [] else [((c.bo.toNat : Int), 16)])
  rs.any (fun r => (rangeBanks (scratchOf s g) r).contains bank)

/-- Everything issued to the bank before the write has been performed. -/
def bankQuiet (s : State) (cluster bank mark : Nat) : Bool :=
  s.groups.all (fun e => e.2.kind == .vacant || clusterOf e.2.core != cluster ||
    e.2.pends.all (fun p => p.done || decide (mark < p.mark) || !pendTouches s e.2 bank p)) &&
  s.cmds.all (fun c => clusterOf c.core != cluster || decide (mark < c.mark) || !cmdTouches s c bank)

/-- The bank takes a role: lines leave the cluster cache, a scratch bank reads as zero, a FIFO is empty. -/
def setRole (s : State) (cluster bank role : Nat) : State :=
  let old := mgetD (s.cluster cluster).banks bank Bank.empty
  if old.role = role then s
  else
    let cl := s.cluster cluster
    let pool := if role = 1 then cl.pool.filter (fun e => e.1 / 65536 != bank) else cl.pool
    let s := s.setCluster cluster { cl with pool := pool, banks := mput cl.banks bank { old with role := role, fifo := [] } }
    if old.role = 0 ∨ role = 0 then rehash s cluster else s

/-- The waiting BANKROLE write of a bank that reached it first. -/
def roleWrites (s : State) (cluster bank : Nat) : List (Nat × Pend × Nat) :=
  s.groups.flatMap (fun e => if e.2.kind == .vacant || clusterOf e.2.core != cluster then [] else
    e.2.pends.filterMap (fun p => match p.body with
      | .bankrole b r => if b = bank then some (e.1, p, r) else none
      | _ => none))

def firstMark : List (Nat × Pend × Nat) → Option (Nat × Pend × Nat)
  | [] => none
  | x :: t => match firstMark t with
    | none => some x
    | some y => if x.2.1.mark ≤ y.2.1.mark then some x else some y

def tryBank (s : State) (cluster bank : Nat) : Option State :=
  match firstMark (roleWrites s cluster bank) with
  | none => none
  | some (gid, p, r) =>
    if bankQuiet s cluster bank p.mark then
      let s := setRole s cluster bank r
      some (withGroup s gid (fun s => s.setG (s.G.complete p [])))
    else none

def execBankroleSwitch (cluster bank : Nat) (s : State) : Host.Outcome State Fault Refusal :=
  .next ((tryBank s cluster bank).getD s)

end Sys2Proof.Machine
end

