-- ==== Sys2Proof/Machine/MemEvents.lean ====
section
/-! DEFINITION. The steps in which issued instructions complete (R205, R227, R233, R242, R103) and stores reach their homes
(R37, R309, R327). -/

namespace Sys2Proof.Machine

/-- The group has acquired the bytes of its gathers in batches up to a number of a class (R242, R329). -/
def Group.acquireBatch (g : Group) (cls : Nat) (n : BitVec 16) : Group :=
  if cls = 1 then { g with gathers := g.gathers.filter (fun x => decide (2 ^ 15 ≤ (n - x.batch).toNat)) } else g

/-- BWAIT completes when its batch is complete (R242), whatever else of the group still waits. -/
def tryBwait (s : State) (p : Pend) (cls n : Nat) : Option State :=
  if !s.withdrawn s.G p && !lineBehind s.G p && (s.G.batch cls).complete (BitVec.ofNat 16 n) then
    some ((l1Drop s s.G.core).setG ((s.G.acquireBatch cls (BitVec.ofNat 16 n)).complete p []))
  else none

/-- One attempt at an issued instruction: a load, store, atomic, fence, wait or invocation goes on or completes. -/
def tryPend (s : State) (p : Pend) : Option State :=
  match p.body with
  | .load _ byp => tryLoad s p byp (fun _ => false) (loadWrites p)
  | .loadConv fmt scale mode byp =>
    tryLoad s p byp (fun accs => (laneList p.lanes).any (convSlow fmt scale accs)) (fun accs => p.dst.map (fun r => ⟨r, mkRow (convWord fmt scale mode accs), p.lanes⟩))
  | .store => if p.done then ackHost s p else tryStore s p
  | .atom op => tryAtom s p op
  | .poolLoad _ | .poolStore | .boset _ _ | .boadd _ _ | .bowait _ _ | .bopoll _ _ => tryPool s p
  | .fence o q => tryFence s p o q
  | .order o q => tryOrder s p o q
  | .bar _ | .kcommit _ | .ordb _ | .orde _ => tryPush s p
  | .bwait cls n => tryBwait s p cls n
  | .rawait h t => tryRawait s p h t
  | .rpoll h => tryRpoll s p h
  | .klocate => tryKlocate s p
  | .kcost => tryKcost s p
  | .rinv i => tryRinv s p i
  | .tlbinv scope asid page => tryTlbinv s p scope asid page
  | .write | .replay | .qpush _ _ | .qpop _ _ | .timewait _ | .bankrole _ _ => none

/-- Acts on an issued instruction of a group. -/
def withPend (s : State) (gid id : Nat) (f : State → Pend → Option State) : Host.Outcome State Fault Refusal :=
  match (s.group gid).findPend id with
  | some p => .next (withGroup s gid (fun s => (f s p).getD s))
  | none => .next s

def execMemoryAccessComplete (gid id : Nat) (s : State) : Host.Outcome State Fault Refusal :=
  withPend s gid id tryPend

def execQueueOpServe (gid id : Nat) (s : State) : Host.Outcome State Fault Refusal :=
  withPend s gid id tryQueue

/-- The result of an instruction of FB stands in its registers (R73, R41). -/
def tryWrite (s : State) (p : Pend) : Option State :=
  match p.body with
  | .write => some (s.setG (s.G.complete p p.writes))
  | _ => none

def execFbInstructionComplete (gid id : Nat) (s : State) : Host.Outcome State Fault Refusal :=
  withPend s gid id tryWrite

/-- The replay of the lanes with subnormal operands or results is done (R103). -/
def tryReplay (s : State) (p : Pend) : Option State :=
  match p.body with
  | .replay => some (s.setG (s.G.complete p p.writes))
  | _ => none

def execSubnormalReplayDone (gid id : Nat) (s : State) : Host.Outcome State Fault Refusal :=
  withPend s gid id tryReplay

/-- The store-gathering entry of a core with a number. -/
def sgbEntry (s : State) (core k : Nat) : Option SgbEntry := (s.core core).sgb.find? (fun e => e.seq == k)

/-- An older entry of the line is still on its way home. -/
def sgbOlder (s : State) (core : Nat) (e : SgbEntry) : Bool :=
  (s.core core).sgb.any (fun x => x.pline == e.pline && decide (x.seq < e.seq))

/-- Acknowledges one access of a group (R37). -/
def ackOne (s : State) (w : Nat × Nat) : State :=
  if (s.group w.1).kind = .vacant then s else s.setGroup w.1 ((s.group w.1).ack w.2)

/-- HOME_ACKNOWLEDGE (R37, R220, R309): a sent entry is performed at its home, and its accesses leave the transfer count. -/
def tryHome (s : State) (core k : Nat) : Option State :=
  match sgbEntry s core k with
  | none => none
  | some e =>
    if !e.sent || sgbOlder s core e then none
    else
      let c := s.core core
      let s := s.setCore core { c with sgb := c.sgb.filter (fun x => x.seq != k) }
      let s := e.parts.foldl (fun s p => lineWrite s e.home e.pline p.task p.key p.group p.cells) s
      some (e.who.foldl ackOne s)

def execHomeAcknowledge (core k : Nat) (s : State) : Host.Outcome State Fault Refusal :=
  .next ((tryHome s core k).getD s)

/-- When an entry has waited 256 clk of 1.7 GHz, in nanoseconds of CLOCK (R309, R1). -/
def SgbEntry.due (e : SgbEntry) : DWord := addNs e.born 151

/-- SGB_ENTRY_TIMEOUT (R309): an entry that has waited is sent. -/
def trySgbTimeout (s : State) (core k : Nat) : Option State :=
  match sgbEntry s core k with
  | some e => if e.sent || decide (s.clock.toNat < e.due.toNat) then none else some (sgbSend s core (fun x => x.seq == k))
  | none => none

def execSgbEntryTimeout (core k : Nat) (s : State) : Host.Outcome State Fault Refusal :=
  .next ((trySgbTimeout s core k).getD s)

/-- An access of an instruction that host memory has not answered. -/
def hostWaits (p : Pend) : Option Acc :=
  p.accs.find? (fun a => a.rem.isNone && aperture a.pa == some 8 && (if p.done then a.st == 1 else a.st == 0))

/-- HOST_ACCESS_TIMEOUT (R327): the access counts as refused: cause 33 for a load or an atomic, the remote-store trap of a
later fence for a store; event 9. -/
def tryHostTimeout (s : State) (p : Pend) : Option State :=
  match hostWaits p with
  | none => none
  | some a =>
    if !hostLate s p ∨ p.missed then none
    else
      let s := postHost s s.G.vf a.va
      match p.body with
      | .store =>
        if p.done then
          let g := s.G.setPend (p.setAcc { a with st := 2 })
          some (s.setG (g.ackRefused p.id a.va))
        else none
      | .load _ _ | .loadConv _ _ _ _ | .atom _ => some (refuseLoad s p a.lane a.va)
      | _ => none

def execHostAccessTimeout (gid id : Nat) (s : State) : Host.Outcome State Fault Refusal :=
  withPend s gid id tryHostTimeout

end Sys2Proof.Machine
end

