-- ==== Sys2Proof/Machine/Dealer.lean ====
section
/-! DEFINITION. The dealer (18): records, counters, placing and saving teams, held requests, the end of a group
(R141, R326, R359 to R380): GROUP_RETIRE, HELD_REQUEST_EFFECT, TEAM_SAVE_DONE, MAILBOX_ACCEPT, TEAM_PLACE, OPP_STABLE,
COUNTER_SET, COUNTER_ADD, COUNTER_RESET, MAILBOX_KILL, MAILBOX_SLOT_WRITE. -/

namespace Sys2Proof.Machine

/-! ### Mailboxes and counters as host masters write them (R359, R365, R423, R428, R429) -/

/-- The windows through which a host master reaches mailboxes and counters (R423): virtual function v its mailboxes 8v to 8v + 7, and every
counter block. R365 names master 0 among the writers of counters, so the physical function reaches them too (DEDUCED, log entry 9). -/
def barReach (master cls unit : Nat) : Bool :=
  decide (master ≤ 64) && (cls != 1 || master == unit / 8 + 1)

/-- A host master's write through one of its windows, which the access tables decide: a denied one is dropped, and event 5 is posted (R429). While the
link is down no write arrives (R423). -/
def hostWrite (s : State) (master cls unit : Nat) (addr : Nat) (f : State → State) : State :=
  if !s.dev.linkUp || !barReach master cls unit then s
  else if accessOk s.dev master cls unit false true then f s
  else s.deny master (BitVec.ofNat 32 AccKind.write.code) (BitVec.ofNat 64 addr)

def mailboxAddr (m off : Nat) : Nat := 9 * 2 ^ 48 + 16384 * m + off
def counterAddr (c off : Nat) : Nat := 10 * 2 ^ 48 + 32 * c + off

def execMailboxSlotWrite (master mailbox offset : Nat) (data : List Byte) (s : State) :
    Host.Outcome State Fault Refusal :=
  if mailbox < 512 ∧ offset < 0x2000 then
    .next (hostWrite s master 1 mailbox (mailboxAddr mailbox offset) (fun s => mailboxWrite s master mailbox offset data))
  else .next s

def execMailboxKill (master mailbox : Nat) (value : Word) (s : State) : Host.Outcome State Fault Refusal :=
  if mailbox < 512 then
    .next (hostWrite s master 1 mailbox (mailboxAddr mailbox 0x2028) (fun s =>
      mailboxWrite s master mailbox 0x2028 (leBytes 4 value.toNat)))
  else .next s

def execCounterSet (master counter : Nat) (value : DWord) (s : State) : Host.Outcome State Fault Refusal :=
  if counter < 4096 then
    .next (hostWrite s master 2 counter (counterAddr counter 0) (fun s => counterSetOp s counter value master))
  else .next s

def execCounterAdd (master counter : Nat) (value : DWord) (s : State) : Host.Outcome State Fault Refusal :=
  if counter < 4096 then
    .next (hostWrite s master 2 counter (counterAddr counter 8) (fun s => counterAddOp s counter value master))
  else .next s

def execCounterReset (master counter : Nat) (value : DWord) (s : State) : Host.Outcome State Fault Refusal :=
  if counter < 4096 then
    .next (hostWrite s master 2 counter (counterAddr counter 16) (fun s => counterResetOp s counter value))
  else .next s

/-- MAILBOX_ACCEPT (R360, R435): the record in slot CONSUMED mod 32, when its SEQ is CONSUMED + 1 and not zero. -/
def tryAccept (s : State) (m : Nat) : Option State :=
  let b := s.mailbox m
  let slot := b.consumed.toNat % 32
  let bs := bgetN b.slots (256 * slot) 256
  if !s.dev.powered || s.dev.recovery || b.ctxsize == 0 || b.parts == 0 || flrBusy s (m / 8) then none
  else if wordAt bs 0xFC = b.consumed + 1 ∧ wordAt bs 0xFC ≠ 0 then
    some (acceptRecord (s.setMailbox m { b with consumed := b.consumed + 1 }) m slot none (parseRecord bs))
  else none

def execMailboxAccept (mailbox : Nat) (s : State) : Host.Outcome State Fault Refusal :=
  .next ((tryAccept s mailbox).getD s)

/-! ### Banks and accumulator memory (R311, R330) -/

/-- All banks of a team. -/
def Team.banks (t : Team) : List Nat := t.scratch ++ t.fifo ++ t.cache

def Team.cluster (t : Team) : Nat := clusterOf (t.cores.headD 0)

/-- Banks of a cluster that no team holds, in ascending order. -/
def openBanks (cl : Cluster) : List Nat :=
  (List.range 64).filter (fun b => (mgetD cl.banks b Bank.empty).owner.isNone)

/-- Banks go back to the free set; where one held cache lines, the cluster's lines go home first (R311, R313). -/
def dropBanks (s : State) (cluster : Nat) (bs : List Nat) : State :=
  let cl := s.cluster cluster
  rehash (s.setCluster cluster { cl with banks := cl.banks.filter (fun e => !bs.contains e.1) }) cluster

/-- Gives one bank to a team, in a role. A bank that joins the cache role makes the cluster choose its lines' banks anew
(R313). -/
def giveBank (s : State) (cluster team : Nat) (bank role : Nat) (fifo : List Word) : State :=
  let cl := s.cluster cluster
  rehash (s.setCluster cluster { cl with
    banks := mput cl.banks bank ⟨role, some team, fifo⟩,
    pool := cl.pool.filter (fun e => e.1 / 65536 != bank) }) cluster

def giveBanks (s : State) (cluster team role : Nat) (bs : List Nat) : State :=
  bs.foldl (fun s b => giveBank s cluster team b role []) s

/-- Accumulator tiles of a core that resident teams hold. -/
def tilesUsed (s : State) (core : Nat) : List Nat :=
  s.teams.flatMap (fun e => if e.2.saved then [] else
    (List.range e.2.cores.length).flatMap (fun k => if e.2.cores[k]? = some core then e.2.accTiles.getD k [] else []))

/-- Every element of some tiles of a core holds +0.0 (R330). -/
def clearTiles (s : State) (core : Nat) (tiles : List Nat) : State :=
  let c := s.core core
  s.setCore core { c with acc := c.acc.filter (fun e => !tiles.contains (e.1 / 16384)) }

/-! ### Where a team can stand (R372, R375) -/

/-- What the dealer claims for a team: its cores, banks and tiles. -/
structure Spot where
  cores   : List Nat
  cache   : List Nat
  scratch : List Nat
  fifo    : List Nat
  tiles   : List (List Nat)
  deriving DecidableEq, Repr

/-- Contexts and register footprints for some groups (width, budget) on a core (R23). -/
def roomFor (s : State) (core : Nat) (ms : List (Nat × Nat)) : Bool :=
  let here := s.residents core
  decide (here.length + ms.length ≤ 48) &&
  decide (here.foldl (fun n g => n + footprint g.width g.budget) 0 + ms.foldl (fun n m => n + footprint m.1 m.2) 0
    ≤ 512 * 1024)

/-- What a team takes of a core or pair: whether of a pair, the numbers of its banks and tiles, each group's core of the pair, width and
budget. -/
structure TeamShape where
  paired  : Bool
  cache   : Nat
  scratch : Nat
  fifo    : Nat
  share   : Nat
  members : List (Nat × Nat × Nat)
  deriving DecidableEq, Repr

/-- A place for a team on a core or pair; `area` is what it reserves in the context region of its mailbox. -/
def findSpot (s : State) (mbox : Nat) (r : TeamShape) (area core : Nat) : Option Spot :=
  let n := if r.paired then 2 else 1
  let cores := (List.range n).map (core + ·)
  let cl := s.cluster (clusterOf core)
  let free := openBanks cl
  let tiles := cores.map (fun c => ((List.range 16).filter (fun t => !(tilesUsed s c).contains t)).take r.share)
  if decide (core < 768) && (!r.paired || core % 2 == 0) &&
     cores.all (fun c => (s.mailbox mbox).parts.getLsbD (partitionOf c)) &&
     (List.range n).all (fun k => roomFor s (core + k) ((r.members.filter (fun m => m.1 == k)).map Prod.snd)) &&
     decide (r.cache + r.scratch + r.fifo ≤ free.length) && tiles.all (fun t => t.length == r.share) &&
     decide (area ≤ s.ctxFree mbox)
  then some ⟨cores, free.take r.cache, (free.drop r.cache).take r.scratch,
    (free.drop (r.cache + r.scratch)).take r.fifo, tiles⟩
  else none

/-! ### What a dealer has to place (R364, R371, R377, R380) -/

/-- A saved team to resume, or the next team of a record. -/
inductive Work where
  | resume (team : Nat)
  | fresh (owner : Option (Nat × Nat × DWord))
  deriving DecidableEq, Repr

/-- Every group of a team has arrived at the task's pending ORDB or ORDE (R277). -/
def teamAtOrd (s : State) (team : Nat) (t : Task) : Bool :=
  let n := if t.inPhase then t.endNo + 1 else t.phaseNo + 1
  let gs := s.groups.filter (fun e => e.2.team == team && (e.2.kind == .started || e.2.kind == .spawned))
  !gs.isEmpty && gs.all (fun e => (ordPend (!t.inPhase) n e.2).isSome)

/-- Saved teams of a task that the dealer resumes. Those that wait at an ordered-phase barrier stay until the teams they wait
for stand (R277, DEDUCED, log entry 26). -/
def savedTeams (s : State) (tid : Nat) (t : Task) : List (Nat × Team) :=
  let saved := s.teams.filter (fun e => e.2.task == tid && e.2.saved)
  let going := saved.filter (fun e => !teamAtOrd s e.1 t)
  if going.isEmpty && t.plan.isEmpty then saved else going

/-- The next piece of work of a task: its saved team that started first, then its next team. -/
def firstTeam : List (Nat × Team) → Option (Nat × Team)
  | [] => none
  | e :: t => match firstTeam t with
    | none => some e
    | some x => if e.2.startNo ≤ x.2.startNo then some e else some x

def workOf (s : State) (tid : Nat) (t : Task) : Option Work :=
  if t.stage = .waiting then none
  else match firstTeam (savedTeams s tid t) with
    | some e => some (.resume e.1)
    | none => if t.killed then none else match t.plan with
      | o :: _ => some (.fresh o)
      | [] => none

/-- The place of a task in its dealer's order: PRIO, saved teams first, then the order of readiness (R364, R380). -/
def workRank (s : State) (tid : Nat) (t : Task) : Nat × Nat × Nat :=
  (t.record.prio, match workOf s tid t with | some (.resume _) => 0 | _ => 1, t.readyAt)

def rankBefore (x y : Nat × Nat × Nat) : Bool :=
  decide (x.1 < y.1) || (x.1 == y.1 && (decide (x.2.1 < y.2.1) || (x.2.1 == y.2.1 && decide (x.2.2 < y.2.2))))

/-- The shape of a team of a record. -/
def freshShape (r : Record) : TeamShape :=
  ⟨r.paired, r.cacheN, r.scratchN, r.fifoN, r.share, r.members.map (fun m => (r.seatOf m.2, m.1.width, m.1.regs))⟩

/-- The shape of a saved team: what it had when it was saved. -/
def savedShape (s : State) (team : Nat) (tm : Team) : TeamShape :=
  ⟨tm.cores.length == 2, tm.cache.length, tm.scratch.length, tm.fifo.length, tm.accUnits,
   (s.groups.filter (fun e => e.2.team == team && (e.2.kind == .started || e.2.kind == .spawned))).map
    (fun e => (tm.cores.idxOf e.2.core, e.2.width, e.2.budget))⟩

/-- Bytes of the areas of a new team (R375). -/
def freshArea (r : Record) : Nat :=
  teamArea (r.scratchN + r.fifoN) r.share (if r.paired then 2 else 1) +
    r.members.foldl (fun n m => n + groupArea m.1.width m.1.regs) 0

/-- The spot of a piece of work at a core. A team placed by reach stands on its owner's pair (R371). -/
def spotFor (s : State) (t : Task) (w : Work) (core : Nat) : Option Spot :=
  match w with
  | .resume team => match s.team? team with
    | some tm => findSpot s t.mailbox (savedShape s team tm) 0 core
    | none => none
  | .fresh none => findSpot s t.mailbox (freshShape t.record) (freshArea t.record) core
  | .fresh (some (_, lead, _)) =>
    if core / 2 = lead / 2 then findSpot s t.mailbox (freshShape t.record) (freshArea t.record) core else none

/-- Some core takes a piece of work now. -/
def placeable (s : State) (t : Task) (w : Work) : Bool :=
  (List.range 768).any (fun c => (s.mailbox t.mailbox).parts.getLsbD (partitionOf c) && (spotFor s t w c).isSome)

/-- Work of the same dealer that goes before a task's and can be placed (R364). -/
def passedOver (s : State) (tid : Nat) (t : Task) : Bool :=
  s.tasks.any (fun e => e.1 != tid && e.2.dealer == t.dealer &&
    (match workOf s e.1 e.2 with
     | some w => rankBefore (workRank s e.1 e.2) (workRank s tid t) && placeable s e.2 w
     | none => false))

/-! ### Starting a team (R43, R372, R373) -/

def State.newTeam (s : State) : Nat := (mkeys s.teams).foldl max 0 + 1

/-- s0 to s11 of a started group (R43). -/
def startRegs (r : Record) (index number : Nat) (key : DWord) : List (Nat × Word) :=
  (List.range 8).map (fun k => (k, r.args.getD k 0)) ++
  [(8, BitVec.ofNat 32 index), (9, BitVec.ofNat 32 number)] ++ pairWrites 10 key

/-- Makes group `m` of a team resident. -/
def startMember (team tid : Nat) (t : Task) (spot : Spot) (index : Nat) (key : DWord) (s : State) (m : RoleEnt × Nat) :
    State :=
  let r := t.record
  let core := spot.cores.getD (r.seatOf m.2) 0
  let g := Group.start .started m.1.width m.1.regs core (s.seatFor core) ((s.freeCtx core).getD 0) team tid r.asid
    (t.mailbox / 8) r.text (r.text + m.1.entry.zeroExtend 64) r.prio r.level (startRegs r index m.2 key)
    t.mailbox (groupArea m.1.width m.1.regs) (s.newArea t.mailbox (groupArea m.1.width m.1.regs))
  s.setGroup s.newGid g

/-- The banks and tiles of a spot go to a team. -/
def claimSpot (s : State) (team : Nat) (spot : Spot) : State :=
  let c := clusterOf (spot.cores.headD 0)
  let s := giveBanks s c team 0 spot.cache
  let s := giveBanks s c team 1 spot.scratch
  let s := giveBanks s c team 2 spot.fifo
  (List.range spot.cores.length).foldl (fun s k => clearTiles s (spot.cores.getD k 0) (spot.tiles.getD k [])) s

/-- Starts the next team of a task at a spot as a gang; the task's text is fixed when its first group starts (R79). -/
def startTeam (s : State) (tid : Nat) (t : Task) (owner : Option (Nat × Nat × DWord)) (spot : Spot) : State :=
  let team := s.newTeam
  let r := t.record
  let index := match owner with | some o => o.1 | none => t.placed
  let key : DWord := match owner with | some o => o.2.2 | none => 0
  let tm : Team :=
    { task := tid, index := index, key := key, cores := spot.cores, scratch := spot.scratch, fifo := spot.fifo,
      cache := spot.cache, accUnits := r.share, accTiles := spot.tiles, groups := [], bars := 0, staged := [],
      startNo := s.seq, ctxBytes := teamArea (r.scratchN + r.fifoN) r.share spot.cores.length, saving := false,
      saved := false, area := s.newArea t.mailbox (teamArea (r.scratchN + r.fifoN) r.share spot.cores.length), saveRoles := [] }
  let s := (claimSpot s team spot).tick1
  let s := spot.cores.foldl l1Drop s
  let s := s.setTask tid { t with stage := .started, placed := t.placed + 1, plan := t.plan.drop 1,
                                  text := if t.stage = .started ∨ t.text ≠ [] then t.text else s.mem }
  let s := s.setTeam team tm
  let s := r.members.foldl (startMember team tid t spot index key) s
  s.setTeam team { tm with groups := (s.groups.filter (fun e => e.2.team == team && e.2.kind == .started)).map Prod.fst }

/-! ### Saving a team (R377, R378) -/

/-- A waiting operation is withdrawn: its flag falls (R378). -/
def Group.withdraw (g : Group) (p : Pend) : Group :=
  if p.waiting && !p.done then (g.setPend { p with flag := none }).flagDown p.flag else g

def Group.withdrawAll (g : Group) : Group := g.pends.foldl Group.withdraw g

/-- A withdrawn operation is reissued: its flag counts again, and it is yet to arrive at its queue (R233). TIMEWAIT has no flag (R299). -/
def Group.reissue (g : Group) (p : Pend) : Group :=
  let flag := match p.body with
    | .timewait _ => none
    | _ => if p.clause.fa < 12 then some p.clause.fa else none
  if p.waiting && !p.done then (g.setPend { p with flag := flag, arrived := 0 }).flagUp flag else g

/-- The dealer decides to save a team: its groups' waiting operations are withdrawn, and a swap is requested of each. -/
def saveTeam (s : State) (team : Nat) : State :=
  match s.team? team with
  | none => s
  | some tm =>
    let f := fun (_ : Nat) (g : Group) =>
      if g.team == team && (g.kind == .started || g.kind == .spawned) then (g.request .swap).withdrawAll else g
    { (s.setTeam team { tm with saving := true }) with groups := mmap f s.groups }

/-- The machine as it will stand when some teams are saved: what the dealer reckons with. -/
def withoutTeams (s : State) (ts : List Nat) : State :=
  ts.foldl (fun s k => match s.team? k with
    | some tm => if tm.saved then s else (dropBanks s tm.cluster tm.banks).setTeam k { tm with saved := true }
    | none => s) s

/-- A team that holds the matrix pair of a pair operation in progress (R377). -/
def holdsPair (s : State) (team : Nat) : Bool := s.cmds.any (fun c => c.team == team && c.begun && c.pairOp)

/-- Inserts a team: lowest priority first, then the most recently started. -/
def insertVictim (x : Nat × Nat × Nat) : List (Nat × Nat × Nat) → List (Nat × Nat × Nat)
  | [] => [x]
  | y :: t => if y.2.1 < x.2.1 ∨ (y.2.1 = x.2.1 ∧ y.2.2 < x.2.2) then x :: y :: t else y :: insertVictim x t

/-- The teams that a placement may save, in the order in which it takes them: team, PRIO, start number. -/
def victimsOf (s : State) (t : Task) (f : Nat → Team → Task → Bool) : List (Nat × Nat × Nat) :=
  s.teams.foldl (fun vs e => match s.task? e.2.task with
    | some u =>
      if !e.2.saved && !e.2.saving && !holdsPair s e.1 &&
         e.2.cores.any (fun c => (s.mailbox t.mailbox).parts.getLsbD (partitionOf c)) && f e.1 e.2 u
      then insertVictim (e.1, u.record.prio, e.2.startNo) vs else vs
    | none => vs) []

/-- As many of the victims, in their order, as the placement needs. -/
def takeVictims (s : State) (t : Task) (w : Work) : List (Nat × Nat × Nat) → List Nat → Option (List Nat)
  | [], _ => none
  | v :: vs, got =>
    let got := got ++ [v.1]
    if placeable (withoutTeams s got) t w then some got else takeVictims s t w vs got

/-- PREEMPT_DECISION (R377, R277): none while a save under way makes the room, or where no save would. -/
def tryPreempt (s : State) (tid : Nat) (t : Task) (w : Work) : Option State :=
  let under := (s.teams.filter (fun e => e.2.saving)).map Prod.fst
  let s0 := withoutTeams s under
  if placeable s0 t w then none
  else
    let lower := victimsOf s t (fun _ _ u => decide (t.record.prio < u.record.prio))
    let same := match w with
      | .fresh _ => victimsOf s t (fun k tm _ => tm.task == tid && teamAtOrd s k t)
      | .resume team => if teamAtOrd s team t then [] else victimsOf s t (fun k tm _ => tm.task == tid && teamAtOrd s k t)
    (takeVictims s0 t w (lower ++ same) []).map (fun vs => vs.foldl saveTeam s)

/-! ### Saving and restoring (R375, R376, R378, R380) -/

/-- The 64 KiB of a bank as its team area holds them: a scratch bank's bytes, a FIFO's elements; a bank in another role than its
team's record asked for holds nothing. -/
def bankBytes (cl : Cluster) (tm : Team) (b : Nat) : List Byte :=
  let k := mgetD cl.banks b Bank.empty
  if tm.scratch.contains b && k.role == 1 then bslice cl.pool (65536 * b) 65536
  else if tm.fifo.contains b && k.role == 2 then fifoBytes k.fifo
  else List.replicate 65536 0

/-- The accumulator share of a team on its cores, leader first. -/
def shareBytes (s : State) (tm : Team) : List Byte :=
  (List.range tm.cores.length).flatMap (fun k =>
    (tm.accTiles.getD k []).flatMap (fun t => bslice (s.core (tm.cores.getD k 0)).acc (16384 * t) 16384))

/-- Writes a team area (R376): header, scratch banks, FIFO banks, accumulator share. -/
def writeTeamArea (s : State) (tm : Team) : State :=
  let cl := s.cluster tm.cluster
  s.putArea tm.area 0 (headerBytes tm (tm.fifo.map (fun b => (mgetD cl.banks b Bank.empty).fifo)) ++
    (tm.scratch ++ tm.fifo).flatMap (bankBytes cl tm) ++ shareBytes s tm)

/-- Issued instructions that wait (R378), and those that a waiting one keeps from being performed (R221, R227, R228, R242): none
of these is on its way (DEDUCED, log entry 26). -/
def heldBehind (s : State) (g : Group) : List Nat :=
  g.pends.foldl (fun ks p =>
    if !p.done && p.body != .write && p.body != .replay && p.accs.all (fun a => a.st == 0) &&
       (p.waiting || g.pends.any (fun q => ks.contains q.id && blocks s g q p)) then ks ++ [p.id] else ks) []

/-- Accepted commands that such an instruction keeps from starting (R244, R227). -/
def cmdsBehind (s : State) (gid : Nat) : List Cmd :=
  let g := s.group gid
  let ks := heldBehind s g
  s.cmds.filter (fun c => c.gid == gid && !c.queued && !c.begun &&
    g.pends.any (fun q => ks.contains q.id && blocks s g q c.asPend))

/-- What a group holds while nothing of it is in progress: no clause, or a RAWAIT.TRAP that waits in one (the save may take effect
inside that clause: DEDUCED, log entry 47), no instruction but those that wait or stand behind one that does. -/
def atRest (s : State) (g : Group) : Bool :=
  let ks := heldBehind s g
  (g.clause.isNone || g.offSeat) && g.pends.all (fun p => p.settled || ks.contains p.id)

/-- The number of transfers outstanding: commands of a batch not closed yet leave R37's count only with their batch, but
once complete nothing of them is outstanding (DEDUCED, log entry 26). -/
def Group.transfers (g : Group) : Nat :=
  g.xfer - (List.range 5).foldl (fun n c =>
    let b := g.batch c
    n + (mgetD b.total b.openN.toNat 0 - mgetD b.left b.openN.toNat 0)) 0

/-- The transfers on their way: not those that cannot begin while the group waits (R327, DEDUCED, log entry 26). -/
def inFlight (s : State) (gid : Nat) : Nat :=
  let g := s.group gid
  let ks := heldBehind s g
  g.transfers - (g.pends.filter (fun p => ks.contains p.id)).foldl (fun n p => n + p.left) 0 - (cmdsBehind s gid).length

/-- Commands of a group that no engine has accepted yet. -/
def cmdsQueued (s : State) (gid : Nat) : Bool := s.cmds.any (fun c => c.gid == gid && c.queued)

/-- The fence that a save acts as (R347): it binds everything the group has issued. -/
def Group.saveFence (g : Group) : Pend :=
  { g.mkPend Shape.empty none (.fence .full .package) with formed := g.nextId, id := g.nextId }

/-- The next request takes the place of one that has taken effect (R326). -/
def Group.nextHeld (g : Group) : Group := { g with held := g.waitHeld.head?, waitHeld := g.waitHeld.tail }

/-- A team gives back pool banks and, on each of its cores, its last accumulator tiles (R326). -/
def shrinkTeam (s : State) (team : Nat) (banks : List Nat) (units : Nat) : State :=
  match s.team? team with
  | none => s
  | some tm =>
    let gone := tm.banks.filter banks.contains
    let left := fun (bs : List Nat) => bs.filter (fun b => !gone.contains b)
    (dropBanks s tm.cluster gone).setTeam team { tm with
      scratch := left tm.scratch, fifo := left tm.fifo, cache := left tm.cache, accUnits := tm.accUnits - units,
      accTiles := tm.accTiles.map (fun ts => ts.take (tm.accUnits - units)) }

/-- TEAM_SAVE_DONE (R378 steps 4 and 5): the save areas are written, then the team area; contexts, registers, banks and accumulator
share are free. -/
def trySaveDone (s : State) (team : Nat) : Option State :=
  match s.team? team with
  | none => none
  | some tm =>
    let gs := s.groups.filter (fun e => e.2.team == team && (e.2.kind == .started || e.2.kind == .spawned))
    if !tm.saving || gs.isEmpty || gs.any (fun e => e.2.held.isSome || !atRest s e.2) then none
    else
      let cl := s.cluster tm.cluster
      let bank := fun (b : Nat) => mgetD cl.banks b Bank.empty
      let tm' := { tm with saving := false, saved := true, saveRoles := tm.banks.map (fun b => (bank b).role) }
      let s := gs.foldl (fun s e => s.putArea e.2.area 0 (saveBytes e.2)) s
      let s := writeTeamArea s tm
      some (refreshOpp ((dropBanks s tm.cluster tm.banks).setTeam team tm'))

def execTeamSaveDone (team : Nat) (s : State) : Host.Outcome State Fault Refusal :=
  .next ((trySaveDone s team).getD s)

/-- The pool address of an object in a team's scratch area at its new banks. -/
def movePool (old new : List Nat) (a : Nat) : Nat := 65536 * new.getD (old.idxOf (a / 65536)) 0 + a % 65536

/-- A waiting operation of a group whose team has new banks. -/
def Pend.movePool (old new : List Nat) (p : Pend) : Pend :=
  let p := if p.pool then { p with accs := p.accs.map (fun a => { a with pa := Machine.movePool old new a.pa }) } else p
  match p.body with
  | .bowait a e => { p with body := .bowait (Machine.movePool old new a) e }
  | .bopoll a e => { p with body := .bopoll (Machine.movePool old new a) e }
  | .boset a q => { p with body := .boset (Machine.movePool old new a) q }
  | .boadd a q => { p with body := .boadd (Machine.movePool old new a) q }
  | _ => p

/-- A saved group stands again on a core of its team: its save area is read back, its withdrawn operations are reissued, the second fence acquires
(R347). -/
def resumeMember (tm : Team) (spot : Spot) (s : State) (m : Nat × Nat) : State :=
  let old := s.group m.1
  let g := restoreGroup old (areaGet old.area s.mem 0 (1024 + old.width * (4 * old.budget + 32)))
  let core := spot.cores.getD m.2 0
  let g := { g with core := core, seat := s.seatFor core, ctx := (s.freeCtx core).getD 0,
                    pends := g.pends.map (Pend.movePool tm.scratch spot.scratch) }
  let s := { s with cmds := s.cmds.map (fun c => if c.gid == m.1 then { c with core := core } else c) }
  (l1Drop s core).setGroup m.1 (g.pends.foldl Group.reissue g)

/-- Gives a restored bank its role and contents, read from the team area. -/
def restoreBank (cluster team : Nat) (tm : Team) (bs : List Nat) (s : State) (k : Nat) : State :=
  let b := bs.getD k 0
  let role := tm.saveRoles.getD k 0
  let bytes := areaGet tm.area s.mem (256 + 65536 * k) 65536
  let j := k - tm.scratch.length
  let hd := fifoMark (areaGet tm.area s.mem 0 256) j
  let isFifo := tm.scratch.length ≤ k ∧ j < tm.fifo.length ∧ role = 2
  let s := giveBank s cluster team b role (if isFifo then fifoOf hd.1 hd.2 bytes else [])
  if k < tm.scratch.length ∧ role = 1 then
    let cl := s.cluster cluster
    s.setCluster cluster { cl with pool := bsplice cl.pool (65536 * b) bytes }
  else s

/-- Restores the accumulator share of one core. -/
def restoreAcc (tm : Team) (spot : Spot) (s : State) (k : Nat) : State :=
  let core := spot.cores.getD k 0
  let ts := spot.tiles.getD k []
  let c := s.core core
  let base := 256 + 65536 * (tm.scratch.length + tm.fifo.length) + 16384 * tm.accUnits * k
  s.setCore core { c with acc := (List.range ts.length).foldl (fun m j =>
    bsplice m (16384 * ts.getD j 0) (areaGet tm.area s.mem (base + 16384 * j) 16384)) c.acc }

/-- A saved team stands again at a spot. Its groups are first taken off their old cores (768 is none). -/
def resumeTeam (s : State) (team : Nat) (tm : Team) (spot : Spot) : State :=
  let c := clusterOf (spot.cores.headD 0)
  let bs := spot.scratch ++ spot.fifo ++ spot.cache
  let gs := s.groups.filter (fun e => e.2.team == team && (e.2.kind == .started || e.2.kind == .spawned))
  let s := (List.range bs.length).foldl (restoreBank c team tm bs) s
  let s := (List.range spot.cores.length).foldl (restoreAcc tm spot) s
  let s := s.setTeam team { tm with
    cores := spot.cores, scratch := spot.scratch, fifo := spot.fifo, cache := spot.cache, accTiles := spot.tiles,
    bars := fieldAt (areaGet tm.area s.mem 0 4) 0 4,
    saved := false, saveRoles := [] }
  let s := gs.foldl (fun s e => s.setGroup e.1 { s.group e.1 with core := 768 }) s
  (gs.map (fun e => (e.1, tm.cores.idxOf e.2.core))).foldl (resumeMember tm spot) s

/-! ### TEAM_PLACE (R364, R370 to R373, R377, R380) -/

/-- R370: the quarter's point is higher-numbered than the task's OPP, as far as MINPT allows it: the point changes first. -/
def oppWaits (s : State) (t : Task) (q : Nat) : Bool :=
  decide (max t.record.opp (minPoint s.dev q) < oppOf s.dev q)

def tryPlace (s : State) (tid core : Nat) : Option State :=
  match s.task? tid with
  | none => none
  | some t => match workOf s tid t with
    | none => none
    | some w =>
      if passedOver s tid t then none
      else match spotFor s t w core with
        | some spot =>
          if oppWaits s t (quarterOf core) then
            let s' := moveOpp s (quarterOf core) [t.record.opp]
            if s' = s then none else some s'
          else match w with
            | .fresh o => some (refreshOpp (startTeam s tid t o spot))
            | .resume team => (s.team? team).map (fun tm => refreshOpp (resumeTeam s team tm spot))
        | none => if placeable s t w then none else tryPreempt s tid t w

def execTeamPlace (task core : Nat) (s : State) : Host.Outcome State Fault Refusal :=
  .next ((tryPlace s task core).getD s)

/-- The OPPs of tasks whose next team could stand in a quarter. -/
def waitingOpps (s : State) (q : Nat) : List Nat :=
  s.tasks.filterMap (fun e => match workOf s e.1 e.2 with
    | some w => if (List.range 192).any (fun k => (spotFor s e.2 w (192 * q + k)).isSome) then some e.2.record.opp else none
    | none => none)

/-- OPP_STABLE (R370): the change of a quarter's point is done; a further one starts where placements, retirements or MINPT have
moved the point that the quarter is to run at since (R437). -/
def tryOpp (s : State) (q : Nat) : Option State :=
  (mget s.dev.oppNext q).map (fun p =>
    let s := { s with dev := { s.dev with opp := mput s.dev.opp q p, oppNext := mdel s.dev.oppNext q } }
    moveOpp s q (waitingOpps s q))

def execOppStable (quarter : Nat) (s : State) : Host.Outcome State Fault Refusal :=
  .next ((tryOpp s quarter).getD s)

/-! ### The end of a group (R141, R284, R369, R421) -/

/-- The group leaves; the last one of its team frees the team's banks, accumulator share and areas. -/
def dropGroup (s : State) (gid : Nat) : State :=
  let g := s.group gid
  let s := letHandlesGo { s with groups := mdel s.groups gid } g.pends
  if g.kind = .started ∨ g.kind = .spawned then
    if s.groups.any (fun e => e.2.team == g.team && (e.2.kind == .started || e.2.kind == .spawned)) then s
    else match s.team? g.team with
      | some tm =>
        let s := if tm.saved then s else dropBanks s tm.cluster tm.banks
        { s with teams := mdel s.teams g.team }
      | none => s
  else s

/-- The invocation that a service group runs. -/
def runningInv (s : State) (gid : Nat) : Option InvRec := s.invs.find? (fun r => r.place == .running gid)

/-- Its record leaves the target. -/
def dropRunning (s : State) (gid : Nat) : State :=
  { s with invs := s.invs.filter (fun r => r.place != .running gid) }

/-- SERVICE_RESULT, HANDLE_DELEGATE (R284, R421): s24 to s31 become the result, or the handle in s14:s15 that the group has
issued itself takes its place. -/
def serviceResult (s : State) (gid : Nat) : State :=
  match runningInv s gid with
  | none => s
  | some r =>
    let g := s.group gid
    let h := pair (g.uni 14) (g.uni 15)
    let s := dropRunning s gid
    let q := quarterOf g.core
    if h ≠ 0 ∧ h ∈ g.issued then tellHandle s q r.inv.handle r.inv.task [] 0 h 0
    else tellHandle s q r.inv.handle r.inv.task ((List.range 8).map (fun k => g.uni (24 + k))) 0 0 0

/-- A killed service group's handle breaks with FAULT or KILLED (R284, R303, R369). -/
def serviceBreak (s : State) (gid : Nat) (fault : Bool) : State :=
  match runningInv s gid with
  | none => s
  | some r => breakInv (dropRunning s gid) (quarterOf (s.group gid).core) r.inv (breakWord (if fault then 1 else 2) 0)

/-- After a group has gone: its task may be complete, and its quarter's point may move. -/
def afterGroup (s : State) (g : Group) : State :=
  refreshOpp (completeIfDone s g.task)

/-- An issued instruction that still has an effect to come: a group does not retire before it (R141). A barrier arrival
but KCOMMIT's, and an operation that only waits, have none. -/
def Pend.effect (p : Pend) : Bool :=
  !p.settled && match p.body with
    | .fence _ _ | .order _ _ | .bowait _ _ | .bopoll _ _ | .bar _ | .ordb _ | .orde _ | .bwait _ _ | .timewait _ | .rawait _ _
    | .rpoll _ | .klocate => false
    | _ => true

/-- GROUP_RETIRE: the live mask is empty, the transfer count of R37 zero, and what the group has issued is done. -/
def tryRetire (s : State) (gid : Nat) : Option State :=
  let g := s.group gid
  if g.kind = .vacant ∨ g.live ≠ 0 ∨ g.clause.isSome ∨ g.xfer ≠ 0 ∨ g.pends.any Pend.effect ∨ cmdsQueued s gid then none
  else match g.kind with
    | .walker => some (failWalk s (clusterOf g.core))
    | _ => some (afterGroup (dropGroup (serviceResult s gid) gid) g)

def execGroupRetire (gid : Nat) (s : State) : Host.Outcome State Fault Refusal :=
  .next ((tryRetire s gid).getD s)

/-- GROUP_KILL (R369): event 7; the group is gone, its task may be complete. A killed walker ends its walk without a
fill. -/
def killGroup (s : State) (gid : Nat) (fault : Bool) : State :=
  let g := s.group gid
  match g.kind with
  | .walker => failWalk s (clusterOf g.core)
  | _ =>
    let s := (serviceBreak s gid fault).post (g.vf + 1) 7 (g.vf + 1) 0 0
    let s := { s with cmds := s.cmds.filter (fun c => c.gid != gid) }
    let s := match s.task? g.task with
      | some t => if g.kind = .started ∨ g.kind = .spawned then s.setTask g.task { t with anyKill := true } else s
      | none => s
    afterGroup (dropGroup s gid) g

/-- HELD_REQUEST_EFFECT (R326): a kill, a swap or a shrink at the moment the transfer count is zero. -/
def tryHeld (s : State) (gid : Nat) : Option State :=
  let g := s.group gid
  match g.held with
  | none => none
  | some h =>
    if g.kind = .vacant ∨ inFlight s gid ≠ 0 ∨ cmdsQueued s gid then none
    else match h with
      | .kill fault => some (killGroup s gid fault)
      | .shrink banks units => some ((shrinkTeam s g.team banks units).setGroup gid g.nextHeld)
      | .swap =>
        if !atRest s g || (!g.tpend.isEmpty && !g.inHandler) then none
        else if g.saveMark = 0 then some (sgbSend (s.setGroup gid { g with saveMark := s.seq }) g.core (fun _ => true))
        else if !(bufferClear s g.core g.saveMark && allClear s g.saveMark .package) then none
        else
          let off : List Nat := (cmdsBehind s gid).map (fun c => c.id)
          let s := { s with cmds := s.cmds.map (fun (c : Cmd) => if off.contains c.id then { c with core := 768 } else c) }
          some (s.setGroup gid { ((reportRefused g.withdrawAll g.saveFence .package).nextHeld) with saveMark := 0 })

def execHeldRequestEffect (gid : Nat) (s : State) : Host.Outcome State Fault Refusal :=
  .next ((tryHeld s gid).getD s)

end Sys2Proof.Machine
end

