-- ==== Sys2Proof/Machine/FabricEvents.lean ====
section
/-! DEFINITION. The steps of the fabric (22, R407 to R417): FLIT_RECEIVE, FLIT_RESEND_TIMEOUT, PORT_DOWN,
PORT_RETRAIN_COMPLETE, MESSAGE_RECEIVE, MESSAGE_RETRY_RESEND, RESPONSE_RECEIVE, FABRIC_TIMEOUT. -/

namespace Sys2Proof.Machine

/-! ### Ports (R407 to R409) -/

/-- One more on a lifetime counter of R434 (DESIGN CHOICE, log entry 16 numbers them): saturating at 64 bits. -/
def bumpLife (d : Device) (k : Nat) : Device := { d with lifetime := mput d.lifetime k (min (2 ^ 64 - 1) (mgetD d.lifetime k 0 + 1)) }

/-- The number of fabric retries and of ports declared down among the lifetime counters. -/
def lifeRetries : Nat := 14
def lifeDowns : Nat := 15

/-- An acknowledgement of a SEQ: the kept flits up to it go, and flits that waited for room go out (R408). -/
def Port.acked (x : Port) (now : DWord) (seq : Nat) : Port :=
  match (List.range x.kept.length).find? (fun k => flitSeq (x.kept.getD k []) == seq) with
  | some k =>
    Port.fill x.queue.length now
      { x with kept := x.kept.drop (k + 1), refs := x.refs.drop (k + 1), resends := 0, since := now }
  | none => x

/-- Sends the kept flits again, in their first order (R408). -/
def Port.resend (x : Port) (now : DWord) : Port :=
  { x with outbox := x.outbox ++ x.kept, resends := x.resends + 1, retries := x.retries + 1, since := now }

/-- ACK and NAK of a flit with a good CHECK: a NAK sends what is still kept again, then what waited. -/
def Port.answered (x : Port) (now : DWord) (f : List Byte) : Port :=
  let wait := x.queue
  let x := { x with queue := [] }
  let x := if flitAck f / 2 ^ 15 = 1 then x.acked now (flitAck f % 4096) else x
  let x := if 128 ≤ flitChan f ∧ x.kept ≠ [] then x.resend now else x
  Port.fill wait.length now { x with queue := wait }

/-- A discarded flit: NAK on the first discard after a good flit. -/
def Port.discard (x : Port) : Port := if x.nakSent then x else { x.idle true with nakSent := true }

/-- FLIT_RECEIVE (R407, R408).
Every accepted flit is acknowledged at once, in an idle flit; R408 does not say when an acknowledgement goes out (log entry 20, DESIGN CHOICE). -/
def receiveFlit (x : Port) (now : DWord) (f : List Byte) : Port :=
  if !x.up then x
  else if !flitGood f then x.discard
  else
    let x := x.answered now f
    if flitKind f = 0 then x
    else if flitSeq f = (x.lastSeq + 1) % 4096 then
      Port.idle { x with lastSeq := flitSeq f, nakSent := false, inbox := x.inbox ++ [f] } false
    else x.discard

/-- Some port still has flits of a stream's message to send or to have acknowledged. -/
def State.onPorts (s : State) (k : Nat) (n : Word) : Bool :=
  s.ports.any (fun e => e.2.refs.contains (k, n) || e.2.queue.any (fun w => w.stream == k && w.msgno == n))

/-- Results and responses whose flits the peer has acknowledged leave their streams (R409). -/
def sweepNotices (s : State) : State :=
  { s with streams := mmap (fun k (st : Stream) =>
      if answered st.cls || st.route.isNone then st
      else { st with kept := st.kept.filter (fun e => s.onPorts k e.1.msgno) }) s.streams }

def execFlitReceive (port : Nat) (flit : List Byte) (s : State) : Host.Outcome State Fault Refusal :=
  if port < 16 then
    let x := receiveFlit (s.port port) s.clock flit
    let s := if x.retries = (s.port port).retries then s else { s with dev := bumpLife s.dev lifeRetries }
    .next (sweepNotices (s.setPort port x))
  else .next s

/-- When a port sends its kept flits again: 2 µs after the first of them, the last acknowledgement or the last resending (R408). -/
def Port.due (x : Port) : DWord := addNs x.since 2000

/-- FLIT_RESEND_TIMEOUT (R408): no acknowledgement for 2 µs. -/
def tryFlitTimeout (s : State) (port : Nat) : Option State :=
  let x := s.port port
  if x.up && !x.kept.isEmpty && decide (x.resends < 16) && decide (x.due.toNat ≤ s.clock.toNat) then
    some ({ s with dev := bumpLife s.dev lifeRetries }.setPort port (x.resend s.clock))
  else none

def execFlitResendTimeout (port : Nat) (s : State) : Host.Outcome State Fault Refusal :=
  .next ((tryFlitTimeout s port).getD s)

/-- The streams that use a port. -/
def streamsOn (s : State) (port : Nat) : List Nat := (s.streams.filter (fun e => e.2.route == some port)).map Prod.fst

/-- PORT_DOWN (R409, R413): one flit has been sent again 16 times without acknowledgement; every message of its streams that has no
final response, or whose flits are not all acknowledged, goes out again over another port. -/
def tryPortDown (s : State) (port : Nat) : Option State :=
  let x := s.port port
  if !x.up || x.kept.isEmpty || decide (x.resends < 16) then none
  else
    let s := { s with dev := bumpLife s.dev lifeDowns }
    let s := s.setPort port { x with up := false, kept := [], refs := [], queue := [], outbox := [], resends := 0, downs := x.downs + 1 }
    some ((streamsOn s port).foldl resendStream s)

def execPortDown (port : Nat) (s : State) : Host.Outcome State Fault Refusal :=
  .next ((tryPortDown s port).getD s)

/-- PORT_RETRAIN_COMPLETE (R409): the port is up; both directions number their flits as after bring-up (PRESUMED, log entry 20). Streams
that had no other route go on over it. -/
def execPortRetrainComplete (port : Nat) (s : State) : Host.Outcome State Fault Refusal :=
  let x := s.port port
  if port < 16 ∧ !x.up then
    let s := s.setPort port { Port.empty with retries := x.retries, downs := x.downs, inbox := x.inbox }
    .next (((s.streams.filter (fun e => e.2.route.isNone)).map Prod.fst).foldl resendStream s)
  else .next s

/-! ### Performing a request at its destination (R411, R415, R416) -/

/-- Where an access of another package falls, or the cause of its refusal (R415): the access table for fabric masters judges the physical
address, the same here as at the sender (R319), then the leaf of this package's page is checked; it comes from no cluster here. -/
def destXlat (s : State) (asid level : Nat) (va pa : DWord) (kind : AccKind) : Except Nat (Nat × Option Nat) :=
  if mapped pa.toNat && !paOk s.dev 65 pa.toNat kind.rd kind.wr then .error 3
  else match walkLeaf s asid va with
  | none => .error 1
  | some f => match leafCheck s ⟨asid, level, 96, 0, 65, false, false⟩ kind f va with
    | .hit x none home => if x = pa.toNat then .ok (x, home) else .error 1
    | .fault true => .error 3
    | _ => .error 1

/-- DESTINATION_REFUSAL (R416): an event in the log of the virtual function that owns the page. DETAIL holds the cause in
bits 7:0, the kind of access in bits 15:8 and the source quarter in bits 17:16 (DESIGN CHOICE, log entry 21). -/
def postDest (s : State) (m : Message) (asid : Nat) (va : DWord) (kind : AccKind) (cause : Nat) : State :=
  let vf := match spaceRoot s asid with | some r => r.2 | none => 0
  s.post (vf + 1) 4 (m.srcPkg % 65536) (BitVec.ofNat 32 (cause + 256 * kind.code + 65536 * m.srcQtr)) va

/-- What a request comes to: the answer and the state. -/
def refuseAt (s : State) (m : Message) (asid : Nat) (va : DWord) (kind : AccKind) (cause : Nat) :
    MsgStat × MsgBody × State :=
  (.refused cause, .answer [] 0, postDest s m asid va kind cause)

def destLoad (s : State) (m : Message) (asid : Nat) (va pa : DWord) (size : Nat) (x : Sender) : MsgStat × MsgBody × State :=
  match destXlat s asid x.level va pa .read with
  | .error c => refuseAt s m asid va .read c
  | .ok (pa, home) =>
    if isHbm pa then
      if spanBad s home pa size then refuseAt s m asid va .read 2
      else
        let bs := homeBytes s home pa size
        let n := match phaseLines s x.phase with
          | some ps => if x.first then conflictLines ps x.key (linesOf pa size) else 0
          | none => 0
        (.accepted, .answer bs n, s)
    else
      let (bs, s) := apertureRead s pa size
      (.accepted, .answer bs 0, s)

def destStore (s : State) (m : Message) (asid : Nat) (va pa : DWord) (data : List (Byte × Byte)) (x : Sender) :
    MsgStat × MsgBody × State :=
  match destXlat s asid x.level va pa .write with
  | .error c => refuseAt s m asid va .write c
  | .ok (pa, home) =>
    if isHbm pa then (.accepted, .answer [] 0, spanWrite (openPhase s x.phase) home pa x.phase x.key x.group data)
    else (.accepted, .answer [] 0, apertureWrite s 65 pa (data.map Prod.fst))

/-- The lanes of an atomic on one word, in order (R208): the old values. -/
def destAtoms (s : State) (op : AtomOp) (home : Option Nat) (pa task : Nat) (x : Sender) :
    List (Word × Word) → List Byte × State
  | [] => ([], s)
  | (y, cmp) :: t =>
    let (old, s) := if isHbm pa then atomAt s home pa op y cmp task x.key x.group else apertureAtom s 65 pa op y cmp
    let (bs, s) := destAtoms s op home pa task x t
    (leBytes 4 old.toNat ++ bs, s)

def destAtom (s : State) (m : Message) (op : AtomOp) (asid : Nat) (va pa : DWord) (lanes : List (Word × Word)) (x : Sender) :
    MsgStat × MsgBody × State :=
  match destXlat s asid x.level va pa .atomic with
  | .error c => refuseAt s m asid va .atomic c
  | .ok (pa, home) =>
    if isHbm pa && spanBad s home pa 4 then refuseAt s m asid va .atomic 2
    else
      let (bs, s) := destAtoms (openPhase s x.phase) op home pa x.phase x lanes
      (.accepted, .answer bs 0, s)

/-- Performs an accepted message. -/
def performMsg (s : State) (m : Message) : MsgStat × MsgBody × State :=
  let done := fun (s : State) => (MsgStat.accepted, MsgBody.answer [] 0, s)
  match m.cls, m.body with
  | 0, .load asid va pa size x => destLoad s m asid va pa size x
  | 1, .store asid va pa data x => destStore s m asid va pa data x
  | 1, .atom op asid va pa lanes x => destAtom s m op asid va pa lanes x
  | 2, .invoke i =>
    let i := match i.target with | .pkg _ q => { i with target := .pkg s.dev.pkg q } | _ => i
    done (deliverInv s m.dstQtr i)
  | 3, .result h task words of => done (tellHandle s m.dstQtr h task words 0 0 of)
  | 3, .broken h task cause hops of => done (tellHandle s m.dstQtr h task [] (breakWord cause hops) 0 of)
  | 3, .forward h task next => done (tellHandle s m.dstQtr h task [] 0 next 0)
  | 3, .chain h task depth => done (deepen 65 s m.dstQtr h task depth)
  | 3, .begun h => done (begunFrom s h)
  | 5, .coll comm data => done (collArrive s comm data)
  | 6, _ => done (keyspaceMsg s m)
  | _, _ => done s

/-! ### Receiving (R411, R412) -/

def sameRecv (m : Message) (r : RecvStream) : Bool :=
  r.cls == m.cls && r.srcPkg == m.srcPkg && r.srcQtr == m.srcQtr && r.dstQtr == m.dstQtr

def recvOf (s : State) (m : Message) : RecvStream :=
  (s.recvs.find? (sameRecv m)).getD ⟨m.cls, m.srcPkg, m.srcQtr, m.dstQtr, 0, []⟩

def putRecv (s : State) (m : Message) (r : RecvStream) : State :=
  { s with recvs := r :: s.recvs.filter (fun x => !sameRecv m x) }

/-- Answers a message in class 4. -/
def respond (s : State) (m : Message) (stat : MsgStat) (body : MsgBody) : State :=
  (sendMsg s 4 m.dstQtr m.srcPkg m.srcQtr stat m.tag body none).getD s

/-- MSGNO was accepted before. -/
def isDuplicate (r : RecvStream) (n : Word) : Bool := decide ((r.nextNo - n).toNat < 2 ^ 31) && r.nextNo != n

/-- A quarter goes into reset or leaves the fabric, or comes back (R415). -/
def fabricQuarter (s : State) (q : Nat) (down : Bool) : State :=
  let rest := s.dev.down.filter (fun x => x != q % 4)
  { s with dev := { s.dev with down := if down then q % 4 :: rest else rest } }

/-- MESSAGE_RECEIVE: in order, once; duplicates get the first answer again; a full queue answers RETRY (R411, R412); in reset, and for a quarter in reset or off the fabric, every one
is refused with DOWN (R415). `room`: the class's queue at the destination has room. -/
def receiveMsg (s : State) (m : Message) (room : Bool) : State :=
  if m.dstPkg ≠ s.dev.pkg ∨ m.cls = 4 then s
  else if !s.dev.powered || s.dev.down.contains m.dstQtr then (if answered m.cls then respond s m (.refused 5) (.answer [] 0) else s)
  else
    let r := recvOf s m
    if isDuplicate r m.msgno then
      if answered m.cls then
        match r.answers.find? (fun a => a.1 == m.msgno) with
        | some a => respond s m a.2.stat a.2.body
        | none => s
      else s
    else if m.msgno ≠ r.nextNo then s
    else if !room && answered m.cls then respond s m .retry (.answer [] 0)
    else
      let (stat, body, s) := performMsg s m
      let answer : Message := { m with stat := stat, body := body }
      let s := putRecv s m { r with nextNo := r.nextNo + 1, answers := if answered m.cls then r.answers ++ [(m.msgno, answer)] else [] }
      if answered m.cls then respond s m stat body else s

def execMessageReceive (m : Message) (room : Bool) (s : State) : Host.Outcome State Fault Refusal :=
  .next (receiveMsg s m room)

/-! ### What the initiator makes of an answer (R412, R414 to R416) -/

/-- A request has its final response: what waited for it goes on. -/
abbrev Waits := Option (Nat × Nat × Nat)

/-- The lanes whose remote part a message carried. -/
def carries (m : Message) (a : Acc) : Bool :=
  a.rem == some m.dstPkg && a.st == 1 && match m.body with
    | .load _ _ pa size _ => decide (pa.toNat ≤ a.pa) && decide (a.pa + a.size ≤ pa.toNat + size)
    | .store _ _ pa data _ => pa.toNat == a.pa && data == a.data
    | .atom _ _ _ pa _ _ => pa.toNat == a.pa
    | _ => false

/-- The bytes of performed remote parts: a lane's piece of what a load brought, an atomic's old value for the lane. -/
def fillParts (p : Pend) (m : Message) (data : List Byte) : Pend :=
  let mine := (p.accs.filter (carries m)).map Acc.lane
  let piece := fun (a : Acc) => match m.body with
    | .load _ _ pa _ _ => (data.drop (a.pa - pa.toNat)).take a.size
    | _ => (data.drop (4 * mine.idxOf a.lane)).take 4
  { p with accs := p.accs.map (fun a => if carries m a then
      { a with st := 2, data := (List.range (piece a).length).map (fun k => ((piece a).getD k 0, (a.data.getD k (0, 0xFF)).2)) } else a) }

/-- One lane of a store is answered. -/
def Pend.answeredLane (p : Pend) (lane : Nat) : Pend :=
  { p with accs := p.accs.map (fun a => if a.lane = lane then { a with st := 2 } else a) }

/-- A load or store of an engine is answered (R244, R246). -/
def engineAnswer (s : State) (id : Nat) (m : Message) (data : List Byte) (conf : Nat) : State :=
  match findCmd s id with
  | none => s
  | some c => match m.body with
    | .load _ va _ _ _ => addConflicts (setCmd s { c with fetched := mput c.fetched va.toNat data }) c.task conf
    | _ => setCmd s { c with owed := c.owed - 1 }

/-- A group's access is answered. -/
def accessAnswer (s : State) (id lane : Nat) (m : Message) (data : List Byte) (conf : Nat) : State :=
  match s.G.findPend id with
  | none => s
  | some p => match m.body with
    | .store _ _ _ _ _ => s.setG ((s.G.setPend (p.answeredLane lane)).ack id)
    | .cost _ _ _ => s.setG ((s.G.setPend (p.answeredLane lane)).xferDown 1)
    | _ => addConflicts (s.setG (s.G.setPend (fillParts p m data))) s.G.task conf

/-- An accepted request. -/
def acceptedReq (s : State) (m : Message) (w : Waits) (data : List Byte) (conf : Nat) : State :=
  match w with
  | none => s
  | some (0, id, _) => engineAnswer s id m data conf
  | some (gid, id, lane) =>
    if (s.group gid).kind = .vacant then s
    else withGroup s gid (fun s => if id = 0 then s.setG (s.G.xferDown 1) else accessAnswer s id lane m data conf)

/-- A refused request of a group: cause 33 for a load or an atomic, the remote-store trap of a later FENCE for a store; event
3 (R416). -/
def accessRefused (s : State) (id lane : Nat) (m : Message) (cause : Nat) : State :=
  match s.G.findPend id with
  | none => match m.body with
    | .store _ va _ _ _ | .load _ va _ _ _ | .atom _ _ va _ _ _ => postRefusal s s.G cause va
    | _ => s
  | some p => match m.body with
    | .store _ va _ _ _ =>
      let s := postRefusal s s.G cause va
      s.setG ((s.G.setPend (p.answeredLane lane)).ackRefused id va)
    | .load _ va _ _ _ | .atom _ _ va _ _ _ =>
      let va := match p.accs.find? (fun a => a.lane == lane) with | some a => a.va | none => va
      refuseLoad (postRefusal s s.G cause va) p lane va
    | .cost _ _ _ =>
      let s := postRefusal s s.G cause 0
      s.setG ((s.G.setPend (p.answeredLane lane)).xferDown 1)
    | _ => s

/-- A refused request of an engine is posted, and ends its command, where that has not ended yet (R261, R416). -/
def engineRefused (s : State) (id vf : Nat) (m : Message) (cause : Nat) : State :=
  match m.body with
  | .load _ va _ _ _ | .store _ va _ _ _ =>
    let s := s.post (vf + 1) 3 (vf + 1) (BitVec.ofNat 32 cause) va
    match findCmd s id with
    | none => s
    | some c => stopCmd s c 33 va
  | _ => s

/-- A refused request; a refused invocation or rebalance breaks its handle with REFUSED (R276, R420). -/
def refusedReq (s : State) (m : Message) (w : Waits) (cause : Nat) : State :=
  let s := match m.body with
    | .invoke i => breakInv s m.srcQtr i (breakWord 3 0)
    | .rebalance tid h => tellHandle s m.srcQtr h tid [] (breakWord 3 0) 0 0
    | _ => s
  match w with
  | none => s
  | some (0, id, vf) => engineRefused s id vf m cause
  | some (gid, id, lane) =>
    if (s.group gid).kind = .vacant then s
    else withGroup s gid (fun s => if id = 0 then s.setG (s.G.xferDown 1) else accessRefused s id lane m cause)

/-- The stream that keeps the request of a TAG, and the request. -/
def findReq (s : State) (tag : Nat) : Option (Nat × Stream × Message × Waits) :=
  s.streams.findSome? (fun e => if answered e.2.cls then
    (e.2.kept.find? (fun k => k.1.tag == tag)).map (fun k => (e.1, e.2, k.1, k.2.1)) else none)

/-- The request leaves its stream; after a RETRY, the messages behind it go out now (R412). -/
def dropReq (s : State) (k : Nat) (st : Stream) (tag : Nat) : State :=
  let st' : Stream := { st with kept := st.kept.filter (fun e => e.1.tag != tag), backoff := 0, resendAt := 0 }
  let s' := { s with streams := mput s.streams k st' }
  if st.backoff = 0 then s' else resendStream s' k

/-- RESPONSE_RECEIVE (R411, R412, R416). A response is taken once, in its stream's order. -/
def receiveResp (s : State) (m : Message) : State :=
  let r := recvOf s m
  if m.dstPkg ≠ s.dev.pkg ∨ m.cls ≠ 4 ∨ m.msgno ≠ r.nextNo then s
  else
    let s := putRecv s m { r with nextNo := r.nextNo + 1 }
    match findReq s m.tag with
    | none => s
    | some (k, st, req, w) =>
      let data := match m.body with | .answer d _ => d | _ => []
      let conf := match m.body with | .answer _ n => n | _ => 0
      match m.stat with
      | .retry =>
        let wait := if st.backoff = 0 then 1000 else min 64000 (2 * st.backoff)
        { s with streams := mput s.streams k { st with backoff := wait, resendAt := addNs s.clock wait } }
      | .accepted => acceptedReq (dropReq s k st m.tag) req w data conf
      | .refused c => refusedReq (dropReq s k st m.tag) req w c

def execResponseReceive (m : Message) (s : State) : Host.Outcome State Fault Refusal :=
  .next (receiveResp s m)

/-- MESSAGE_RETRY_RESEND (R412): the back-off is over; the message answered RETRY goes out again, and the stream waits for
its answer. -/
def tryRetry (s : State) (k : Nat) : Option State :=
  match mget s.streams k with
  | none => none
  | some st => match st.kept with
    | [] => none
    | e :: _ =>
      if st.backoff = 0 ∨ s.clock.toNat < st.resendAt.toNat then none
      else
        let st' : Stream := { st with resendAt := BitVec.allOnes 64 }
        (streamPort s st).map (fun p => transmit { s with streams := mput s.streams k { st' with route := some p } } p k e.1)

def execMessageRetryResend (stream : Nat) (s : State) : Host.Outcome State Fault Refusal :=
  .next ((tryRetry s stream).getD s)

/-- FABRIC_TIMEOUT (R414): a message without a final response in time is refused with cause TIMEOUT. -/
def tryFabricTimeout (s : State) (k : Nat) : Option State :=
  (mget s.streams k).bind (fun st =>
    (st.kept.find? (fun e => e.2.2 != BitVec.allOnes 64 && decide (e.2.2.toNat ≤ s.clock.toNat))).map (fun e =>
      refusedReq (dropReq s k st e.1.tag) e.1 e.2.1 6))

def execFabricTimeout (stream : Nat) (s : State) : Host.Outcome State Fault Refusal :=
  .next ((tryFabricTimeout s stream).getD s)

end Sys2Proof.Machine
end

