-- ==== Sys2Proof/Machine/Device.lean ====
section
/-! DEFINITION. The package in its system (23, R423 to R438): bring-up and resets, the host link, ownership, attestation,
spot tests, lifetime counters, and the management controller. -/

namespace Sys2Proof.Machine

def mgmtAddr (off : Nat) : Nat := 11 * 2 ^ 48 + off

/-! ### Lifetime counters (R434), numbered by the model (DESIGN CHOICE, log entry 16) -/

/-- Corrected errors of the six kinds of part stand at 0 to 5, uncorrected ones at 6 to 11, then spot tests, parts retired,
fabric retries, ports declared down; the temperature bins at 16 to 31. -/
def lifeErrors (kind : Nat) (uncorrected : Bool) : Nat := if uncorrected then 6 + kind else kind
def lifeTests : Nat := 12
def lifeRetired : Nat := 13

/-- The bin of a junction temperature: 16 bins of 8 degrees from 0. -/
def lifeBin (celsius : Nat) : Nat := 16 + min 15 (celsius / 8)

/-! ### Spot tests (R433) -/

/-- A kind of part as a number. -/
def PartKind.code : PartKind → Nat
  | .hbmRow => 0 | .poolBank => 1 | .registerBank => 2 | .sramLine => 3 | .hostLane => 4 | .fabricLane => 5

/-- Spares: 64 rows for each HBM channel, two lines for each SRAM bank, one lane for each port and for the host link. -/
def PartKind.spares : PartKind → Nat
  | .hbmRow => 64
  | .poolBank | .registerBank | .sramLine => 2
  | .hostLane | .fabricLane => 1

/-- The parts that share spares: the one host link, a port, an HBM channel, a bank. -/
def PartKind.unit (k : PartKind) (index : Nat) : Nat :=
  match k with
  | .hostLane => 0
  | .fabricLane => index % 16
  | _ => index

/-- SPOT_TEST_COMPLETE: the error that the test follows is counted, as uncorrected where it was not corrected, or where the line at the
address is marked so (R317); a transient fault returns the part; a lasting one retires it to a spare, or posts event 6 to the owner's log
when none is left. -/
def execSpotTestComplete (part : PartKind) (index : Nat) (found : SpotResult) (addr : DWord) (s : State) :
    Host.Outcome State Fault Refusal :=
  let bad := !found.corrected || (part == .hbmRow && s.bad.contains (addr.toNat / 128))
  let s := { s with dev := bumpLife (bumpLife s.dev (lifeErrors (PartKind.code part) bad)) lifeTests }
  let key := 2 ^ 32 * PartKind.code part + PartKind.unit part index
  let used := mgetD s.dev.spares key 0
  if !found.lasting then .next s
  else if used < PartKind.spares part then
    .next { s with dev := bumpLife { s.dev with spares := mput s.dev.spares key (used + 1) } lifeRetired }
  else if s.dev.owner ≤ 64 then .next (s.post s.dev.owner 6 s.dev.owner 0 addr)
  else .next s

/-! ### Host reads (R423, R428, R429) -/

/-- A host read allowed by the windows and the access tables. -/
def hostReadOk (s : State) (master : Nat) : HostWindow → Bool
  | .mgmt => true
  | .mailbox m => barReach master 1 m && accessOk s.dev master 1 m true false
  | .counter c => barReach master 2 c && accessOk s.dev master 2 c true false
  | .eventLog => true
  | .config f header => header || accessOk s.dev master 3 f true false

/-- A host master's write to the configuration space of a function: dropped with event 5 where its rules deny it (R428, R429). What the
space holds is not given: an allowed one changes nothing here (DESIGN CHOICE, log entry 9). -/
def configWrite (s : State) (master function off : Nat) : State :=
  if !s.dev.linkUp || decide (64 < master) || accessOk s.dev master 3 function false true then s
  else s.deny master (BitVec.ofNat 32 AccKind.write.code) (BitVec.ofNat 64 off)

/-- The address that event 5 gives of a denied host read. -/
def HostWindow.addr (off : Nat) : HostWindow → Nat
  | .mgmt => mgmtAddr off
  | .mailbox m => mailboxAddr m off
  | .counter c => counterAddr c off
  | _ => off

/-- A host read: bytes, or Unsupported Request with event 5 (R429). What configuration space holds is free (DESIGN CHOICE, log entry
9). -/
def hostRead (s : State) (master : Nat) (w : HostWindow) (off n : Nat) : Option (List Byte) × State :=
  if !s.dev.linkUp || decide (64 < master) then (none, s)
  else if !hostReadOk s master w then
    (none, s.deny master (BitVec.ofNat 32 AccKind.read.code) (BitVec.ofNat 64 (w.addr off)))
  else match w with
    | .mgmt => (some (mgmtRead s off n), s)
    | .mailbox m => (some (mailboxRead (s.mailbox m) off n), s)
    | .counter c => (some (counterRead (s.counter c) off n), s)
    | .eventLog => (some (logBytes (mgetD s.dev.logs master EventLog.empty) off n), s)
    | .config _ _ => let (x, s) := s.draw; (some (leBytes n x), s)

/-! ### Firmware and attestation (R430, R431) -/

/-- SVN_RAISE: the fused minimum only rises, and only by a signed command. -/
def execSvnRaise (signed : Bool) (svn : Word) (s : State) : Host.Outcome State Fault Refusal :=
  if signed ∧ s.dev.fusedSvn.toNat < svn.toNat then .next { s with dev := { s.dev with fusedSvn := svn } } else .next s

/-- What CFGHASH covers: OWNER, the access tables, every mailbox's PARTS. -/
def configBytes (s : State) : List Byte :=
  leBytes 4 s.dev.owner ++ (List.range (66 * 80)).flatMap (fun k => leBytes 16 (mgetD s.dev.access k 0).toNat) ++
  (List.range 512).flatMap (fun m => leBytes 8 (s.mailbox m).parts.toNat)

/-- A report without its signature. -/
def reportBody (s : State) (nonce : List Byte) : List Byte :=
  leBytes 4 1 ++ leBytes 4 s.dev.fwSvn.toNat ++ leBytes 48 s.dev.fwHash.toNat ++
  leBytes 48 (Config.sha384 (configBytes s)).toNat ++ padTo 32 nonce ++ leBytes 4 s.dev.owner ++ List.replicate 20 0

/-- ATTEST_REPORT_READY: the report of a master's outstanding request is written. -/
def execAttestReportReady (master : Nat) (s : State) : Host.Outcome State Fault Refusal :=
  match mget s.dev.attreq master, mgetD s.dev.attrep master [] with
  | some nonce, [] =>
    let body := reportBody s nonce
    .next { s with dev := { s.dev with attrep := mput s.dev.attrep master (body ++ padTo 96 (Config.sign body)) } }
  | _, _ => .next s

/-! ### Management space as host masters write it (R426, R427, R429) -/

/-- A host master's write: what only the owner may write is dropped for another, with event 5. -/
def hostMgmt (s : State) (master off : Nat) (data : List Byte) : State :=
  if !s.dev.linkUp || decide (64 < master) then s
  else if master ≠ s.dev.owner ∧ ownerOnly master off then
    s.deny master (BitVec.ofNat 32 AccKind.write.code) (BitVec.ofNat 64 (mgmtAddr off))
  else mgmtWrite s master off data

def execClaim (master : Nat) (value : Word) (s : State) : Host.Outcome State Fault Refusal :=
  .next (hostMgmt s master 0x00 (leBytes 4 value.toNat))

def execGive (master : Nat) (value : Word) (s : State) : Host.Outcome State Fault Refusal :=
  .next (hostMgmt s master 0x08 (leBytes 4 value.toNat))

def execTake (master : Nat) (value : Word) (s : State) : Host.Outcome State Fault Refusal :=
  .next (hostMgmt s master 0x0C (leBytes 4 value.toNat))

def execMinptWrite (master : Nat) (value : Word) (s : State) : Host.Outcome State Fault Refusal :=
  .next (hostMgmt s master 0x14 (leBytes 4 value.toNat))

def execMgmtRegisterWrite (master offset : Nat) (data : List Byte) (s : State) : Host.Outcome State Fault Refusal :=
  .next (hostMgmt s master offset data)

def execAttestRequest (master : Nat) (nonce : List Byte) (s : State) : Host.Outcome State Fault Refusal :=
  .next (hostMgmt s master (0x1000 + 32 * master) (padTo 32 nonce))

/-! ### Bring-up and resets (R430, R435, R436) -/

/-- The firmware check of the boot ROM. -/
def firmwareOk (d : Device) (fw : Firmware) : Bool := fw.sigOk && decide (d.fusedSvn.toNat ≤ fw.svn.toNat)

/-- Bring-up (R435): the reset values, what survives every reset (fused values, lifetime counters, retired parts, the package
number, the text sections' extents), and the outcome of the firmware check. CLOCK starts at 0 (R299). -/
def bringUp (s : State) (fw : Firmware) : State :=
  let d := s.dev
  let ok := firmwareOk d fw
  { State.reset with
    sched := s.sched, texts := s.texts, free := s.free, seq := s.seq,
    dev := { Device.reset with
      powered := true, linkUp := d.linkUp, recovery := !ok, fusedSvn := d.fusedSvn,
      fwSvn := if ok then fw.svn else 0, fwHash := if ok then fw.hash else 0, pkg := d.pkg,
      lifetime := d.lifetime, spares := d.spares } }

def execPowerOn (fw : Firmware) (s : State) : Host.Outcome State Fault Refusal :=
  let s := bringUp s fw
  .next { s with dev := { s.dev with linkUp := false } }

def execPackageReset (fw : Firmware) (s : State) : Host.Outcome State Fault Refusal := .next (bringUp s fw)

/-- HOST_LINK_TRAIN (R423): flit mode only. -/
def execHostLinkTrain (flitMode : Bool) (s : State) : Host.Outcome State Fault Refusal :=
  .next { s with dev := { s.dev with linkUp := flitMode } }

/-- FUNCTION_LEVEL_RESET (R436): records not accepted go, the tasks are killed, and the reset ends once every kill has taken
effect. -/
def functionReset (s : State) (vf : Nat) : State :=
  let ks := (s.tasks.filter (fun e => e.2.mailbox / 8 == vf)).map Prod.fst
  if ks.isEmpty then endReset s vf else ks.foldl (fun s k => killTask (breakTask s k 2) k true) (clearSeqs s vf)

def execFunctionLevelReset (vf : Nat) (s : State) : Host.Outcome State Fault Refusal :=
  if vf < 64 then .next (functionReset s vf) else .next s

/-- LIFETIME_CLEAR (R434). -/
def execLifetimeClear (signed : Bool) (s : State) : Host.Outcome State Fault Refusal :=
  if signed then .next { s with dev := { s.dev with lifetime := [] } } else .next s

/-! ### The management controller (R437, R438) -/

/-- MINPT with one quarter's field set. -/
def raiseMin (d : Device) (q p : Nat) : Word :=
  (d.minpt &&& ~~~((7 : Word) <<< (4 * q))) ||| (BitVec.ofNat 32 (p % 8) <<< (4 * q))

/-- THERMAL_THROTTLE: MINPT 7 for a quarter at 100 degrees. The histogram takes a sample when a temperature is met (DESIGN CHOICE, log
entry 16). -/
def execThermalThrottle (quarter : Nat) (s : State) : Host.Outcome State Fault Refusal :=
  if quarter < 4 then .next (minptSet { s with dev := bumpLife s.dev (lifeBin 100) } (raiseMin s.dev quarter 7)) else .next s

/-- THERMAL_TRIP: at 110 degrees the lifetime counters record the trip, in its temperature's bin, and the package resets with
the firmware it ran. -/
def execThermalTrip (quarter : Nat) (s : State) : Host.Outcome State Fault Refusal :=
  if quarter < 4 then
    let s := { s with dev := bumpLife s.dev (lifeBin 110) }
    .next (bringUp s ⟨!s.dev.recovery, s.dev.fwSvn, s.dev.fwHash⟩)
  else .next s

/-- The quarter of highest power among those whose MINPT is below 7. -/
def hottest (d : Device) (powers : List Nat) : List Nat → Option Nat
  | [] => none
  | q :: t =>
    let rest := hottest d powers t
    if minPoint d q = 7 then rest
    else match rest with
      | none => some q
      | some r => if powers.getD r 0 ≤ powers.getD q 0 then some q else some r

/-- POWER_CAP_LIMIT: above 2,400 W, MINPT of the highest-powered quarter rises to the point after the one it runs at (DESIGN CHOICE, log entry 28).
The junction temperatures that the controller meets then are counted by the histogram (DESIGN CHOICE, log entry 16). -/
def execPowerCapLimit (readings : PowerReadings) (s : State) : Host.Outcome State Fault Refusal :=
  let s := { s with dev := (readings.celsius.take 4).foldl (fun d c => bumpLife d (lifeBin c)) s.dev }
  if readings.powers.foldl (· + ·) 0 ≤ 2400 then .next s
  else match hottest s.dev readings.powers [0, 1, 2, 3] with
    | some q => .next (minptSet s (raiseMin s.dev q (min 7 (max (oppOf s.dev q) (minPoint s.dev q) + 1))))
    | none => .next s

end Sys2Proof.Machine
end

