-- ==== Sys2Proof/Machine/Uniform.lean ====
section
/-! DEFINITION. Uniform integer instructions, class 001 (06, R149 to R154). Each runs once for the group, whatever lanes
are active, and sets no flag (R144). -/

namespace Sys2Proof.Machine

/-- A uniform instruction of two sources. -/
def uni2 (sh : Option Shape) (d a b : F7) (f : Word → Word → Word) (s : State) : Host.Outcome State Fault Refusal :=
  issue sh s (fun s => writeUnis s false [(d.toNat, f (s.G.rdS a.toNat) (s.G.rdS b.toNat))])

/-- A uniform instruction of one source. -/
def uni1 (sh : Option Shape) (d a : F7) (f : Word → Word) (s : State) : Host.Outcome State Fault Refusal :=
  issue sh s (fun s => writeUnis s false [(d.toNat, f (s.G.rdS a.toNat))])

/-- A 64-bit uniform result (R154): both halves together. -/
def uni64 (sh : Option Shape) (d : F7) (f : Group → DWord) (s : State) : Host.Outcome State Fault Refusal :=
  issue sh s (fun s => writeUnis s false (pairWrites d.toNat (f s.G)))

/-! ### Arithmetic (R150) -/

def execSadd (d a b : F7) (s : State) :=
  uni2 (Instr.shape (.sadd d a b)) d a b (· + ·) s
def execSsub (d a b : F7) (s : State) :=
  uni2 (Instr.shape (.ssub d a b)) d a b (· - ·) s
def execSmul (d a b : F7) (s : State) :=
  uni2 (Instr.shape (.smul d a b)) d a b (· * ·) s
def execSmulhiI32 (d a b : F7) (s : State) :=
  uni2 (Instr.shape (.smulhiI32 d a b)) d a b mulHiI s
def execSmulhiN32 (d a b : F7) (s : State) :=
  uni2 (Instr.shape (.smulhiN32 d a b)) d a b mulHiN s
def execSdivI32 (d a b : F7) (s : State) :=
  uni2 (Instr.shape (.sdivI32 d a b)) d a b divI s
def execSdivN32 (d a b : F7) (s : State) :=
  uni2 (Instr.shape (.sdivN32 d a b)) d a b divN s
def execSremI32 (d a b : F7) (s : State) :=
  uni2 (Instr.shape (.sremI32 d a b)) d a b remI s
def execSremN32 (d a b : F7) (s : State) :=
  uni2 (Instr.shape (.sremN32 d a b)) d a b remN s
def execSminI32 (d a b : F7) (s : State) :=
  uni2 (Instr.shape (.sminI32 d a b)) d a b minIW s
def execSminN32 (d a b : F7) (s : State) :=
  uni2 (Instr.shape (.sminN32 d a b)) d a b minNW s
def execSmaxI32 (d a b : F7) (s : State) :=
  uni2 (Instr.shape (.smaxI32 d a b)) d a b maxIW s
def execSmaxN32 (d a b : F7) (s : State) :=
  uni2 (Instr.shape (.smaxN32 d a b)) d a b maxNW s
def execSaddSatI32 (d a b : F7) (s : State) :=
  uni2 (Instr.shape (.saddSatI32 d a b)) d a b addSatI s
def execSaddSatN32 (d a b : F7) (s : State) :=
  uni2 (Instr.shape (.saddSatN32 d a b)) d a b addSatN s
def execSsubSatI32 (d a b : F7) (s : State) :=
  uni2 (Instr.shape (.ssubSatI32 d a b)) d a b subSatI s
def execSsubSatN32 (d a b : F7) (s : State) :=
  uni2 (Instr.shape (.ssubSatN32 d a b)) d a b subSatN s

/-! ### Logic and shifts (R151) -/

def execSand (d a b : F7) (s : State) :=
  uni2 (Instr.shape (.sand d a b)) d a b (· &&& ·) s
def execSor (d a b : F7) (s : State) :=
  uni2 (Instr.shape (.sor d a b)) d a b (· ||| ·) s
def execSxor (d a b : F7) (s : State) :=
  uni2 (Instr.shape (.sxor d a b)) d a b (· ^^^ ·) s
def execSshl (d a b : F7) (s : State) :=
  uni2 (Instr.shape (.sshl d a b)) d a b shl s
def execSshrN32 (d a b : F7) (s : State) :=
  uni2 (Instr.shape (.sshrN32 d a b)) d a b shrN s
def execSshrI32 (d a b : F7) (s : State) :=
  uni2 (Instr.shape (.sshrI32 d a b)) d a b shrI s
def execSnot (d a : F7) (s : State) :=
  uni1 (Instr.shape (.snot d a)) d a (~~~ ·) s
def execSpopc (d a : F7) (s : State) :=
  uni1 (Instr.shape (.spopc d a)) d a popc s
def execSclz (d a : F7) (s : State) :=
  uni1 (Instr.shape (.sclz d a)) d a clz s
def execSmov (d a : F7) (s : State) :=
  uni1 (Instr.shape (.smov d a)) d a id s

/-! ### Relations (R152) -/

def execSsetEq (d a b : F7) (s : State) :=
  uni2 (Instr.shape (.ssetEq d a b)) d a b (fun x y => bit01 (x == y)) s
def execSsetNe (d a b : F7) (s : State) :=
  uni2 (Instr.shape (.ssetNe d a b)) d a b (fun x y => bit01 (x != y)) s
def execSsetLtI32 (d a b : F7) (s : State) :=
  uni2 (Instr.shape (.ssetLtI32 d a b)) d a b (fun x y => bit01 (ltI x y)) s
def execSsetLeI32 (d a b : F7) (s : State) :=
  uni2 (Instr.shape (.ssetLeI32 d a b)) d a b (fun x y => bit01 (leI x y)) s
def execSsetLtN32 (d a b : F7) (s : State) :=
  uni2 (Instr.shape (.ssetLtN32 d a b)) d a b (fun x y => bit01 (ltN x y)) s
def execSsetLeN32 (d a b : F7) (s : State) :=
  uni2 (Instr.shape (.ssetLeN32 d a b)) d a b (fun x y => bit01 (leN x y)) s

/-! ### Literals (R153) -/

def execSlit (d : F7) (lit : Word) (s : State) :=
  issue (Instr.shape (.slit d lit)) s (fun s => writeUnis s false [(d.toNat, lit)])
def execSlit64 (d : F7) (lo hi : Word) (s : State) :=
  uni64 (Instr.shape (.slit64 d lo hi)) d (fun _ => pair lo hi) s

/-! ### The 64-bit group (R154) -/

def execSadd64 (d a b : F7) (s : State) :=
  uni64 (Instr.shape (.sadd64 d a b)) d (fun g => g.rdS2 a.toNat + g.rdS2 b.toNat) s
def execSsub64 (d a b : F7) (s : State) :=
  uni64 (Instr.shape (.ssub64 d a b)) d (fun g => g.rdS2 a.toNat - g.rdS2 b.toNat) s
def execSshl64 (d a b : F7) (s : State) :=
  uni64 (Instr.shape (.sshl64 d a b)) d (fun g => shl64 (g.rdS2 a.toNat) (g.rdS b.toNat)) s
def execSshr64 (d a b : F7) (s : State) :=
  uni64 (Instr.shape (.sshr64 d a b)) d (fun g => shr64 (g.rdS2 a.toNat) (g.rdS b.toNat)) s

end Sys2Proof.Machine
end

