-- ==== Sys2Proof/Machine/Varying.lean ====
section
/-! DEFINITION. Varying integer, bit-field, compare, predicate and indexed instructions (07, R163 to R174, R187 to
R190). Each computes in every active lane and writes only there (R163). -/

namespace Sys2Proof.Machine

/-- A varying instruction of two sources. -/
def var2 (sh : Option Shape) (d a b : F7) (f : Word → Word → Word) (s : State) : Host.Outcome State Fault Refusal :=
  issue sh s (fun s => writeV s d.toNat (fun i => f (s.G.rdV a.toNat i) (s.G.rdV b.toNat i)))

/-- A varying instruction of one source. -/
def var1 (sh : Option Shape) (d a : F7) (f : Word → Word) (s : State) : Host.Outcome State Fault Refusal :=
  issue sh s (fun s => writeV s d.toNat (fun i => f (s.G.rdV a.toNat i)))

/-- A compare (R173). -/
def cmp2 (sh : Option Shape) (d a b : F7) (f : Word → Word → Bool) (s : State) : Host.Outcome State Fault Refusal :=
  issue sh s (fun s => writeP s d.toNat (fun i => f (s.G.rdV a.toNat i) (s.G.rdV b.toNat i)))

/-- Predicate logic (R173, R174): the guard is read before the destination is written. -/
def pred2 (sh : Option Shape) (d : F7) (f : Group → Mask) (s : State) : Host.Outcome State Fault Refusal :=
  issue sh s (fun s => .ok (s.setG (s.G.putP s.G.nextId d.toNat s.G.active (f s.G))))

/-- The field position of R172: offset and width. -/
def fieldPos (b : Word) : Nat × Nat :=
  let o := (b.extractLsb' 0 5).toNat
  (o, min (b.extractLsb' 8 6).toNat (32 - o))

/-- VBFE.N32 (R172). -/
def bfeN (a b : Word) : Word :=
  let p := fieldPos b
  BitVec.ofNat 32 (a.toNat / 2 ^ p.1 % 2 ^ p.2)

/-- VBFE.I32 (R172). -/
def bfeI (a b : Word) : Word :=
  let p := fieldPos b
  let x := a.toNat / 2 ^ p.1 % 2 ^ p.2
  if p.2 ≠ 0 ∧ 2 ^ (p.2 - 1) ≤ x then BitVec.ofInt 32 ((x : Int) - 2 ^ p.2) else BitVec.ofNat 32 x

/-- VBFI (R172): the low bits of `a` into the field of `d`. -/
def bfi (d a b : Word) : Word :=
  let p := fieldPos b
  let m := BitVec.ofNat 32 ((2 ^ p.2 - 1) * 2 ^ p.1)
  (d &&& ~~~m) ||| (shl a (BitVec.ofNat 32 p.1) &&& m)

/-! ### Integer arithmetic (R168, R169) -/

def execVadd (d a b : F7) (s : State) :=
  var2 (Instr.shape (.vadd d a b)) d a b (· + ·) s
def execVsub (d a b : F7) (s : State) :=
  var2 (Instr.shape (.vsub d a b)) d a b (· - ·) s
def execVmul (d a b : F7) (s : State) :=
  var2 (Instr.shape (.vmul d a b)) d a b (· * ·) s
def execVmulhiI32 (d a b : F7) (s : State) :=
  var2 (Instr.shape (.vmulhiI32 d a b)) d a b mulHiI s
def execVmulhiN32 (d a b : F7) (s : State) :=
  var2 (Instr.shape (.vmulhiN32 d a b)) d a b mulHiN s
def execVminI32 (d a b : F7) (s : State) :=
  var2 (Instr.shape (.vminI32 d a b)) d a b minIW s
def execVminN32 (d a b : F7) (s : State) :=
  var2 (Instr.shape (.vminN32 d a b)) d a b minNW s
def execVmaxI32 (d a b : F7) (s : State) :=
  var2 (Instr.shape (.vmaxI32 d a b)) d a b maxIW s
def execVmaxN32 (d a b : F7) (s : State) :=
  var2 (Instr.shape (.vmaxN32 d a b)) d a b maxNW s
def execVaddSatI32 (d a b : F7) (s : State) :=
  var2 (Instr.shape (.vaddSatI32 d a b)) d a b addSatI s
def execVaddSatN32 (d a b : F7) (s : State) :=
  var2 (Instr.shape (.vaddSatN32 d a b)) d a b addSatN s
def execVsubSatI32 (d a b : F7) (s : State) :=
  var2 (Instr.shape (.vsubSatI32 d a b)) d a b subSatI s
def execVsubSatN32 (d a b : F7) (s : State) :=
  var2 (Instr.shape (.vsubSatN32 d a b)) d a b subSatN s

def execImad (d a b c : F7) (s : State) :=
  issue (Instr.shape (.imad d a b c)) s (fun s =>
    writeV s d.toNat (fun i => s.G.rdV a.toNat i * s.G.rdV b.toNat i + s.G.rdV c.toNat i))

/-! ### Logic, shifts and bit fields (R171, R172) -/

def execVand (d a b : F7) (s : State) :=
  var2 (Instr.shape (.vand d a b)) d a b (· &&& ·) s
def execVor (d a b : F7) (s : State) :=
  var2 (Instr.shape (.vor d a b)) d a b (· ||| ·) s
def execVxor (d a b : F7) (s : State) :=
  var2 (Instr.shape (.vxor d a b)) d a b (· ^^^ ·) s
def execVshl (d a b : F7) (s : State) :=
  var2 (Instr.shape (.vshl d a b)) d a b shl s
def execVshrN32 (d a b : F7) (s : State) :=
  var2 (Instr.shape (.vshrN32 d a b)) d a b shrN s
def execVshrI32 (d a b : F7) (s : State) :=
  var2 (Instr.shape (.vshrI32 d a b)) d a b shrI s
def execVbfeN32 (d a b : F7) (s : State) :=
  var2 (Instr.shape (.vbfeN32 d a b)) d a b bfeN s
def execVbfeI32 (d a b : F7) (s : State) :=
  var2 (Instr.shape (.vbfeI32 d a b)) d a b bfeI s
def execVnot (d a : F7) (s : State) :=
  var1 (Instr.shape (.vnot d a)) d a (~~~ ·) s
def execVpopc (d a : F7) (s : State) :=
  var1 (Instr.shape (.vpopc d a)) d a popc s
def execVclz (d a : F7) (s : State) :=
  var1 (Instr.shape (.vclz d a)) d a clz s
def execVmov (d a : F7) (s : State) :=
  var1 (Instr.shape (.vmov d a)) d a id s
def execVbrev (d a : F7) (s : State) :=
  var1 (Instr.shape (.vbrev d a)) d a brev s

def execVbfi (d a b : F7) (s : State) :=
  issue (Instr.shape (.vbfi d a b)) s (fun s =>
    writeV s d.toNat (fun i => bfi (s.G.rdV d.toNat i) (s.G.rdV a.toNat i) (s.G.rdV b.toNat i)))

/-! ### Compares and predicate logic (R173) -/

def execVcmpEq (d a b : F7) (s : State) :=
  cmp2 (Instr.shape (.vcmpEq d a b)) d a b (fun x y => x == y) s
def execVcmpNe (d a b : F7) (s : State) :=
  cmp2 (Instr.shape (.vcmpNe d a b)) d a b (fun x y => x != y) s
def execVcmpLtI32 (d a b : F7) (s : State) :=
  cmp2 (Instr.shape (.vcmpLtI32 d a b)) d a b ltI s
def execVcmpLeI32 (d a b : F7) (s : State) :=
  cmp2 (Instr.shape (.vcmpLeI32 d a b)) d a b leI s
def execVcmpLtN32 (d a b : F7) (s : State) :=
  cmp2 (Instr.shape (.vcmpLtN32 d a b)) d a b ltN s
def execVcmpLeN32 (d a b : F7) (s : State) :=
  cmp2 (Instr.shape (.vcmpLeN32 d a b)) d a b leN s
def execPand (d a b : F7) (s : State) :=
  pred2 (Instr.shape (.pand d a b)) d (fun g => g.pred a.toNat &&& g.pred b.toNat) s
def execPor (d a b : F7) (s : State) :=
  pred2 (Instr.shape (.por d a b)) d (fun g => g.pred a.toNat ||| g.pred b.toNat) s
def execPxor (d a b : F7) (s : State) :=
  pred2 (Instr.shape (.pxor d a b)) d (fun g => g.pred a.toNat ^^^ g.pred b.toNat) s
def execPnot (d a : F7) (s : State) := pred2 (Instr.shape (.pnot d a)) d (fun g => ~~~(g.pred a.toNat)) s
def execPmov (d a : F7) (s : State) := pred2 (Instr.shape (.pmov d a)) d (fun g => g.pred a.toNat) s

/-! ### Indexed access (R26, R187 to R190) -/

/-- An index register in a lane. -/
def Group.rdX (g : Group) (n i : Nat) : Word := (mgetD g.x n []).at i

def xLimit (x : Word) : Nat := (x.extractLsb' 16 8).toNat
def xIndex (x : Word) : Nat := (x.extractLsb' 8 8).toNat
def xBase (x : Word) : Nat := (x.extractLsb' 0 8).toNat

/-- The register an ix field names in a lane: BASE + INDEX + k. -/
def Group.ixReg (g : Group) (f : F7) (i : Nat) : Nat :=
  let x := g.rdX (f.toNat / 32) i
  xBase x + xIndex x + f.toNat % 32

/-- The active lanes that fail the bounds of R26. -/
def Group.ixBad (g : Group) (f : F7) : Mask :=
  maskOf (fun i => g.active.getLsbD i &&
    let x := g.rdX (f.toNat / 32) i
    (decide (xLimit x ≤ xIndex x + f.toNat % 32) || decide (g.budget ≤ g.ixReg f i)))

/-- The registers the active lanes name, without repeats. -/
def Group.ixRegs (g : Group) (f : F7) : List Nat := ((laneList g.active).map (g.ixReg f)).eraseDups

/-- R189, R190: the bounds, the interlock of the registers named, then the access. -/
def indexed (sh : Option Shape) (f : F7) (body : State → Res) (s : State) : Host.Outcome State Fault Refusal :=
  issue sh s (fun s =>
    let g := s.G
    let bad := g.ixBad f
    if bad ≠ 0 then .trap { Trap.of 8 with lanes := bad }
    else if interlocked g ((g.ixRegs f).map Reg.v) then .stall
    else body s)

def execVxrd (d a : F7) (s : State) :=
  indexed (Instr.shape (.vxrd d a)) a (fun s => writeV s d.toNat (fun i => (s.G.row (s.G.ixReg a i)).at i)) s

def execVxwr (d a : F7) (s : State) :=
  indexed (Instr.shape (.vxwr d a)) d (fun s =>
    let g := s.G
    .ok (s.setG ((g.ixRegs d).foldl (fun g' r =>
      g'.putV g.nextId r (maskOf (fun i => g.active.getLsbD i && g.ixReg d i == r)) (g.rdV a.toNat)) g))) s

/-- Writes an index register in the active lanes. -/
def writeX (s : State) (d : Nat) (f : Nat → Word) : Res := .ok (s.setG (s.G.putX d s.G.active f))

def execXset (d a : F7) (s : State) :=
  issue (Instr.shape (.xset d a)) s (fun s => writeX s d.toNat (s.G.rdV a.toNat))
def execXget (d a : F7) (s : State) :=
  issue (Instr.shape (.xget d a)) s (fun s => writeV s d.toNat (s.G.rdX a.toNat))

/-- XADD: BASE and LIMIT of x[A], INDEX plus s[B] modulo 2^8 (R188). -/
def execXadd (d a b : F7) (s : State) :=
  issue (Instr.shape (.xadd d a b)) s (fun s => writeX s d.toNat (fun i =>
    let x := s.G.rdX a.toNat i
    (x &&& 0x00FF00FF) ||| (((x.extractLsb' 8 8 + (s.G.rdS b.toNat).extractLsb' 0 8).zeroExtend 32) <<< 8)))

end Sys2Proof.Machine
end

