-- ==== Sys2Proof/Machine/Dispatch.lean ====
section
/-! DEFINITION. The one dispatch: each constructor of Instr to its meaning. -/

namespace Sys2Proof.Machine

def exec (i : Instr) (s : State) : Host.Outcome State Fault Refusal :=
  match i with
  | .clauseStart => Sys2Proof.Machine.execClauseStart s
  | .clauseBoundary => Sys2Proof.Machine.execClauseBoundary s
  | .splitRotate => Sys2Proof.Machine.execSplitRotate s
  | .timewaitExpire gid id => Sys2Proof.Machine.execTimewaitExpire gid id s
  | .bankroleSwitch cluster bank => Sys2Proof.Machine.execBankroleSwitch cluster bank s
  | .memoryAccessComplete gid id => Sys2Proof.Machine.execMemoryAccessComplete gid id s
  | .homeAcknowledge core k => Sys2Proof.Machine.execHomeAcknowledge core k s
  | .sgbEntryTimeout core k => Sys2Proof.Machine.execSgbEntryTimeout core k s
  | .walkerStart cluster => Sys2Proof.Machine.execWalkerStart cluster s
  | .walkerTimeout cluster => Sys2Proof.Machine.execWalkerTimeout cluster s
  | .logReissue gid id => Sys2Proof.Machine.execLogReissue gid id s
  | .subnormalReplayDone gid id => Sys2Proof.Machine.execSubnormalReplayDone gid id s
  | .engineAccept cmd => Sys2Proof.Machine.execEngineAccept cmd s
  | .boArrival cmd => Sys2Proof.Machine.execBoArrival cmd s
  | .engineCommandComplete cmd => Sys2Proof.Machine.execEngineCommandComplete cmd s
  | .engineResume cmd => Sys2Proof.Machine.execEngineResume cmd s
  | .collMatch cmd comm => Sys2Proof.Machine.execCollMatch cmd comm s
  | .collTimeout cmd => Sys2Proof.Machine.execCollTimeout cmd s
  | .queueOpServe gid id => Sys2Proof.Machine.execQueueOpServe gid id s
  | .teamBarrierComplete team => Sys2Proof.Machine.execTeamBarrierComplete team s
  | .ordBarrierComplete task => Sys2Proof.Machine.execOrdBarrierComplete task s
  | .weirRebuildComplete task => Sys2Proof.Machine.execWeirRebuildComplete task s
  | .migrationCopyStart task key => Sys2Proof.Machine.execMigrationCopyStart task key s
  | .migrationCopyComplete task key => Sys2Proof.Machine.execMigrationCopyComplete task key s
  | .quarterSwitch task quarter => Sys2Proof.Machine.execQuarterSwitch task quarter s
  | .serviceStart inv core => Sys2Proof.Machine.execServiceStart inv core s
  | .groupRetire gid => Sys2Proof.Machine.execGroupRetire gid s
  | .handleResultArrive msg => Sys2Proof.Machine.execHandleResultArrive msg s
  | .handleTimeout quarter index => Sys2Proof.Machine.execHandleTimeout quarter index s
  | .heldRequestEffect gid => Sys2Proof.Machine.execHeldRequestEffect gid s
  | .teamSaveDone team => Sys2Proof.Machine.execTeamSaveDone team s
  | .mailboxAccept mailbox => Sys2Proof.Machine.execMailboxAccept mailbox s
  | .teamPlace task core => Sys2Proof.Machine.execTeamPlace task core s
  | .oppStable quarter => Sys2Proof.Machine.execOppStable quarter s
  | .counterSet master counter value => Sys2Proof.Machine.execCounterSet master counter value s
  | .counterAdd master counter value => Sys2Proof.Machine.execCounterAdd master counter value s
  | .counterReset master counter value => Sys2Proof.Machine.execCounterReset master counter value s
  | .mailboxKill master mailbox value => Sys2Proof.Machine.execMailboxKill master mailbox value s
  | .hostAccessTimeout gid id => Sys2Proof.Machine.execHostAccessTimeout gid id s
  | .flitReceive port flit => Sys2Proof.Machine.execFlitReceive port flit s
  | .flitResendTimeout port => Sys2Proof.Machine.execFlitResendTimeout port s
  | .portDown port => Sys2Proof.Machine.execPortDown port s
  | .portRetrainComplete port => Sys2Proof.Machine.execPortRetrainComplete port s
  | .messageReceive m room => Sys2Proof.Machine.execMessageReceive m room s
  | .messageRetryResend stream => Sys2Proof.Machine.execMessageRetryResend stream s
  | .responseReceive m => Sys2Proof.Machine.execResponseReceive m s
  | .fabricTimeout stream => Sys2Proof.Machine.execFabricTimeout stream s
  | .spotTestComplete part index found addr => Sys2Proof.Machine.execSpotTestComplete part index found addr s
  | .powerOn fw => Sys2Proof.Machine.execPowerOn fw s
  | .packageReset fw => Sys2Proof.Machine.execPackageReset fw s
  | .hostLinkTrain flitMode => Sys2Proof.Machine.execHostLinkTrain flitMode s
  | .functionLevelReset vf => Sys2Proof.Machine.execFunctionLevelReset vf s
  | .claim master value => Sys2Proof.Machine.execClaim master value s
  | .give master value => Sys2Proof.Machine.execGive master value s
  | .take master value => Sys2Proof.Machine.execTake master value s
  | .minptWrite master value => Sys2Proof.Machine.execMinptWrite master value s
  | .mgmtRegisterWrite master offset data => Sys2Proof.Machine.execMgmtRegisterWrite master offset data s
  | .attestRequest master nonce => Sys2Proof.Machine.execAttestRequest master nonce s
  | .attestReportReady master => Sys2Proof.Machine.execAttestReportReady master s
  | .lifetimeClear signed => Sys2Proof.Machine.execLifetimeClear signed s
  | .svnRaise signed svn => Sys2Proof.Machine.execSvnRaise signed svn s
  | .thermalThrottle quarter => Sys2Proof.Machine.execThermalThrottle quarter s
  | .thermalTrip quarter => Sys2Proof.Machine.execThermalTrip quarter s
  | .powerCapLimit readings => Sys2Proof.Machine.execPowerCapLimit readings s
  | .fbInstructionComplete gid id => Sys2Proof.Machine.execFbInstructionComplete gid id s
  | .rebalanceSnapshotComplete task => Sys2Proof.Machine.execRebalanceSnapshotComplete task s
  | .mailboxSlotWrite master mailbox offset data => Sys2Proof.Machine.execMailboxSlotWrite master mailbox offset data s
  | .nop => Sys2Proof.Machine.execNop s
  | .braLikely a lit => Sys2Proof.Machine.execBraLikely a lit s
  | .braUnlikely a lit => Sys2Proof.Machine.execBraUnlikely a lit s
  | .braUniform a lit => Sys2Proof.Machine.execBraUniform a lit s
  | .bra a lit => Sys2Proof.Machine.execBra a lit s
  | .brx a b => Sys2Proof.Machine.execBrx a b s
  | .call d a b => Sys2Proof.Machine.execCall d a b s
  | .ret a => Sys2Proof.Machine.execRet a s
  | .ppush a => Sys2Proof.Machine.execPpush a s
  | .pinv => Sys2Proof.Machine.execPinv s
  | .ppop => Sys2Proof.Machine.execPpop s
  | .setmode a => Sys2Proof.Machine.execSetmode a s
  | .getmode d => Sys2Proof.Machine.execGetmode d s
  | .setfmt d a => Sys2Proof.Machine.execSetfmt d a s
  | .getfmt d a => Sys2Proof.Machine.execGetfmt d a s
  | .spawn d a b => Sys2Proof.Machine.execSpawn d a b s
  | .exit => Sys2Proof.Machine.execExit s
  | .yield => Sys2Proof.Machine.execYield s
  | .trap a => Sys2Proof.Machine.execTrap a s
  | .bkpt => Sys2Proof.Machine.execBkpt s
  | .sadd d a b => Sys2Proof.Machine.execSadd d a b s
  | .ssub d a b => Sys2Proof.Machine.execSsub d a b s
  | .smul d a b => Sys2Proof.Machine.execSmul d a b s
  | .smulhiI32 d a b => Sys2Proof.Machine.execSmulhiI32 d a b s
  | .smulhiN32 d a b => Sys2Proof.Machine.execSmulhiN32 d a b s
  | .sdivI32 d a b => Sys2Proof.Machine.execSdivI32 d a b s
  | .sdivN32 d a b => Sys2Proof.Machine.execSdivN32 d a b s
  | .sremI32 d a b => Sys2Proof.Machine.execSremI32 d a b s
  | .sremN32 d a b => Sys2Proof.Machine.execSremN32 d a b s
  | .sminI32 d a b => Sys2Proof.Machine.execSminI32 d a b s
  | .sminN32 d a b => Sys2Proof.Machine.execSminN32 d a b s
  | .smaxI32 d a b => Sys2Proof.Machine.execSmaxI32 d a b s
  | .smaxN32 d a b => Sys2Proof.Machine.execSmaxN32 d a b s
  | .saddSatI32 d a b => Sys2Proof.Machine.execSaddSatI32 d a b s
  | .saddSatN32 d a b => Sys2Proof.Machine.execSaddSatN32 d a b s
  | .ssubSatI32 d a b => Sys2Proof.Machine.execSsubSatI32 d a b s
  | .ssubSatN32 d a b => Sys2Proof.Machine.execSsubSatN32 d a b s
  | .sand d a b => Sys2Proof.Machine.execSand d a b s
  | .sor d a b => Sys2Proof.Machine.execSor d a b s
  | .sxor d a b => Sys2Proof.Machine.execSxor d a b s
  | .sshl d a b => Sys2Proof.Machine.execSshl d a b s
  | .sshrN32 d a b => Sys2Proof.Machine.execSshrN32 d a b s
  | .sshrI32 d a b => Sys2Proof.Machine.execSshrI32 d a b s
  | .snot d a => Sys2Proof.Machine.execSnot d a s
  | .spopc d a => Sys2Proof.Machine.execSpopc d a s
  | .sclz d a => Sys2Proof.Machine.execSclz d a s
  | .smov d a => Sys2Proof.Machine.execSmov d a s
  | .ssetEq d a b => Sys2Proof.Machine.execSsetEq d a b s
  | .ssetNe d a b => Sys2Proof.Machine.execSsetNe d a b s
  | .ssetLtI32 d a b => Sys2Proof.Machine.execSsetLtI32 d a b s
  | .ssetLeI32 d a b => Sys2Proof.Machine.execSsetLeI32 d a b s
  | .ssetLtN32 d a b => Sys2Proof.Machine.execSsetLtN32 d a b s
  | .ssetLeN32 d a b => Sys2Proof.Machine.execSsetLeN32 d a b s
  | .slit d lit => Sys2Proof.Machine.execSlit d lit s
  | .slit64 d lo hi => Sys2Proof.Machine.execSlit64 d lo hi s
  | .sadd64 d a b => Sys2Proof.Machine.execSadd64 d a b s
  | .ssub64 d a b => Sys2Proof.Machine.execSsub64 d a b s
  | .sshl64 d a b => Sys2Proof.Machine.execSshl64 d a b s
  | .sshr64 d a b => Sys2Proof.Machine.execSshr64 d a b s
  | .aadd d a b => Sys2Proof.Machine.execAadd d a b s
  | .asub d a b => Sys2Proof.Machine.execAsub d a b s
  | .aaddC d a b => Sys2Proof.Machine.execAaddC d a b s
  | .asubC d a b => Sys2Proof.Machine.execAsubC d a b s
  | .amov d a => Sys2Proof.Machine.execAmov d a s
  | .aaddu d a b => Sys2Proof.Machine.execAaddu d a b s
  | .asubu d a b => Sys2Proof.Machine.execAsubu d a b s
  | .amulu d a b => Sys2Proof.Machine.execAmulu d a b s
  | .ashlu d a b => Sys2Proof.Machine.execAshlu d a b s
  | .aadduC d a b => Sys2Proof.Machine.execAadduC d a b s
  | .asubuC d a b => Sys2Proof.Machine.execAsubuC d a b s
  | .amuluC d a b => Sys2Proof.Machine.execAmuluC d a b s
  | .ashluC d a b => Sys2Proof.Machine.execAshluC d a b s
  | .astride d a b => Sys2Proof.Machine.execAstride d a b s
  | .utoa d a => Sys2Proof.Machine.execUtoa d a s
  | .utov d a => Sys2Proof.Machine.execUtov d a s
  | .atov d a => Sys2Proof.Machine.execAtov d a s
  | .atou d a => Sys2Proof.Machine.execAtou d a s
  | .lanea d => Sys2Proof.Machine.execLanea d s
  | .readfirst d a => Sys2Proof.Machine.execReadfirst d a s
  | .vtouEq d a => Sys2Proof.Machine.execVtouEq d a s
  | .elect d a => Sys2Proof.Machine.execElect d a s
  | .vadd d a b => Sys2Proof.Machine.execVadd d a b s
  | .vsub d a b => Sys2Proof.Machine.execVsub d a b s
  | .vmul d a b => Sys2Proof.Machine.execVmul d a b s
  | .vmulhiI32 d a b => Sys2Proof.Machine.execVmulhiI32 d a b s
  | .vmulhiN32 d a b => Sys2Proof.Machine.execVmulhiN32 d a b s
  | .vminI32 d a b => Sys2Proof.Machine.execVminI32 d a b s
  | .vminN32 d a b => Sys2Proof.Machine.execVminN32 d a b s
  | .vmaxI32 d a b => Sys2Proof.Machine.execVmaxI32 d a b s
  | .vmaxN32 d a b => Sys2Proof.Machine.execVmaxN32 d a b s
  | .vaddSatI32 d a b => Sys2Proof.Machine.execVaddSatI32 d a b s
  | .vaddSatN32 d a b => Sys2Proof.Machine.execVaddSatN32 d a b s
  | .vsubSatI32 d a b => Sys2Proof.Machine.execVsubSatI32 d a b s
  | .vsubSatN32 d a b => Sys2Proof.Machine.execVsubSatN32 d a b s
  | .vand d a b => Sys2Proof.Machine.execVand d a b s
  | .vor d a b => Sys2Proof.Machine.execVor d a b s
  | .vxor d a b => Sys2Proof.Machine.execVxor d a b s
  | .vshl d a b => Sys2Proof.Machine.execVshl d a b s
  | .vshrN32 d a b => Sys2Proof.Machine.execVshrN32 d a b s
  | .vshrI32 d a b => Sys2Proof.Machine.execVshrI32 d a b s
  | .vbfeN32 d a b => Sys2Proof.Machine.execVbfeN32 d a b s
  | .vbfeI32 d a b => Sys2Proof.Machine.execVbfeI32 d a b s
  | .vnot d a => Sys2Proof.Machine.execVnot d a s
  | .vpopc d a => Sys2Proof.Machine.execVpopc d a s
  | .vclz d a => Sys2Proof.Machine.execVclz d a s
  | .vmov d a => Sys2Proof.Machine.execVmov d a s
  | .vbrev d a => Sys2Proof.Machine.execVbrev d a s
  | .vbfi d a b => Sys2Proof.Machine.execVbfi d a b s
  | .vcmpEq d a b => Sys2Proof.Machine.execVcmpEq d a b s
  | .vcmpNe d a b => Sys2Proof.Machine.execVcmpNe d a b s
  | .vcmpLtI32 d a b => Sys2Proof.Machine.execVcmpLtI32 d a b s
  | .vcmpLeI32 d a b => Sys2Proof.Machine.execVcmpLeI32 d a b s
  | .vcmpLtN32 d a b => Sys2Proof.Machine.execVcmpLtN32 d a b s
  | .vcmpLeN32 d a b => Sys2Proof.Machine.execVcmpLeN32 d a b s
  | .pand d a b => Sys2Proof.Machine.execPand d a b s
  | .por d a b => Sys2Proof.Machine.execPor d a b s
  | .pxor d a b => Sys2Proof.Machine.execPxor d a b s
  | .pnot d a => Sys2Proof.Machine.execPnot d a s
  | .pmov d a => Sys2Proof.Machine.execPmov d a s
  | .vxrd d a => Sys2Proof.Machine.execVxrd d a s
  | .vxwr d a => Sys2Proof.Machine.execVxwr d a s
  | .xset d a => Sys2Proof.Machine.execXset d a s
  | .xget d a => Sys2Proof.Machine.execXget d a s
  | .xadd d a b => Sys2Proof.Machine.execXadd d a b s
  | .vrand d a b => Sys2Proof.Machine.execVrand d a b s
  | .shflIdx d a b w => Sys2Proof.Machine.execShflIdx d a b w s
  | .shflUp d a b w => Sys2Proof.Machine.execShflUp d a b w s
  | .shflDown d a b w => Sys2Proof.Machine.execShflDown d a b w s
  | .shflXor d a b w => Sys2Proof.Machine.execShflXor d a b w s
  | .reduce d a b => Sys2Proof.Machine.execReduce d a b s
  | .reduceVarying d a b => Sys2Proof.Machine.execReduceVarying d a b s
  | .reduceMini d a b => Sys2Proof.Machine.execReduceMini d a b s
  | .scan d a b => Sys2Proof.Machine.execScan d a b s
  | .scanExcl d a b => Sys2Proof.Machine.execScanExcl d a b s
  | .voteAll d a => Sys2Proof.Machine.execVoteAll d a s
  | .voteAny d a => Sys2Proof.Machine.execVoteAny d a s
  | .ballot d a => Sys2Proof.Machine.execBallot d a s
  | .spread d a b => Sys2Proof.Machine.execSpread d a b s
  | .fadd d a b => Sys2Proof.Machine.execFadd d a b s
  | .fsub d a b => Sys2Proof.Machine.execFsub d a b s
  | .fmul d a b => Sys2Proof.Machine.execFmul d a b s
  | .fmin d a b => Sys2Proof.Machine.execFmin d a b s
  | .fmax d a b => Sys2Proof.Machine.execFmax d a b s
  | .fabs d a => Sys2Proof.Machine.execFabs d a s
  | .fneg d a => Sys2Proof.Machine.execFneg d a s
  | .frint d a => Sys2Proof.Machine.execFrint d a s
  | .fcmpEq d a b => Sys2Proof.Machine.execFcmpEq d a b s
  | .fcmpNe d a b => Sys2Proof.Machine.execFcmpNe d a b s
  | .fcmpLt d a b => Sys2Proof.Machine.execFcmpLt d a b s
  | .fcmpLe d a b => Sys2Proof.Machine.execFcmpLe d a b s
  | .fcmpUn d a b => Sys2Proof.Machine.execFcmpUn d a b s
  | .hadd d a b => Sys2Proof.Machine.execHadd d a b s
  | .hsub d a b => Sys2Proof.Machine.execHsub d a b s
  | .hmul d a b => Sys2Proof.Machine.execHmul d a b s
  | .hmin d a b => Sys2Proof.Machine.execHmin d a b s
  | .hmax d a b => Sys2Proof.Machine.execHmax d a b s
  | .hfma d a b => Sys2Proof.Machine.execHfma d a b s
  | .f2iI32 d a => Sys2Proof.Machine.execF2iI32 d a s
  | .f2iN32 d a => Sys2Proof.Machine.execF2iN32 d a s
  | .i2fI32 d a => Sys2Proof.Machine.execI2fI32 d a s
  | .i2fN32 d a => Sys2Proof.Machine.execI2fN32 d a s
  | .h2fLo d a => Sys2Proof.Machine.execH2fLo d a s
  | .h2fHi d a => Sys2Proof.Machine.execH2fHi d a s
  | .f2h d a b => Sys2Proof.Machine.execF2h d a b s
  | .frcp d a => Sys2Proof.Machine.execFrcp d a s
  | .frsq d a => Sys2Proof.Machine.execFrsq d a s
  | .fsqrt d a => Sys2Proof.Machine.execFsqrt d a s
  | .fexp2 d a => Sys2Proof.Machine.execFexp2 d a s
  | .flog2 d a => Sys2Proof.Machine.execFlog2 d a s
  | .fsin d a => Sys2Proof.Machine.execFsin d a s
  | .fcos d a => Sys2Proof.Machine.execFcos d a s
  | .ffma d a b c => Sys2Proof.Machine.execFfma d a b c s
  | .imad d a b c => Sys2Proof.Machine.execImad d a b c s
  | .ld d a b w byp => Sys2Proof.Machine.execLd d a b w byp s
  | .ldVaryingAddress d a w byp => Sys2Proof.Machine.execLdVaryingAddress d a w byp s
  | .st d a b w => Sys2Proof.Machine.execSt d a b w s
  | .stVaryingAddress d a w => Sys2Proof.Machine.execStVaryingAddress d a w s
  | .ldc d a b m byp => Sys2Proof.Machine.execLdc d a b m byp s
  | .ldcVaryingAddress d a m byp => Sys2Proof.Machine.execLdcVaryingAddress d a m byp s
  | .stc d a b m => Sys2Proof.Machine.execStc d a b m s
  | .stcVaryingAddress d a m => Sys2Proof.Machine.execStcVaryingAddress d a m s
  | .ldp d a b w => Sys2Proof.Machine.execLdp d a b w s
  | .stp d a b w => Sys2Proof.Machine.execStp d a b w s
  | .boset a b => Sys2Proof.Machine.execBoset a b s
  | .boadd a b => Sys2Proof.Machine.execBoadd a b s
  | .bowait a b => Sys2Proof.Machine.execBowait a b s
  | .bopoll d a b => Sys2Proof.Machine.execBopoll d a b s
  | .bar => Sys2Proof.Machine.execBar s
  | .pref a => Sys2Proof.Machine.execPref a s
  | .atomAddI32 d a b o => Sys2Proof.Machine.execAtomAddI32 d a b o s
  | .atomAddF32 d a b o => Sys2Proof.Machine.execAtomAddF32 d a b o s
  | .atomMinI32 d a b o => Sys2Proof.Machine.execAtomMinI32 d a b o s
  | .atomMinN32 d a b o => Sys2Proof.Machine.execAtomMinN32 d a b o s
  | .atomMaxI32 d a b o => Sys2Proof.Machine.execAtomMaxI32 d a b o s
  | .atomMaxN32 d a b o => Sys2Proof.Machine.execAtomMaxN32 d a b o s
  | .atomXchg d a b o => Sys2Proof.Machine.execAtomXchg d a b o s
  | .atomCas d a b o => Sys2Proof.Machine.execAtomCas d a b o s
  | .atomAnd d a b o => Sys2Proof.Machine.execAtomAnd d a b o s
  | .atomOr d a b o => Sys2Proof.Machine.execAtomOr d a b o s
  | .atomXor d a b o => Sys2Proof.Machine.execAtomXor d a b o s
  | .qpush a b => Sys2Proof.Machine.execQpush a b s
  | .qpushUniform a b => Sys2Proof.Machine.execQpushUniform a b s
  | .qpop d a => Sys2Proof.Machine.execQpop d a s
  | .qpopUniform d a => Sys2Proof.Machine.execQpopUniform d a s
  | .qpopElect d a => Sys2Proof.Machine.execQpopElect d a s
  | .fence o q => Sys2Proof.Machine.execFence o q s
  | .cpy a b => Sys2Proof.Machine.execCpy a b s
  | .gather a b => Sys2Proof.Machine.execGather a b s
  | .scatter a b => Sys2Proof.Machine.execScatter a b s
  | .mma a b => Sys2Proof.Machine.execMma a b s
  | .mmadrain a b => Sys2Proof.Machine.execMmadrain a b s
  | .idxwalk a b => Sys2Proof.Machine.execIdxwalk a b s
  | .cstore a b => Sys2Proof.Machine.execCstore a b s
  | .cload a b => Sys2Proof.Machine.execCload a b s
  | .coll a b => Sys2Proof.Machine.execColl a b s
  | .batchCopy d => Sys2Proof.Machine.execBatchCopy d s
  | .batchGather d => Sys2Proof.Machine.execBatchGather d s
  | .batchMatrix d => Sys2Proof.Machine.execBatchMatrix d s
  | .batchIndex d => Sys2Proof.Machine.execBatchIndex d s
  | .batchColl d => Sys2Proof.Machine.execBatchColl d s
  | .bwaitCopy a => Sys2Proof.Machine.execBwaitCopy a s
  | .bwaitGather a => Sys2Proof.Machine.execBwaitGather a s
  | .bwaitMatrix a => Sys2Proof.Machine.execBwaitMatrix a s
  | .bwaitIndex a => Sys2Proof.Machine.execBwaitIndex a s
  | .bwaitColl a => Sys2Proof.Machine.execBwaitColl a s
  | .bstatCopy d a => Sys2Proof.Machine.execBstatCopy d a s
  | .bstatGather d a => Sys2Proof.Machine.execBstatGather d a s
  | .bstatMatrix d a => Sys2Proof.Machine.execBstatMatrix d a s
  | .bstatIndex d a => Sys2Proof.Machine.execBstatIndex d a s
  | .bstatColl d a => Sys2Proof.Machine.execBstatColl d a s
  | .kenc d a => Sys2Proof.Machine.execKenc d a s
  | .kdec d a => Sys2Proof.Machine.execKdec d a s
  | .klevel d a => Sys2Proof.Machine.execKlevel d a s
  | .kparent d a => Sys2Proof.Machine.execKparent d a s
  | .kchild d a b => Sys2Proof.Machine.execKchild d a b s
  | .klocate d a => Sys2Proof.Machine.execKlocate d a s
  | .kowner d a => Sys2Proof.Machine.execKowner d a s
  | .knbrXm d a => Sys2Proof.Machine.execKnbrXm d a s
  | .knbrXp d a => Sys2Proof.Machine.execKnbrXp d a s
  | .knbrYm d a => Sys2Proof.Machine.execKnbrYm d a s
  | .knbrYp d a => Sys2Proof.Machine.execKnbrYp d a s
  | .knbrZm d a => Sys2Proof.Machine.execKnbrZm d a s
  | .knbrZp d a => Sys2Proof.Machine.execKnbrZp d a s
  | .krefine d a => Sys2Proof.Machine.execKrefine d a s
  | .kcoarsen d a => Sys2Proof.Machine.execKcoarsen d a s
  | .kcost a b => Sys2Proof.Machine.execKcost a b s
  | .kcommit => Sys2Proof.Machine.execKcommit s
  | .krebal d a => Sys2Proof.Machine.execKrebal d a s
  | .ordb => Sys2Proof.Machine.execOrdb s
  | .orde => Sys2Proof.Machine.execOrde s
  | .ordstat d => Sys2Proof.Machine.execOrdstat d s
  | .rinvKey d a b => Sys2Proof.Machine.execRinvKey d a b s
  | .rinvPkg d a b => Sys2Proof.Machine.execRinvPkg d a b s
  | .rinvHdl d a b => Sys2Proof.Machine.execRinvHdl d a b s
  | .rawait d a b => Sys2Proof.Machine.execRawait d a b s
  | .rawaitTrap d a => Sys2Proof.Machine.execRawaitTrap d a s
  | .rpoll d a => Sys2Proof.Machine.execRpoll d a s
  | .rdrop a => Sys2Proof.Machine.execRdrop a s
  | .sysrd d a => Sys2Proof.Machine.execSysrd d a s
  | .syswr a b => Sys2Proof.Machine.execSyswr a b s
  | .tlbfill a b => Sys2Proof.Machine.execTlbfill a b s
  | .tlbinv a => Sys2Proof.Machine.execTlbinv a s
  | .logrd d a => Sys2Proof.Machine.execLogrd d a s
  | .eret => Sys2Proof.Machine.execEret s
  | .clock d => Sys2Proof.Machine.execClock d s
  | .timewait a => Sys2Proof.Machine.execTimewait a s

end Sys2Proof.Machine
end

