-- ==== Sys2Proof/Machine/Schedule.lean ====
section
/-! DEFINITION. Which agent moves when State.sched names none (DESIGN CHOICE, log entry 2): an enabled internal event first, else a
group, in turn, else time passes. -/

namespace Sys2Proof.Machine

/-- A step of the package's own agents that may be due, with what it would do. -/
abbrev Due := Instr × (State → Option State)

/-- The steps of one issued instruction of a group. -/
def dueOfPend (gid : Nat) (p : Pend) : List Due :=
  let on := fun (f : State → Pend → Option State) (s : State) =>
    (f { s with cur := gid } p).map (fun s' => { s' with cur := s.cur })
  if p.missed then [(.logReissue gid p.id, on tryReissue), (.hostAccessTimeout gid p.id, on tryHostTimeout)]
  else match p.body with
    | .write => [(.fbInstructionComplete gid p.id, on tryWrite)]
    | .replay => [(.subnormalReplayDone gid p.id, on tryReplay)]
    | .qpush _ _ | .qpop _ _ => [(.queueOpServe gid p.id, on tryQueue)]
    | .timewait _ => [(.timewaitExpire gid p.id, on tryTimewait)]
    | _ => [(.memoryAccessComplete gid p.id, on tryPend), (.hostAccessTimeout gid p.id, on tryHostTimeout)]

/-- The steps of the groups' issued instructions and held requests, and of their end. -/
def dueOfGroups (s : State) : List Due :=
  s.groups.flatMap (fun e => e.2.pends.flatMap (dueOfPend e.1)) ++
  s.groups.flatMap (fun e => [(.heldRequestEffect e.1, fun s => tryHeld s e.1), (.groupRetire e.1, fun s => tryRetire s e.1)])

/-- The steps of store-gathering buffers: entries on their way home. -/
def dueOfBuffers (s : State) : List Due :=
  s.cores.flatMap (fun e => e.2.sgb.filterMap (fun x => if x.sent then
    some (.homeAcknowledge e.1 x.seq, fun s => tryHome s e.1 x.seq) else none))

/-- An engine takes a command from its queue. -/
def stateOf (o : Host.Outcome State Fault Refusal) : Option State :=
  match o with
  | .next s => some s
  | _ => none

/-- The steps of the engines. -/
def dueOfEngines (s : State) : List Due :=
  s.cmds.flatMap (fun c =>
    [(.engineAccept c.id, fun s => stateOf (execEngineAccept c.id s)),
     (.engineResume c.id, fun s => stateOf (execEngineResume c.id s)),
     (.boArrival c.id, fun s => stateOf (execBoArrival c.id s)),
     (.engineCommandComplete c.id, fun s => stateOf (execEngineCommandComplete c.id s)),
     (.collMatch c.id (wordOf c.desc 4).toNat, fun s => stateOf (execCollMatch c.id (wordOf c.desc 4).toNat s)),
     (.collTimeout c.id, fun s => stateOf (execCollTimeout c.id s))])

/-- The steps of the walkers and of the pool banks. -/
def dueOfClusters (s : State) : List Due :=
  s.clusters.flatMap (fun e =>
    [(.walkerStart e.1, fun s => tryWalk s e.1), (.walkerTimeout e.1, fun s => tryWalkEnd s e.1)] ++
    e.2.banks.map (fun b => (.bankroleSwitch e.1 b.1, fun s => tryBank s e.1 b.1)))

/-- The steps of handles and invocations. -/
def dueOfHandles (s : State) : List Due :=
  s.results.map (fun m => (.handleResultArrive m.id, fun s => stateOf (execHandleResultArrive m.id s))) ++
  s.invs.flatMap (fun r => (startCores s r).map (fun c => (.serviceStart r.inv.id c, fun s => tryService s r.inv.id c))) ++
  s.handles.filterMap (fun e => if e.2.state = .pending then
    some (.handleTimeout (e.1 / 65536) (e.1 % 65536), fun s => tryTimeout s (e.1 / 65536) (e.1 % 65536)) else none)

/-- The cores at which a dealer may act for a task: where no core takes its next team, one stands for all. -/
def placeCores (s : State) (tid : Nat) (t : Task) : List Nat :=
  match workOf s tid t with
  | none => []
  | some w => if passedOver s tid t then [] else if placeable s t w then List.range 768 else [0]

/-- The steps of barriers, of the keyspace and of the dealers. -/
def dueOfTasks (s : State) : List Due :=
  s.teams.flatMap (fun e =>
    [(.teamBarrierComplete e.1, fun s => tryBarrier s e.1), (.teamSaveDone e.1, fun s => trySaveDone s e.1)]) ++
  s.tasks.flatMap (fun e =>
    [(.weirRebuildComplete e.1, fun s => tryRebuild s e.1), (.ordBarrierComplete e.1, fun s => tryOrdBarrier s e.1),
     (.rebalanceSnapshotComplete e.1, fun s => trySnapshot s e.1)] ++
    (match e.2.rebal with
     | some r => r.moves.flatMap (fun m =>
        [(.migrationCopyStart e.1 m.key, fun s => tryCopyStart s e.1 m.key),
         (.migrationCopyComplete e.1 m.key, fun s => tryCopyEnd s e.1 m.key)]) ++
        [0, 1, 2, 3].map (fun q => (.quarterSwitch e.1 q, fun s => trySwitch s e.1 q))
     | none => []) ++
    (placeCores s e.1 e.2).map (fun c => (.teamPlace e.1 c, fun s => tryPlace s e.1 c))) ++
  s.dev.oppNext.map (fun e => (.oppStable e.1, fun s => tryOpp s e.1)) ++
  s.mailboxes.map (fun e => (.mailboxAccept e.1, fun s => tryAccept s e.1))

/-- The steps of the fabric and of attestation that need nothing from outside. -/
def dueOfFabric (s : State) : List Due :=
  s.streams.flatMap (fun e =>
    [(.messageRetryResend e.1, fun s => tryRetry s e.1), (.fabricTimeout e.1, fun s => tryFabricTimeout s e.1)]) ++
  s.ports.flatMap (fun e =>
    [(.flitResendTimeout e.1, fun s => tryFlitTimeout s e.1), (.portDown e.1, fun s => tryPortDown s e.1)]) ++
  s.dev.attreq.map (fun e => (.attestReportReady e.1, fun s => stateOf (execAttestReportReady e.1 s)))

/-- Stores that have waited 256 clk in a buffer (R309, R343). -/
def dueOfWaits (s : State) : List Due :=
  s.cores.flatMap (fun e => e.2.sgb.filterMap (fun x => if x.sent then none
    else some (.sgbEntryTimeout e.1 x.seq, fun s => trySgbTimeout s e.1 x.seq)))

/-- The first of some steps that changes the machine. -/
def firstDue (s : State) (ds : List Due) : Option Instr :=
  (ds.find? (fun d => match d.2 s with | some s' => s' != s | none => false)).map (fun d => d.1)

/-- The first internal event that is enabled. -/
def nextInternal (s : State) : Option Instr :=
  firstDue s (dueOfBuffers s ++ dueOfGroups s ++ dueOfEngines s ++ dueOfClusters s ++ dueOfHandles s ++ dueOfTasks s ++
    dueOfFabric s ++ dueOfWaits s)

/-- A group can take its turn: it has a clause open, can start one, has a boundary cause to take, or its current split
cannot start a clause while another can (R130, R131). -/
def State.canAct (s : State) (gid : Nat) : Bool :=
  let g := s.group gid
  g.kind != .vacant && (g.clause.isSome || s.chosen gid || g.takesCause ||
    (s.mayStart g && !splitReady s g g.split && siblingAble s g))

/-- The groups in turn, from the one after the group that moved last. -/
def State.turnOrder (s : State) : List Nat :=
  let ids := mkeys s.groups
  ids.filter (fun k => decide (s.cur < k)) ++ ids.filter (fun k => decide (k ≤ s.cur))

/-- The turn since which a group can start a clause (R374), 0 while it cannot. -/
def readyAt (s : State) (g : Group) : Nat :=
  if s.canStart g then (if g.ready = 0 then s.turns else g.ready) else 0

/-- Bytes of the record places that a task takes at a slice: pre-phase copies and records. -/
def placeBytes (t : Task) (slice : Nat) : List Byte :=
  t.lines.flatMap (fun e => if sliceOf e.1 = slice then e.2.pre ++ e.2.recs.flatMap WeirRec.bytes else [])

/-- The bytes of a task's records that found no place in their slices. -/
def spillBytes (s : State) (t : Task) : List Byte :=
  (((t.lines.map (fun e => sliceOf e.1)).eraseDups.flatMap (fun k =>
    let bs := placeBytes t k
    bs.drop (bs.length - 16 * (slicePlaces s k - 4096)))).take (16 * t.spilled))

/-- Spilled records stand in the free part of the task's context region while its phase lasts (R400). -/
def keepSpill (old : Option Task) (tid : Nat) (t : Task) (s : State) : State :=
  if t.spilled = 0 then (if t.spillArea = [] then s else s.setTask tid { t with spillArea := [] })
  else if old.map (·.lines) = some t.lines then s
  else
    let area := t.spillArea ++ s.newArea t.mailbox (16 * t.spilled - areaSize t.spillArea)
    (s.setTask tid { t with spillArea := area }).putArea area 0 (spillBytes s t)

/-- The handle tables in memory follow the entries (R418). -/
def keepHandles (before s : State) : State :=
  (s.handles.filter (fun e => mget before.handles e.1 != some e.2)).foldl (fun s e =>
    { s with mem := bsplice s.mem (handleAddr (e.1 / 65536) (e.1 % 65536)) e.2.bytes }) s

/-- What the package keeps up to date after each turn: since when each group can start a clause (R374), and the bytes of
parked-split records, operand logs, spilled weir records and handle tables in memory (R38, R39, R400, R418). -/
def afterTurn (before s : State) : State :=
  let s := { s with groups := mmap (fun _ g => { g with ready := readyAt s g }) s.groups, turns := s.turns + 1 }
  let s := s.groups.foldl (fun s e => if e.2.area = [] then s else keepRecords (before.group e.1) e.2 s) s
  let s := s.tasks.foldl (fun s e => keepSpill (before.task? e.1) e.1 e.2 s) s
  keepHandles before s

/-- Time passes (R299): CLOCK counts nanoseconds and never runs back (DESIGN CHOICE, log entry 14). -/
def State.pass (s : State) (ns : Nat) : State :=
  { s with clock := BitVec.ofNat 64 (min (s.clock.toNat + ns) (2 ^ 64 - 1)) }

/-- The times that something waits for. -/
def deadlines (s : State) : List Nat :=
  s.groups.flatMap (fun e => e.2.pends.flatMap (fun p =>
    (match p.body with | .timewait t => [t.toNat] | _ => []) ++
    (match hostWaits p with | some _ => [(addNs p.born (hostTimeoutNs s.dev)).toNat] | none => []))) ++
  s.clusters.flatMap (fun e => match e.2.walk with | some (_, t) => [t.toNat] | none => []) ++
  s.handles.flatMap (fun e => if e.2.state = .pending then [e.2.deadline.toNat] else []) ++
  s.streams.flatMap (fun e => (e.2.resendAt.toNat :: e.2.kept.map (fun k => k.2.2.toNat)).filter (fun t => decide (t < 2 ^ 64 - 1))) ++
  s.ports.flatMap (fun e => if e.2.up && !e.2.kept.isEmpty && decide (e.2.resends < 16) then [e.2.due.toNat] else []) ++
  s.cmds.flatMap (fun c => if c.sub = 8 then [c.deadline.toNat] else []) ++
  s.cores.flatMap (fun e => e.2.sgb.flatMap (fun x => if x.sent then [] else [x.due.toNat]))

/-- How far time passes when nothing can move: to the next deadline, or one nanosecond. -/
def idleTime (s : State) : Nat :=
  match (deadlines s).filter (fun t => decide (s.clock.toNat < t)) with
  | [] => 1
  | t :: ts => ts.foldl min t - s.clock.toNat

/-- The illegal-instruction trap of a word that does not decode (R84, R81, R77, R94). -/
def illegalWord (s : State) (w : Word) (r : Reject) : State :=
  let detail := match r with | .reservedCell => 2 | .unusedField => 3 | .truncated => 8
  enterHandler s (tcauseWord true detail 1) w s.G.wordPc 0 1 none true none

/-- A word that cannot be fetched: the fault at that word (R320, R300). -/
def fetchFault (s : State) (cause : Nat) : State :=
  let pc := match s.G.clause with
    | some c => c.start + 4 * BitVec.ofNat 64 (c.words.length + 1)
    | none => s.G.split.pc
  enterHandler s (tcauseWord true 0 cause) 0 s.G.wordPc pc 1 none true none

/-- The page that `placeWord` puts its text in. -/
def placePage : Nat := 16

/-- A leaf for that page: valid, readable, writable, executable, open to level 0, every part resident. -/
def placeLeaf : BitVec 128 :=
  (BitVec.allOnes 32 ++ (0 : BitVec 32) ++ (0 : BitVec 20) ++ BitVec.ofNat 31 placePage ++ (0 : BitVec 7) ++
    (0x1F : BitVec 6) : BitVec 128)

/-- Words of the instruction that starts with a word. -/
def placeLen (w : Nat) : Nat := 1 + litsOfWord (BitVec.ofNat 32 w)

/-- A launch record with nothing in it but its text address. -/
def placeRecord : Record :=
  { ctrl := 0, nteams := 1, text := BitVec.ofNat 64 (placePage * 2 ^ 21), thand := 0, pool := 0, accum := 0x10000,
    qcount := 0, qtab := 0, kspace := 0, roles := [], succ := 0, args := [], waits := [], sigs := [], result := 0,
    seq := 1 }

def placeTask : Task :=
  { record := placeRecord, mailbox := 0, slot := 0, succOf := none, dealer := 0, stage := .started, readyAt := 0,
    plan := [], placed := 1, thand := 0, text := [], killed := false, anyKill := false, flr := false, kdesc := none,
    versions := [], rebal := none, phaseNo := 0, inPhase := false, endNo := 0, spill := false,
    conflicts := 0, lines := [], spilled := 0, spillArea := [], begun := false, wrote := [], notes := [], early := [], racy := false }

def placeTeam : Team :=
  { task := 1, index := 0, key := 0, cores := [0], scratch := [], fifo := [], cache := [], accUnits := 0, accTiles := [],
    groups := [1], bars := 0, staged := [], startNo := 0, ctxBytes := 0, saving := false, saved := false,
    area := [], saveRoles := [] }

/-- Puts an instruction where the next step fetches it (Step.lean, State.withFetchWord; DESIGN CHOICE, log entry 33). -/
def placeWord (s : State) (w : Nat) : State :=
  let base := placePage * 2 ^ 21
  let text := leBytes 16 (w * 2 ^ 32)
  let gid := if s.cur = 0 then 1 else s.cur
  let g := Group.start .started 32 124 0 0 0 1 1 1 0 (BitVec.ofNat 64 base) (BitVec.ofNat 64 base) 0 0 [] 0 0 []
  let g := { g with clause := some ⟨BitVec.ofNat 64 base, placeLen w, 0, 15, 15, 0, 0, false, []⟩ }
  let s := s.setGroup gid g
  let mem := bputN s.mem base text
  { s with
    cur := gid, sched := [.issue gid],
    mem := mem,
    teams := mput s.teams 1 placeTeam,
    tasks := mput s.tasks 1 { placeTask with text := mem },
    clusters := mput s.clusters 0 { (s.cluster 0) with
      tlb := [⟨1, placePage, placeLeaf⟩] },
    dev := { s.dev with access := mput s.dev.access 80 ((0xFFFFFFFFFF : BitVec 40) ++ (0 : BitVec 40) ++ (7 : BitVec 48)) } }

end Sys2Proof.Machine
end

