-- ==== Sys2Proof/Machine/Step.lean ====
section
/-! DEFINITION. One step of the package: one turn of one agent (DESIGN CHOICE, log entry 2). A turn of a group is CLAUSE_START, one word
of its clause, or CLAUSE_BOUNDARY. -/

namespace Sys2Proof.Machine

noncomputable section

/-- Fetches, decodes and runs the word at the group's place in its clause (R75, R77, R84, R94). A word that the decoder refuses is
checked when it would issue too (R78): one of an assigned cell waits for its operands and its flag. -/
def runWord (s : State) : Host.Outcome State Fault Refusal :=
  match fetchInstr s with
  | (.word w, ws, s1) =>
    match decode (ws ++ [0, 0]) with
    | .ok (i, _) => exec i s1
    | .error r =>
      if s1.G.blocked || (cellShape ws).any s1.G.notReady then .next s1 else .next (illegalWord s1 w r)
  | (.fault c, _, s1) => .next (fetchFault s1 c)
  | (.miss, _, s1) => .next s1

/-- A turn of a group. In a clause that it left its seat in, it waits for the seat (R121). -/
def runGroup (gid : Nat) (s : State) : Host.Outcome State Fault Refusal :=
  let s := { s with cur := gid }
  match s.G.clause with
  | none => if s.chosen gid then exec .clauseStart s else exec .clauseBoundary s
  | some c =>
    if s.seatTaken gid s.G then .next s
    else
      let s := if s.G.off && !s.G.offSeat then s.setG { s.G with off := false } else s
      if c.len ≤ c.pos then exec .clauseBoundary s else runWord s

/-- A turn. -/
def turn (t : Turn) (s : State) : Host.Outcome State Fault Refusal :=
  match t with
  | .issue gid => runGroup gid s
  | .event i => exec i s
  | .tick ns => .next (s.pass ns)
  | .hostRead master w off n => .next (hostRead s master w off n).2
  | .configWrite master function off => .next (configWrite s master function off)
  | .quarterDown q down => .next (fabricQuarter s q down)

/-- The state after a turn, with what the package keeps up to date by itself. -/
def settled (s : State) : Host.Outcome State Fault Refusal → Host.Outcome State Fault Refusal
  | .next t => .next (afterTurn s t)
  | o => o

/-- A group's turn would change the machine. -/
def groupMoves (s : State) (gid : Nat) : Bool :=
  s.canAct gid && (match runGroup gid s with
    | .next s' => { s' with cur := s.cur } != s
    | _ => true)

/-- What happens when no turn is named: an event of the package's own agents that is due; else a group's turn; else time
passes. -/
def defaultTurn (s : State) : Turn :=
  match nextInternal s with
  | some i => .event i
  | none =>
    match s.turnOrder.find? (groupMoves s) with
    | some gid => .issue gid
    | none => .tick (idleTime s)

/-- One step: the turn that `sched` names, or the default turn, which takes a nanosecond; then what the package keeps up to
date by itself. -/
def step (s : State) : Host.Outcome State Fault Refusal :=
  settled s (match s.sched with
    | t :: rest => turn t { s with sched := rest }
    | [] => turn (defaultTurn s) (s.pass 1))

/-- The state with an instruction's words where the next step fetches (the bits above `nbits` zero). The current group
becomes a resident group of a launched task, with a clause open whose words are exactly the instruction's, its
text in memory and in the task's text snapshot, its page in the cluster TLB. -/
def State.withFetchWord (s : State) (nbits w : Nat) : State := placeWord s (w % 2 ^ nbits)

end

end Sys2Proof.Machine
end

