-- ==== Sys2Proof/Safety.lean ====
section
/-! DEFINITION. What counts as a safe run: the machine never stops. Every exception of the M7 is taken as a next
state, so a run that stops would be a fault of the model. -/

namespace Sys2Proof

open Machine

/-- The step answers a next state. -/
def Goes (s : State) : Prop := ∃ t, step s = .next t

end Sys2Proof
end

