-- ==== Sys2Proof/WellFormed.lean ====
section
/-! DEFINITION. Well-formed instructions: every operand field of an encoded instruction holds a legal value of its
kind (R80, R84) under the largest budget (R22); the numbers an event row names lie in the ranges of the machine
(R1, R39, R359, R365, R407, R426). -/

namespace Sys2Proof

/-- The ranges of the numbers in a row without an encoding. -/
def Instr.eventOk : Instr → Bool
  | .bankroleSwitch cl b => cl < 96 && b < 64
  | .homeAcknowledge core _ => core < 768
  | .sgbEntryTimeout core _ => core < 768
  | .walkerStart cl => cl < 96
  | .walkerTimeout cl => cl < 96
  | .quarterSwitch _ q => q < 4
  | .serviceStart _ core => core < 768
  | .handleTimeout q ix => q < 4 && ix < 65536
  | .mailboxAccept m => m < 512
  | .teamPlace _ core => core < 768
  | .oppStable q => q < 4
  | .counterSet m c _ => m < 65 && c < 4096
  | .counterAdd m c _ => m < 65 && c < 4096
  | .counterReset m c _ => m < 65 && c < 4096
  | .mailboxKill m b _ => m < 65 && b < 512
  | .flitReceive p f => p < 16 && f.length == 256
  | .flitResendTimeout p => p < 16
  | .portDown p => p < 16
  | .portRetrainComplete p => p < 16
  | .functionLevelReset v => v < 64
  | .claim m _ => m < 65
  | .give m _ => m < 65
  | .take m _ => m < 65
  | .minptWrite m _ => m < 65
  | .mgmtRegisterWrite m off d => m < 65 && off + d.length ≤ 0x1000000
  | .attestRequest m n => m < 65 && n.length == 32
  | .attestReportReady m => m < 65
  | .thermalThrottle q => q < 4
  | .mailboxSlotWrite m b off d => m < 65 && b < 512 && off + d.length ≤ 0x2000
  | _ => true

/-- A well-formed instruction. -/
def Instr.wellFormed (i : Instr) : Bool :=
  match i.shape with
  | some sh => (sh.fieldFault 124).isNone
  | none => i.eventOk

end Sys2Proof
end

