-- ==== Sys2Proof/Certificates/Slice0/Obligations.lean ====
section
/-! DEFINITION. The statements for the provers. First the words they share: when a word issues, what it leaves alone, and
the spec's result of each instruction, written from its rules. Log entries are named where a clause rests on a choice of
the model. -/

namespace Sys2Proof.Claims

open Sys2Proof.Machine

/-! ### When a word issues, and what it leaves alone -/

/-- The word of `i` issues in the current group: a clause is open, no held request, full log or waiting mask write keeps
the group from issuing (R326, R38, R41), no check of R94 fails, its operands are ready (R41, R121) and its flag can count one more (R35),
and the word is not a reissued one (R305, R324). -/
def Issues (i : Instr) (s : State) : Prop :=
  ∃ sh c, i.shape = some sh ∧ s.G.clause = some c ∧ s.G.blocked = false ∧ issueCode s.G c sh = none ∧
    s.G.notReady sh = false ∧ s.G.ovr = none ∧ s.G.again = none ∧ s.G.after = []

/-- Everything but the groups is unchanged, and every group but the current one. -/
def GroupOnly (s t : State) : Prop :=
  { t with groups := s.groups } = s ∧ ∀ k, k ≠ s.cur → mget t.groups k = mget s.groups k

/-- The clause stands behind the words of `i`, with the temporaries that `i` writes counted as written (R24, R75). -/
def ClauseMoved (i : Instr) (s t : State) : Prop :=
  ∃ sh c, i.shape = some sh ∧ s.G.clause = some c ∧
    t.G.clause = some { c with pos := c.pos + 1 + sh.lits.length, tw := c.tw ||| tempBits sh.dsts }

/-- A pending instruction without the marks of R42. -/
def unmarked (p : Pend) : Pend := { p with killed := [] }

/-- The issued instructions are the same, but for marks that a later write overtakes one of their results (R42). -/
def PendsKept (s t : State) : Prop := t.G.pends.map unmarked = s.G.pends.map unmarked

/-- The list of registers that a handler has written (R302) grows in a handler alone. -/
def HiddenKept (s t : State) : Prop := s.G.frame = none → t.G.hidden = s.G.hidden

/-- A word of `i` changes nothing but the parts of the current group that `g` takes from `t`, its clause, the marks of
R42, and in a handler the list of the registers it has written. -/
def Frame (i : Instr) (s t : State) (g : Group) : Prop :=
  t.G = { g with clause := t.G.clause, pends := t.G.pends, hidden := t.G.hidden } ∧ GroupOnly s t ∧ ClauseMoved i s t ∧
  PendsKept s t ∧ HiddenKept s t

/-! ### Registers as numbers -/

/-- A uniform register as a signed and as an unsigned number, and a pair as a number. -/
def sv (g : Group) (n : F7) : Int := (g.uni n.toNat).toInt
def nv (g : Group) (n : F7) : Nat := (g.uni n.toNat).toNat
def pv (g : Group) (n : F7) : Nat := nv g n + 2 ^ 32 * (g.uni (n.toNat + 1)).toNat

/-- A lane of a varying register as a signed and as an unsigned number. -/
def lv (g : Group) (n : F7) (i : Nat) : Int := ((g.row n.toNat).at i).toInt
def lw (g : Group) (n : F7) (i : Nat) : Nat := ((g.row n.toNat).at i).toNat

/-- An affine register, and its exact lane value E(a, i) (chapter 06). -/
def av (g : Group) (n : F7) : Aff := mgetD g.a n.toNat ⟨0, 0⟩
def ev (g : Group) (n : F7) (i : Nat) : Int := (av g n).base.toInt + (av g n).stride.toInt * i

/-- A predicate in a lane. -/
def pb (g : Group) (n : F7) (i : Nat) : Bool := (g.pred n.toNat).getLsbD i

/-- sat(x) to the signed and to the unsigned 32-bit range (R9). -/
def satI (x : Int) : Word := wrap (sat x (-2 ^ 31) (2 ^ 31 - 1)) 32
def satN (x : Int) : Word := wrap (sat x 0 (2 ^ 32 - 1)) 32

/-- 1 when a relation holds, else 0. -/
def one (p : Prop) [Decidable p] : Word := if p then 1 else 0

/-- The number of set bits of a word, and of zero bits above its highest set bit. -/
def ones (x : Nat) : Nat := ((List.range 32).filter (fun k => x / 2 ^ k % 2 == 1)).length
def zerosAbove (x : Nat) : Nat := ((List.range 32).filter (fun k => x < 2 ^ k)).length

/-! ### What a word writes -/

/-- The results of a word: uniform registers, lanes of varying registers and predicates, affine registers, lanes of index
registers. -/
structure Out where
  unis  : List (Nat × Word) := []
  rows  : List (Nat × (Nat → Word)) := []
  preds : List (Nat × (Nat → Bool)) := []
  affs  : List (Nat × Aff) := []
  idx   : List (Nat × (Nat → Word)) := []

/-- The result for one register. -/
def look {α : Type} (l : List (Nat × α)) (n : Nat) : Option α := (l.find? (fun e => e.1 == n)).map Prod.snd

/-- The result for one lane of a register, or what the lane held: only active lanes take results (R25). -/
def laneOr {α : Type} (g : Group) (l : List (Nat × (Nat → α))) (n i : Nat) (old : α) : α :=
  if g.active.getLsbD i then ((look l n).map (fun f => f i)).getD old else old

/-- Some uniform result names s60 to s62. -/
def writesMask (o : Out) : Bool := o.unis.any (fun e => 60 ≤ e.1 && e.1 < 63)

/-- The registers of `g` hold the results `o` and every other register what `s` held; a result for s60 to s62 sets the
mask of the executing split under R17. -/
def Holds (s g : Group) (o : Out) : Prop :=
  (∀ n, n < 60 → g.uni n = (look o.unis n).getD (s.uni n)) ∧
  g.splits = (if writesMask o then mput s.splits s.cur { s.split with mask := s.masksAfter o.unis } else s.splits) ∧
  (∀ n i, i < 96 → (g.row n).at i = laneOr s o.rows n i ((s.row n).at i)) ∧
  (∀ n i, i < 96 → (g.pred n).getLsbD i = laneOr s o.preds n i ((s.pred n).getLsbD i)) ∧
  (∀ n, mgetD g.a n ⟨0, 0⟩ = (look o.affs n).getD (mgetD s.a n ⟨0, 0⟩)) ∧
  (∀ n i, i < 96 → (mgetD g.x n []).at i = laneOr s o.idx n i ((mgetD s.x n []).at i))

/-- The word of `i` has written the results `o`, and nothing else of the machine has changed. -/
def Written (i : Instr) (s t : State) (o : Out) : Prop :=
  Holds s.G t.G o ∧
  Frame i s t { s.G with
    s := t.G.s, splits := t.G.splits, v := t.G.v, t := t.G.t, p := t.G.p, a := t.G.a, x := t.G.x }

/-- What a pending instruction will write into one lane of a register. -/
def pendWord (p : Pend) (r : Reg) (i : Nat) : Option Word :=
  (p.writes.find? (fun w => w.reg == r)).bind (fun w => if w.lanes.getLsbD i then some (w.row.at i) else none)

/-- An issued instruction holds the results `o` of the lanes `m`, to be written when it completes. -/
def Promises (p : Pend) (m : Mask) (o : Out) : Prop :=
  (∀ n, pendWord p (.s n) 0 = look o.unis n) ∧
  (∀ n i, i < 96 → pendWord p (.v n) i = if m.getLsbD i then (look o.rows n).map (fun f => f i) else none) ∧
  (∀ n i, i < 96 → (pendWord p (.p n) i).map (· != 0) =
    if m.getLsbD i then (look o.preds n).map (fun f => f i) else none)

/-- The word of `i` has issued under flag `f`, if any: the flag counts it (R35), its results are pending, and no register has
changed. -/
def Promised (i : Instr) (s t : State) (f : Option Nat) (o : Out) : Prop :=
  GroupOnly s t ∧ ClauseMoved i s t ∧ ∃ p : Pend, Promises p s.G.active o ∧ p.id = s.G.nextId ∧ p.flag = f ∧
    p.done = false ∧ p.killed = [] ∧ (p.body = .write ∨ p.body = .replay) ∧
    t.G = { s.G.flagUp f with pends := s.G.pends ++ [p], nextId := s.G.nextId + 1, clause := t.G.clause }

/-- The results of a word that sets the clause's FB flag (R73): pending under it, or written at once when the clause
names none or s60 to s62 are written (R41). `slow`: a step of it meets a subnormal, so that its results are pending without
a flag too, until the replay (R103, R192). -/
def Delivered (i : Instr) (s t : State) (slow : Bool) (o : Out) : Prop :=
  if writesMask o then Written i s t o
  else match s.G.fb with
    | none => if slow then Promised i s t none o else Written i s t o
    | some f => Promised i s t (some f) o

/-- The whole group agrees on a uniform write: the split's mask is the live mask (R19), and the write leaves a lane in it
(R18). -/
def UniWritable (g : Group) (ws : List (Nat × Word)) : Prop := g.split.mask = g.live ∧ g.emptiesMask ws = false

/-- The lowest active lane. -/
def Lowest (g : Group) (i : Nat) : Prop := g.active.getLsbD i = true ∧ ∀ j, j < i → g.active.getLsbD j = false

/-! ### Uniform and affine instructions (06) -/

/-- The one-word results of class 001, from R150 to R153: destination and value. -/
def uniWord : Instr → Option (F7 × (Group → Word))
  | .sadd d a b => some (d, fun g => wrap (sv g a + sv g b) 32)
  | .ssub d a b => some (d, fun g => wrap (sv g a - sv g b) 32)
  | .smul d a b => some (d, fun g => wrap (sv g a * sv g b) 32)
  | .smulhiI32 d a b => some (d, fun g => wrap (sv g a * sv g b / 2 ^ 32) 32)
  | .smulhiN32 d a b => some (d, fun g => BitVec.ofNat 32 (nv g a * nv g b / 2 ^ 32))
  | .sdivI32 d a b => some (d, fun g => if nv g b = 0 then 0xFFFFFFFF else wrap ((sv g a).tdiv (sv g b)) 32)
  | .sdivN32 d a b => some (d, fun g => if nv g b = 0 then 0xFFFFFFFF else BitVec.ofNat 32 (nv g a / nv g b))
  | .sremI32 d a b => some (d, fun g => if nv g b = 0 then g.uni a.toNat else
      wrap (sv g a - (sv g a).tdiv (sv g b) * sv g b) 32)
  | .sremN32 d a b => some (d, fun g => if nv g b = 0 then g.uni a.toNat else
      BitVec.ofNat 32 (nv g a - nv g a / nv g b * nv g b))
  | .sminI32 d a b => some (d, fun g => wrap (min (sv g a) (sv g b)) 32)
  | .sminN32 d a b => some (d, fun g => BitVec.ofNat 32 (min (nv g a) (nv g b)))
  | .smaxI32 d a b => some (d, fun g => wrap (max (sv g a) (sv g b)) 32)
  | .smaxN32 d a b => some (d, fun g => BitVec.ofNat 32 (max (nv g a) (nv g b)))
  | .saddSatI32 d a b => some (d, fun g => satI (sv g a + sv g b))
  | .saddSatN32 d a b => some (d, fun g => satN (nv g a + nv g b))
  | .ssubSatI32 d a b => some (d, fun g => satI (sv g a - sv g b))
  | .ssubSatN32 d a b => some (d, fun g => satN (nv g a - nv g b))
  | .sand d a b => some (d, fun g => g.uni a.toNat &&& g.uni b.toNat)
  | .sor d a b => some (d, fun g => g.uni a.toNat ||| g.uni b.toNat)
  | .sxor d a b => some (d, fun g => g.uni a.toNat ^^^ g.uni b.toNat)
  | .sshl d a b => some (d, fun g => if 32 ≤ nv g b then 0 else BitVec.ofNat 32 (nv g a * 2 ^ nv g b))
  | .sshrN32 d a b => some (d, fun g => if 32 ≤ nv g b then 0 else BitVec.ofNat 32 (nv g a / 2 ^ nv g b))
  | .sshrI32 d a b => some (d, fun g => wrap (sv g a / 2 ^ min (nv g b) 31) 32)
  | .snot d a => some (d, fun g => wrap (-1 - sv g a) 32)
  | .spopc d a => some (d, fun g => BitVec.ofNat 32 (ones (nv g a)))
  | .sclz d a => some (d, fun g => BitVec.ofNat 32 (zerosAbove (nv g a)))
  | .smov d a => some (d, fun g => g.uni a.toNat)
  | .ssetEq d a b => some (d, fun g => one (nv g a = nv g b))
  | .ssetNe d a b => some (d, fun g => one (nv g a ≠ nv g b))
  | .ssetLtI32 d a b => some (d, fun g => one (sv g a < sv g b))
  | .ssetLeI32 d a b => some (d, fun g => one (sv g a ≤ sv g b))
  | .ssetLtN32 d a b => some (d, fun g => one (nv g a < nv g b))
  | .ssetLeN32 d a b => some (d, fun g => one (nv g a ≤ nv g b))
  | .slit d lit => some (d, fun _ => lit)
  | _ => none

/-- The two-word results (R153, R154, R159): destination of the low word, and the value. -/
def uniPair : Instr → Option (F7 × (Group → DWord))
  | .slit64 d lo hi => some (d, fun _ => BitVec.ofNat 64 (lo.toNat + 2 ^ 32 * hi.toNat))
  | .sadd64 d a b => some (d, fun g => BitVec.ofNat 64 (pv g a + pv g b))
  | .ssub64 d a b => some (d, fun g => wrap ((pv g a : Int) - pv g b) 64)
  | .sshl64 d a b => some (d, fun g => if 64 ≤ nv g b then 0 else BitVec.ofNat 64 (pv g a * 2 ^ nv g b))
  | .sshr64 d a b => some (d, fun g => if 64 ≤ nv g b then 0 else BitVec.ofNat 64 (pv g a / 2 ^ nv g b))
  | .atou d a => some (d, fun g => (av g a).base)
  | _ => none

/-- The low and the high word of a pair as two results (R3). -/
def pairOut (d : F7) (x : DWord) : Out := { unis := [(d.toNat, loWord x), (d.toNat + 1, hiWord x)] }

/-- A new affine register. -/
def affOf (base stride : Int) : Aff := ⟨wrap base 64, wrap stride 32⟩

/-- BASE and STRIDE as integers. -/
def bs (g : Group) (n : F7) : Int := (av g n).base.toInt
def st (g : Group) (n : F7) : Int := (av g n).stride.toInt

/-- 2^c as an affine shift uses it: 0 from a limit on (R155). -/
def pow2 (c limit : Nat) : Int := if limit ≤ c then 0 else 2 ^ c

/-- The results of class 010 with an affine destination (R155, R159). -/
def affVal : Instr → Option (F7 × (Group → Aff))
  | .aadd d a b => some (d, fun g => affOf (bs g a + bs g b) (st g a + st g b))
  | .asub d a b => some (d, fun g => affOf (bs g a - bs g b) (st g a - st g b))
  | .aaddC d a b => some (d, fun g => affOf (bs g a + bs g b) (st g a + st g b))
  | .asubC d a b => some (d, fun g => affOf (bs g a - bs g b) (st g a - st g b))
  | .amov d a => some (d, fun g => av g a)
  | .aaddu d a b => some (d, fun g => affOf (bs g a + sv g b) (st g a))
  | .asubu d a b => some (d, fun g => affOf (bs g a - sv g b) (st g a))
  | .amulu d a b => some (d, fun g => affOf (bs g a * sv g b) (st g a * sv g b))
  | .ashlu d a b => some (d, fun g => affOf (bs g a * pow2 (nv g b) 64) (st g a * pow2 (nv g b) 32))
  | .aadduC d a b => some (d, fun g => affOf (bs g a + sv g b) (st g a))
  | .asubuC d a b => some (d, fun g => affOf (bs g a - sv g b) (st g a))
  | .amuluC d a b => some (d, fun g => affOf (bs g a * sv g b) (st g a * sv g b))
  | .ashluC d a b => some (d, fun g => affOf (bs g a * pow2 (nv g b) 64) (st g a * pow2 (nv g b) 32))
  | .astride d a b => some (d, fun g => ⟨(av g a).base, g.uni b.toNat⟩)
  | .utoa d a => some (d, fun g => ⟨pair (g.uni a.toNat) (g.uni (a.toNat + 1)), 0⟩)
  | .lanea d => some (d, fun _ => ⟨0, 1⟩)
  | _ => none

/-- The exact result of a checked form in a lane (R157). -/
def affExact : Instr → Option (Group → Nat → Int)
  | .aaddC _ a b => some (fun g i => ev g a i + ev g b i)
  | .asubC _ a b => some (fun g i => ev g a i - ev g b i)
  | .aadduC _ a b => some (fun g i => ev g a i + sv g b)
  | .asubuC _ a b => some (fun g i => ev g a i - sv g b)
  | .amuluC _ a b => some (fun g i => ev g a i * sv g b)
  | .ashluC _ a b => some (fun g i => ev g a i * 2 ^ nv g b)
  | _ => none

/-- No lane of the group fails the range of a checked form (R157). -/
def InRange (i : Instr) (g : Group) : Prop :=
  ∀ f, affExact i = some f → ∀ k, k < g.width → -2 ^ 31 ≤ f g k ∧ f g k ≤ 2 ^ 31 - 1

/-- The lanes that fail it. -/
def OutOfRange (i : Instr) (g : Group) (m : Mask) : Prop :=
  ∃ f, affExact i = some f ∧ m ≠ 0 ∧ ∀ k, k < 96 →
    (m.getLsbD k = true ↔ k < g.width ∧ (f g k < -2 ^ 31 ∨ 2 ^ 31 - 1 < f g k))

/-- The word of `i` takes the empty-mask fault, cause 5, with the executing split's mask (R18, R146). -/
def EmptyFault (i : Instr) (s : State) : Prop :=
  ∃ sh, i.shape = some sh ∧ exec i s = .next (takePrecise s sh { Trap.of 5 with lanes := s.G.split.mask })

/-- The word that ELECT writes (R162): the lowest active lane with the predicate set, or 0xFFFF_FFFF. -/
def Elected (g : Group) (a : F7) (w : Word) : Prop :=
  (∃ k, w = BitVec.ofNat 32 k ∧ g.active.getLsbD k = true ∧ pb g a k = true ∧
    ∀ j, j < k → ¬(g.active.getLsbD j = true ∧ pb g a j = true)) ∨
  (w = 0xFFFFFFFF ∧ ∀ j, ¬(g.active.getLsbD j = true ∧ pb g a j = true))

/-! ### Varying instructions (07) -/

/-- The field position of R172: offset and width. -/
def fieldOf (b : Nat) : Nat × Nat := (b % 32, min (b / 256 % 64) (32 - b % 32))

/-- VBFE and VBFI of R172 on numbers. -/
def extractN (a b : Nat) : Nat := a / 2 ^ (fieldOf b).1 % 2 ^ (fieldOf b).2
def extractI (a b : Nat) : Int :=
  if extractN a b * 2 < 2 ^ (fieldOf b).2 then extractN a b else (extractN a b : Int) - 2 ^ (fieldOf b).2
def insertField (d a b : Nat) : Nat :=
  d - extractN d b * 2 ^ (fieldOf b).1 + a % 2 ^ (fieldOf b).2 * 2 ^ (fieldOf b).1

/-- Bit j moved to bit 31 − j (R171). -/
def reversed (x : Nat) : Nat := ((List.range 32).map (fun j => x / 2 ^ j % 2 * 2 ^ (31 - j))).sum

/-- The results of the varying integer instructions and promotions in lane i (R159, R168 to R172, R188). -/
def varWord : Instr → Option (F7 × (Group → Nat → Word))
  | .vadd d a b => some (d, fun g i => wrap (lv g a i + lv g b i) 32)
  | .vsub d a b => some (d, fun g i => wrap (lv g a i - lv g b i) 32)
  | .vmul d a b => some (d, fun g i => wrap (lv g a i * lv g b i) 32)
  | .vmulhiI32 d a b => some (d, fun g i => wrap (lv g a i * lv g b i / 2 ^ 32) 32)
  | .vmulhiN32 d a b => some (d, fun g i => BitVec.ofNat 32 (lw g a i * lw g b i / 2 ^ 32))
  | .vminI32 d a b => some (d, fun g i => wrap (min (lv g a i) (lv g b i)) 32)
  | .vminN32 d a b => some (d, fun g i => BitVec.ofNat 32 (min (lw g a i) (lw g b i)))
  | .vmaxI32 d a b => some (d, fun g i => wrap (max (lv g a i) (lv g b i)) 32)
  | .vmaxN32 d a b => some (d, fun g i => BitVec.ofNat 32 (max (lw g a i) (lw g b i)))
  | .vaddSatI32 d a b => some (d, fun g i => satI (lv g a i + lv g b i))
  | .vaddSatN32 d a b => some (d, fun g i => satN (lw g a i + lw g b i))
  | .vsubSatI32 d a b => some (d, fun g i => satI (lv g a i - lv g b i))
  | .vsubSatN32 d a b => some (d, fun g i => satN (lw g a i - lw g b i))
  | .vand d a b => some (d, fun g i => (g.row a.toNat).at i &&& (g.row b.toNat).at i)
  | .vor d a b => some (d, fun g i => (g.row a.toNat).at i ||| (g.row b.toNat).at i)
  | .vxor d a b => some (d, fun g i => (g.row a.toNat).at i ^^^ (g.row b.toNat).at i)
  | .vshl d a b => some (d, fun g i => if 32 ≤ lw g b i then 0 else BitVec.ofNat 32 (lw g a i * 2 ^ lw g b i))
  | .vshrN32 d a b => some (d, fun g i => if 32 ≤ lw g b i then 0 else BitVec.ofNat 32 (lw g a i / 2 ^ lw g b i))
  | .vshrI32 d a b => some (d, fun g i => wrap (lv g a i / 2 ^ min (lw g b i) 31) 32)
  | .vbfeN32 d a b => some (d, fun g i => BitVec.ofNat 32 (extractN (lw g a i) (lw g b i)))
  | .vbfeI32 d a b => some (d, fun g i => wrap (extractI (lw g a i) (lw g b i)) 32)
  | .vnot d a => some (d, fun g i => wrap (-1 - lv g a i) 32)
  | .vpopc d a => some (d, fun g i => BitVec.ofNat 32 (ones (lw g a i)))
  | .vclz d a => some (d, fun g i => BitVec.ofNat 32 (zerosAbove (lw g a i)))
  | .vmov d a => some (d, fun g i => (g.row a.toNat).at i)
  | .vbrev d a => some (d, fun g i => BitVec.ofNat 32 (reversed (lw g a i)))
  | .vbfi d a b => some (d, fun g i => BitVec.ofNat 32 (insertField (lw g d i) (lw g a i) (lw g b i)))
  | .imad d a b c => some (d, fun g i => wrap (lv g a i * lv g b i + lv g c i) 32)
  | .utov d a => some (d, fun g _ => g.uni a.toNat)
  | .atov d a => some (d, fun g i => wrap (ev g a i) 32)
  | .xget d a => some (d, fun g i => (mgetD g.x a.toNat []).at i)
  | _ => none

/-- The results of the compares and the predicate logic in lane i (R173, R177). -/
def predBit : Instr → Option (F7 × (Group → Nat → Bool))
  | .vcmpEq d a b => some (d, fun g i => decide (lw g a i = lw g b i))
  | .vcmpNe d a b => some (d, fun g i => decide (lw g a i ≠ lw g b i))
  | .vcmpLtI32 d a b => some (d, fun g i => decide (lv g a i < lv g b i))
  | .vcmpLeI32 d a b => some (d, fun g i => decide (lv g a i ≤ lv g b i))
  | .vcmpLtN32 d a b => some (d, fun g i => decide (lw g a i < lw g b i))
  | .vcmpLeN32 d a b => some (d, fun g i => decide (lw g a i ≤ lw g b i))
  | .pand d a b => some (d, fun g i => pb g a i && pb g b i)
  | .por d a b => some (d, fun g i => pb g a i || pb g b i)
  | .pxor d a b => some (d, fun g i => pb g a i != pb g b i)
  | .pnot d a => some (d, fun g i => !pb g a i)
  | .pmov d a => some (d, fun g i => pb g a i)
  | _ => none

/-- An order of FP32 values (R177): −0 equals +0, an infinity beyond every finite value, nothing with a NaN. -/
def fless : Machine.Num → Machine.Num → Bool
  | .inf true, .inf false => true
  | .inf true, .fin _ _ _ => true
  | .fin _ _ _, .inf false => true
  | .fin n m e, .fin n' m' e' =>
    let lo := min e e'
    let x : Int := m * 2 ^ (e - lo).toNat
    let y : Int := m' * 2 ^ (e' - lo).toNat
    (if n then -x else x) < (if n' then -y else y)
  | _, _ => false

/-- A NaN operand. -/
def isNan (x : Machine.Num) : Bool := decide (x = .nan)

/-- FCMP in lane i (R177). -/
def fcmpBit : Instr → Option (F7 × (Group → Nat → Bool))
  | .fcmpEq d a b => some (d, fun g i => ordered g a b i && !less g a b i && !less g b a i)
  | .fcmpNe d a b => some (d, fun g i => !ordered g a b i || less g a b i || less g b a i)
  | .fcmpLt d a b => some (d, fun g i => less g a b i)
  | .fcmpLe d a b => some (d, fun g i => ordered g a b i && !less g b a i)
  | .fcmpUn d a b => some (d, fun g i => !ordered g a b i)
  | _ => none
where
  val (g : Group) (n : F7) (i : Nat) : Machine.Num := f32 ((g.row n.toNat).at i)
  ordered (g : Group) (a b : F7) (i : Nat) : Bool := !isNan (val g a i) && !isNan (val g b i)
  less (g : Group) (a b : F7) (i : Nat) : Bool := fless (val g a i) (val g b i)

/-- LIMIT, INDEX and BASE of an index register in a lane (R26), and the register an ix field names there (R189). -/
def xIx (g : Group) (f : F7) (i : Nat) : Nat := ((mgetD g.x (f.toNat / 32) []).at i).toNat
def ixTarget (g : Group) (f : F7) (i : Nat) : Nat := xIx g f i % 256 + xIx g f i / 256 % 256 + f.toNat % 32

/-- A lane fails the bounds of R189. -/
def ixFails (g : Group) (f : F7) (i : Nat) : Prop :=
  xIx g f i / 65536 % 256 ≤ xIx g f i / 256 % 256 + f.toNat % 32 ∨ g.budget ≤ ixTarget g f i

/-- The registers that the active lanes name are not awaited (R41, R190). -/
def IxReady (g : Group) (f : F7) : Prop :=
  ∀ i, g.active.getLsbD i = true → interlocked g [.v (ixTarget g f i)] = false

/-- The word an index register takes from XSET and XADD (R188). -/
def xsetWord (g : Group) (a : F7) (i : Nat) : Word := BitVec.ofNat 32 (lw g a i % 2 ^ 24)
def xaddWord (g : Group) (a b : F7) (i : Nat) : Word :=
  let x := ((mgetD g.x a.toNat []).at i).toNat
  BitVec.ofNat 32 (x % 256 + 256 * ((x / 256 + nv g b) % 256) + 65536 * (x / 65536 % 256))

/-! ### Floating point (04, 07) -/

/-- The operation of R176 to R179 on the operands of lane i, rounded once, under ETYPE or on two BF16 elements. -/
def floatWord : Instr → Option (F7 × (Group → Nat → Word × Bool))
  | .fadd d a b => some (d, typed opAdd a b 0)
  | .fsub d a b => some (d, typed opSub a b 0)
  | .fmul d a b => some (d, typed opMul a b 0)
  | .fmin d a b => some (d, typed opMin a b 0)
  | .fmax d a b => some (d, typed opMax a b 0)
  | .fabs d a => some (d, typed opAbs a 0 0)
  | .fneg d a => some (d, typed opNeg a 0 0)
  | .frint d a => some (d, typed opRint a 0 0)
  | .ffma d a b c => some (d, typed opFma a b c)
  | .hadd d a b => some (d, halves opAdd a b 0)
  | .hsub d a b => some (d, halves opSub a b 0)
  | .hmul d a b => some (d, halves opMul a b 0)
  | .hmin d a b => some (d, halves opMin a b 0)
  | .hmax d a b => some (d, halves opMax a b 0)
  | .hfma d a b => some (d, halves opFma a b d)
  | _ => none
where
  typed (op : ElemOp) (a b c : F7) (g : Group) (i : Nat) : Word × Bool :=
    g.elemWord (modeBf16 g.mode) op i ((g.row a.toNat).at i) ((g.row b.toNat).at i) ((g.row c.toNat).at i)
  halves (op : ElemOp) (a b c : F7) (g : Group) (i : Nat) : Word × Bool :=
    g.elemWord true op i ((g.row a.toNat).at i) ((g.row b.toNat).at i) ((g.row c.toNat).at i)

/-- The conversions of R180 and R181 and the special functions of R183 in lane i. -/
def flaggedWord : Instr → Option (F7 × (Group → Nat → Word × Bool))
  | .f2iI32 d a => some (d, fun g i => (toInt (g.rnd i 0) (-2 ^ 31) (2 ^ 31 - 1) (x g a i), slow g a i))
  | .f2iN32 d a => some (d, fun g i => (toInt (g.rnd i 0) 0 (2 ^ 32 - 1) (x g a i), slow g a i))
  | .i2fI32 d a => some (d, fun g i => (BitVec.ofNat 32 (fp32.round (g.rnd i 0) (ofInt (lv g a i))), false))
  | .i2fN32 d a => some (d, fun g i => (BitVec.ofNat 32 (fp32.round (g.rnd i 0) (ofInt (lw g a i))), false))
  | .h2fLo d a => some (d, fun g i => widen (lw g a i % 2 ^ 16))
  | .h2fHi d a => some (d, fun g i => widen (lw g a i / 2 ^ 16))
  | .f2h d a b => some (d, fun g i =>
      (BitVec.ofNat 32 (bf16.round (g.rnd i 0) (x g a i) + 2 ^ 16 * bf16.round (g.rnd i 1) (x g b i)),
        (slow g a i || bf16.tiny (x g a i)) || (slow g b i || bf16.tiny (x g b i))))
  | .frcp d a => some (d, special specialRcp a)
  | .frsq d a => some (d, special specialRsq a)
  | .fsqrt d a => some (d, special specialSqrt a)
  | .fexp2 d a => some (d, special specialExp2 a)
  | .flog2 d a => some (d, special specialLog2 a)
  | .fsin d a => some (d, special specialSin a)
  | .fcos d a => some (d, special specialCos a)
  | _ => none
where
  x (g : Group) (a : F7) (i : Nat) : Machine.Num := f32 ((g.row a.toNat).at i)
  slow (g : Group) (a : F7) (i : Nat) : Bool := fp32.subnormal (lw g a i)
  widen (h : Nat) : Word × Bool :=
    (if bf16.value h = .nan then 0x7FC00000 else BitVec.ofNat 32 (h * 2 ^ 16), bf16.subnormal h)
  special (f : Fmt → Machine.Num → Approx) (a : F7) (g : Group) (i : Nat) : Word × Bool :=
    g.elemWord (modeBf16 g.mode) (opSpecial f) i ((g.row a.toNat).at i) 0 0

/-- A floating result with no flag (R103, R165): the lanes that R103 does not replay are written at once; the others are
pending without a flag, and every later reader of the register waits for them (R41). -/
def FloatWritten (i : Instr) (s t : State) (d : F7) (f : Group → Nat → Word × Bool) : Prop :=
  GroupOnly s t ∧ ClauseMoved i s t ∧
  (∀ n k, k < 96 → (t.G.row n).at k =
    if n = d.toNat ∧ s.G.active.getLsbD k = true ∧ (f s.G k).2 = false then (f s.G k).1 else (s.G.row n).at k) ∧
  t.G = { s.G with
    v := t.G.v, t := t.G.t, pends := t.G.pends, nextId := t.G.nextId, clause := t.G.clause, hidden := t.G.hidden } ∧
  HiddenKept s t ∧
  ((∀ k, s.G.active.getLsbD k = true → (f s.G k).2 = false) → PendsKept s t ∧ t.G.nextId = s.G.nextId) ∧
  (∀ k, s.G.active.getLsbD k = true → (f s.G k).2 = true →
    ∃ p, t.G.pends.getLast? = some p ∧ t.G.pends.dropLast.map unmarked = s.G.pends.map unmarked ∧
      p.id = s.G.nextId ∧ t.G.nextId = s.G.nextId + 1 ∧ p.body = .replay ∧ p.flag = none ∧ p.done = false ∧
      p.dst = [.v d.toNat] ∧
      ∀ j, j < 96 → pendWord p (.v d.toNat) j =
        if s.G.active.getLsbD j = true ∧ (f s.G j).2 = true then some (f s.G j).1 else none)

/-- A stochastic rounding has its seed registers (R41, R106). -/
def FloatReady (g : Group) : Prop := g.seedsWait = false

/-- The words of Philox-4×32-10 for a lane of VRAND (R120, R186). -/
def vrandWord (g : Group) (a b : F7) (k i : Nat) : Word :=
  let r := philox (c 0, c 1, c 2, c 3) (g.uni a.toNat, g.uni (a.toNat + 1))
  if k = 0 then r.1 else if k = 1 then r.2.1 else if k = 2 then r.2.2.1 else r.2.2.2
where
  c (j : Nat) : Word := (g.row (b.toNat + j)).at i

/-! ### Cross-lane instructions (08) -/

/-- The source lane of SHFL (R196) for a sub-group width and the index n. -/
def srcLane (w : Nat) (n : Int) (i : Nat) : Nat := w * (i / w) + (n % w).toNat

/-- Sub-group widths (R90). -/
def subWidth : ShflW → Nat
  | .w16 => 16 | .w32 => 32 | .w64 => 64 | .w96 => 96

/-- Destination, data source, sub-group width and the index n of R196, from the lane and its place j in the sub-group. -/
def shflIndex : Instr → Option (F7 × F7 × Nat × (Group → Nat → Nat → Int))
  | .shflIdx d a b w => some (d, a, subWidth w, fun g i _ => lw g b i)
  | .shflUp d a b w => some (d, a, subWidth w, fun g _ j => j - nv g b)
  | .shflDown d a b w => some (d, a, subWidth w, fun g _ j => j + nv g b)
  | .shflXor d a b w => some (d, a, subWidth w, fun g _ j => (j ^^^ nv g b : Nat))
  | _ => none

/-- The results of SHFL: the value of the source lane and p7, or the lane's own value with p7 clear (R196). -/
def shflOut (g : Group) (d a : F7) (w : Nat) (n : Group → Nat → Nat → Int) : Out :=
  { rows := [(d.toNat, fun i => (g.row a.toNat).at (if hit i then src i else i))], preds := [(7, hit)] }
where
  src (i : Nat) : Nat := srcLane w (n g i (i % w)) i
  hit (i : Nat) : Bool := g.active.getLsbD (src i)

/-- The rounding of floating-point reduction steps: stochastic rounding is taken as nearest-even (R117). -/
def redRnd (g : Group) : Rnd := ⟨if modeRnd g.mode = 5 then 0 else modeRnd g.mode, modeSat g.mode, 0⟩

/-- A sum of two codes of a format, rounded. -/
def codeSum (f : Fmt) (r : Rnd) (x y : Nat) : Nat := f.round r ((f.value x).add (f.value y) (r.mode == 3))

/-- Step and identity of R197. -/
def redStep (g : Group) (code : Nat) : Option ((Word → Word → Word) × Word) :=
  match code with
  | 0 => some (fun x y => wrap (x.toInt + y.toInt) 32, 0)
  | 1 => some (fun x y => BitVec.ofNat 32 (codeSum fp32 (redRnd g) x.toNat y.toNat), 0x80000000)
  | 2 => some (fun x y => wrap (min x.toInt y.toInt) 32, 0x7FFFFFFF)
  | 3 => some (fun x y => BitVec.ofNat 32 (min x.toNat y.toNat), 0xFFFFFFFF)
  | 4 => some (fun x y => wrap (max x.toInt y.toInt) 32, 0x80000000)
  | 5 => some (fun x y => BitVec.ofNat 32 (max x.toNat y.toNat), 0)
  | 6 => some (fun x y => BitVec.ofNat 32 (fp32.minMax false x.toNat y.toNat), 0x7FC00000)
  | 7 => some (fun x y => BitVec.ofNat 32 (fp32.minMax true x.toNat y.toNat), 0x7FC00000)
  | 8 => some (fun x y => x &&& y, 0xFFFFFFFF)
  | 9 => some (fun x y => x ||| y, 0)
  | 10 => some (fun x y => x ^^^ y, 0)
  | 11 => some (fun x y => BitVec.ofNat 32 (codeSum bf16 (redRnd g) (x.toNat % 2 ^ 16) (y.toNat % 2 ^ 16) +
      2 ^ 16 * codeSum bf16 (redRnd g) (x.toNat / 2 ^ 16) (y.toNat / 2 ^ 16)), 0x80008000)
  | _ => none

/-- The tree of R117 over 2^n leaves from leaf `lo` on: its lower half on the left. -/
def tree {α : Type} (op : α → α → α) (leaf : Nat → α) : Nat → Nat → α
  | 0, lo => leaf lo
  | n + 1, lo => op (tree op leaf n lo) (tree op leaf n (lo + 2 ^ n))

/-- log2 of the number of leaves P (R117). -/
def levels (g : Group) : Nat := if g.width ≤ 32 then 5 else if g.width ≤ 64 then 6 else 7

/-- Leaf i: the operand of an active lane, else the identity. -/
def leafOf (g : Group) (b : F7) (z : Word) (i : Nat) : Word :=
  if i < 96 && g.active.getLsbD i then (g.row b.toNat).at i else z

/-- The left-to-right fold of the leaves 0 to i (R117). -/
def foldTo (op : Word → Word → Word) (leaf : Nat → Word) : Nat → Word
  | 0 => leaf 0
  | i + 1 => op (foldTo op leaf i) (leaf (i + 1))

/-- A floating-point step meets a subnormal, and is replayed (R103, R192). -/
def stepMeets (g : Group) (code : Nat) (x y : Word) : Bool :=
  match code with
  | 1 => (opAdd fp32 (redRnd g) x.toNat y.toNat 0).replay
  | 11 => (opAdd bf16 (redRnd g) (x.toNat % 2 ^ 16) (y.toNat % 2 ^ 16) 0).replay ||
      (opAdd bf16 (redRnd g) (x.toNat / 2 ^ 16) (y.toNat / 2 ^ 16) 0).replay
  | _ => false

/-- Some step of the tree meets a subnormal. -/
def treeMeets (op : Word → Word → Word) (slow : Word → Word → Bool) (leaf : Nat → Word) : Nat → Nat → Bool
  | 0, _ => false
  | n + 1, lo => treeMeets op slow leaf n lo || treeMeets op slow leaf n (lo + 2 ^ n) ||
      slow (tree op leaf n lo) (tree op leaf n (lo + 2 ^ n))

/-- Some step of a REDUCE or of a scan meets a subnormal. -/
def redMeets (g : Group) (i : Instr) (op : Word → Word → Word) (z : Word) : Bool :=
  match i with
  | .reduce _ a b | .reduceVarying _ a b => treeMeets op (stepMeets g (nv g a)) (leafOf g b z) (levels g) 0
  | .scan _ a b | .scanExcl _ a b => (List.range 95).any (fun k =>
      stepMeets g (nv g a) (foldTo op (leafOf g b z) k) (leafOf g b z (k + 1)))
  | _ => false

/-- REDUCE and the scans (R198, R199): the code's register, and the results under a step and an identity. -/
def redOut : Instr → Option (F7 × (Group → (Word → Word → Word) → Word → Out))
  | .reduce d a b => some (a, fun g op z => { unis := [(d.toNat, tree op (leafOf g b z) (levels g) 0)] })
  | .reduceVarying d a b => some (a, fun g op z =>
      { rows := [(d.toNat, fun _ => tree op (leafOf g b z) (levels g) 0)] })
  | .scan d a b => some (a, fun g op z => { rows := [(d.toNat, foldTo op (leafOf g b z))] })
  | .scanExcl d a b => some (a, fun g op z =>
      { rows := [(d.toNat, fun i => if i = 0 then z else foldTo op (leafOf g b z) (i - 1))] })
  | _ => none

/-- No active value is below `v`, and `v` with its index is a lane's or the threshold of s[A] (R200). -/
def LeastOf (g : Group) (a b : F7) (v k : Word) : Prop :=
  let beats := fun (x y : Word × Word) => x.1.toNat < y.1.toNat ∨ (x.1 = y.1 ∧ x.2.toNat ≤ y.2.toNat)
  let cand := fun (x : Word × Word) => x = (g.uni a.toNat, 0xFFFFFFFF) ∨
    ∃ i, i < 96 ∧ g.active.getLsbD i = true ∧ x = ((g.row b.toNat).at i, BitVec.ofNat 32 i)
  cand (v, k) ∧ ∀ x, cand x → beats (v, k) x

/-- The count of a lane for SPREAD, and the counts before it (R203). -/
def countOf (g : Group) (a : F7) (l : Nat) : Nat := if g.active.getLsbD l then lw g a l else 0
def before (g : Group) (a : F7) (l : Nat) : Nat := ((List.range l).map (countOf g a)).sum

/-- The item of an active lane, its owner and its rank (R203). -/
def itemOf (g : Group) (b : F7) (i : Nat) : Nat :=
  nv g b + ((List.range i).filter (fun j => g.active.getLsbD j)).length
def ownerOf (g : Group) (a b : F7) (i : Nat) : Option Nat :=
  (List.range 96).find? (fun o => before g a o ≤ itemOf g b i && itemOf g b i < before g a o + countOf g a o)

/-- Votes, BALLOT and SPREAD (R201 to R203). -/
def voteOut : Instr → Option (Group → Out)
  | .voteAll d a => some (fun g =>
      { unis := [(d.toNat, one (∀ i ∈ List.range 96, g.active.getLsbD i = true → pb g a i = true))] })
  | .voteAny d a => some (fun g =>
      { unis := [(d.toNat, one (∃ i ∈ List.range 96, g.active.getLsbD i = true ∧ pb g a i = true))] })
  | .ballot d a => some (fun g =>
      { rows := (List.range 3).map (fun k => (d.toNat + k, fun _ => (maskOf (fun i => g.active.getLsbD i && pb g a i)).extractLsb'
          (32 * k) 32)) })
  | .spread d a b => some (fun g =>
      { unis := [(b.toNat, BitVec.ofNat 32 (min (before g a 96) (2 ^ 32 - 1)))],
        rows := [(d.toNat, fun i => ((ownerOf g a b i).map (fun o => BitVec.ofNat 32 o)).getD 0xFFFFFFFF),
          (d.toNat + 1, fun i => ((ownerOf g a b i).map (fun o => BitVec.ofNat 32 (itemOf g b i - before g a o))).getD
            0xFFFFFFFF)] })
  | _ => none

/-! ### Control instructions (05) -/

/-- cond(c, i) of R125. -/
def condBit (g : Group) (c : F7) (i : Nat) : Bool :=
  if c.toNat < 8 then (g.pred c.toNat).getLsbD i
  else if c.toNat < 16 then !(g.pred (c.toNat - 8)).getLsbD i else true

/-- The lanes of the set T of R125. -/
def TransferLanes (g : Group) (c : F7) (m : Mask) : Prop :=
  ∀ i, i < 96 → m.getLsbD i = (g.active.getLsbD i && condBit g c i)

/-- The header of the clause in progress, and the header after it (R122). -/
def headerPc (g : Group) : DWord := (g.clause.map Clause.start).getD 0
def nextPc (g : Group) : DWord :=
  match g.clause with
  | some c => wrap (c.start.toNat + 4 + 4 * c.len) 64
  | none => 0

/-- The target of a signed word offset (R126). -/
def targetOf (g : Group) (off : Word) : DWord := wrap ((headerPc g).toNat + 4 * off.toInt) 64

/-- Condition field, offset, hint and link register of the transfers but RET (R124, R126, R128). -/
def jump : Instr → Option (F7 × (Group → Word) × Hint × Option F7)
  | .braLikely a lit => some (a, fun _ => lit, .likely, none)
  | .braUnlikely a lit => some (a, fun _ => lit, .unlikely, none)
  | .braUniform a lit => some (a, fun _ => lit, .none_, none)
  | .bra a lit => some (a, fun _ => lit, .none_, none)
  | .brx a b => some (a, fun g => g.uni b.toNat, .none_, none)
  | .call d a b => some (a, fun g => g.uni b.toNat, .none_, some d)
  | _ => none

/-- The clause stands behind the words of `i`, and its split has been sent elsewhere. -/
def ClauseTaken (i : Instr) (s t : State) : Prop :=
  ∃ sh c, i.shape = some sh ∧ s.G.clause = some c ∧
    t.G.clause = some { c with pos := c.pos + 1 + sh.lits.length, tw := c.tw ||| tempBits sh.dsts, taken := true }

/-- A side of a divergence (R129): its lanes and its program counter, with the depth, mode and formats of the split that
diverged; it has not started a clause yet (R130). -/
def Side (old sp : Split) (m : Mask) (pc : DWord) : Prop :=
  sp.mask = m ∧ sp.pc = pc ∧ sp.depth = old.depth ∧ sp.mode = old.mode ∧ sp.fmts = old.fmts ∧ sp.fresh = true

/-- The lowest free entry of a split table (R39). -/
def FreeEntry (m : Map Split) (k : Nat) : Prop := k < 4 ∧ mget m k = none ∧ ∀ j, j < k → (mget m j).isSome = true

/-- Two sides (R129): the first keeps the entry, the other takes the lowest free entry or parks. -/
def Diverged (g h : Group) (m1 : Mask) (pc1 : DWord) (m2 : Mask) (pc2 : DWord) : Prop :=
  ∃ sp1 sp2, Side g.split sp1 m1 pc1 ∧ Side g.split sp2 m2 pc2 ∧
    h.ran = 0 ∧
    ((∃ k, FreeEntry g.splits k ∧ h.splits = mput (mput g.splits g.cur sp1) k sp2 ∧ h.parked = g.parked) ∨
      ((∀ k, k < 4 → (mget g.splits k).isSome = true) ∧ h.splits = mput g.splits g.cur sp1 ∧ h.parked = g.parked ++ [sp2]))

/-- The number of lanes of a set. -/
def laneTotal (m : Mask) : Nat := ((List.range 96).filter (fun i => m.getLsbD i)).length

/-- Whether the taken side runs first (R128). -/
def takenFirst (h : Hint) (t f : Mask) : Bool :=
  match h with
  | .likely => true
  | .unlikely => false
  | .none_ => decide (laneTotal f ≤ laneTotal t)

/-- The rows that CALL writes (R126): the text offset of the next clause, in the lanes that transfer. -/
def linkRows (g : Group) (link : Option F7) (m : Mask) : List (Nat × (Nat → Word)) :=
  match link with
  | some d => [(d.toNat, fun i => if m.getLsbD i then loWord (nextPc g - g.text) else (g.row d.toNat).at i)]
  | none => []

/-- What a transfer changes in its group. -/
def TransferFrame (i : Instr) (s t : State) (o : Out) : Prop :=
  GroupOnly s t ∧ ClauseTaken i s t ∧ PendsKept s t ∧
  (∀ n k, k < 96 → (t.G.row n).at k = laneOr s.G o.rows n k ((s.G.row n).at k)) ∧
  t.G = { s.G with
    v := t.G.v, t := t.G.t, splits := t.G.splits, parked := t.G.parked, clause := t.G.clause, pends := t.G.pends,
    nextId := t.G.nextId, ran := t.G.ran, hidden := t.G.hidden } ∧ HiddenKept s t

/-- Where RET sends a lane (R127), and where the lanes that fail the guard or the stack go on. -/
def retTarget (g : Group) (a : F7) (i : Nat) : DWord := g.text + BitVec.ofNat 64 (lw g a i / 4 * 4)
def retGoal (g : Group) (a : F7) (i : Nat) : DWord := if g.active.getLsbD i then retTarget g a i else nextPc g

/-- The stack condition pass(d, i) of R134. -/
def passBit (g : Group) (d i : Nat) : Bool := d == 0 || (mgetD g.stack d 0).getLsbD i

/-- Entry `d` of the predicate stack holds `f` in the lanes of the split's mask, and every other bit is as before. -/
def StackSet (g h : Group) (d : Nat) (f : Nat → Bool) : Prop :=
  ∀ n i, i < 96 → (mgetD h.stack n 0).getLsbD i =
    if n = d ∧ g.split.mask.getLsbD i = true then f i else (mgetD g.stack n 0).getLsbD i

/-- A mode register value that SETMODE accepts (R32). -/
def ModeLegal (w : Word) : Prop := w.toNat / 65536 % 32 ≤ 29 ∧ w.toNat / 256 % 16 ≤ 8 ∧ w.toNat % 8 ≤ 5

/-- A SPAWN descriptor (R137): entry, width and budget. -/
def spawnEntry (g : Group) (desc : Word) : DWord := targetOf g (wrap (desc.toInt / 512) 32)
def spawnWidth (desc : Word) : Nat := 32 * (desc.toNat / 128 % 4 + 1)
def SpawnLegal (s : State) (desc : Word) : Prop :=
  desc.toNat / 128 % 4 ≠ 3 ∧ desc.toNat % 128 % 4 = 0 ∧ 8 ≤ desc.toNat % 128 ∧ desc.toNat % 128 ≤ 124 ∧
    inText s s.G (spawnEntry s.G desc) = true

/-- A group that SPAWN has started (R43, R44, R138). -/
def Spawned (g h : Group) (a : F7) (desc : Word) : Prop :=
  h.kind = .spawned ∧ h.width = spawnWidth desc ∧ h.budget = desc.toNat % 128 ∧ h.core = g.core ∧ h.team = g.team ∧
    h.task = g.task ∧ h.asid = g.asid ∧ h.prio = g.prio ∧ h.split.pc = spawnEntry g desc ∧
    h.split.mask = widthMask (spawnWidth desc) ∧ (∀ k, k < 8 → h.uni k = g.uni (a.toNat + k)) ∧ h.clause = none ∧
    h.pends = [] ∧ h.v = [] ∧ h.p = []

/-- A split can start its next clause now (R121, R130). -/
def CanGoOn (s : State) (g : Group) (k : Nat) : Prop := ∃ sp, mget g.splits k = some sp ∧ splitReady s g sp = true

/-! ### Memory instructions (09) -/

/-- The word of `i` has issued under the flag of FA (R73, R205): instruction `p` is the newest of the group, whose other
parts stand in `g`. -/
def Appended (i : Instr) (s t : State) (g : Group) (p : Pend) : Prop :=
  ClauseMoved i s t ∧ p.id = s.G.nextId ∧ p.flag = s.G.fa ∧ p.done = false ∧ p.missed = false ∧ p.killed = [] ∧
    p.lanes = s.G.active ∧
    t.G = { g.flagUp p.flag with pends := s.G.pends ++ [p], nextId := s.G.nextId + 1, clause := t.G.clause }

/-- The active lanes in ascending order (R208). -/
def activeLanes (g : Group) : List Nat := (List.range 96).filter (fun i => g.active.getLsbD i)

/-- Byte j of a lane's data field (R210). -/
def dataByte (g : Group) (d : F7) (i j : Nat) : Byte :=
  BitVec.ofNat 8 (((g.row (d.toNat + j / 4)).at i).toNat / 256 ^ (j % 4))

/-- The lane addresses of the affine and of the varying form (R206). -/
def affAddress (g : Group) (a b : F7) (i : Nat) : DWord := wrap (ev g a i + sv g b) 64
def varAddress (g : Group) (a : F7) (i : Nat) : DWord := pair ((g.row a.toNat).at i) ((g.row (a.toNat + 1)).at i)

/-- A global access: what each lane wants, what is to be done, the destination registers, order and scope. -/
structure Access where
  want  : Want
  body  : PendBody
  dst   : List Reg
  order : AtomOrder := .relaxed
  scope : Scope := .group

/-- LD and ST of a width (R210). -/
def loadAccess (d : F7) (w : Width) (byp : Bool) (addr : Nat → DWord) : Access :=
  { want := { kind := .read, size := w.bytes, align := w.bytes, addr := addr, data := fun _ => [], cmp := fun _ => 0,
              byp := byp },
    body := .load w byp, dst := (List.range w.regs).map (fun k => .v (d.toNat + k)) }
def storeAccess (g : Group) (d : F7) (w : Width) (addr : Nat → DWord) : Access :=
  { want := { kind := .write, size := w.bytes, align := w.bytes, addr := addr,
              data := fun i => (List.range w.bytes).map (fun j => (dataByte g d i j, 0xFF)), cmp := fun _ => 0, byp := true },
    body := .store, dst := [] }

/-- LDC and STC (R214): the byte that holds the element, with the bits that are the element. -/
def loadConvAccess (g : Group) (d : F7) (f sc : Word) (byp : Bool) (addr : Nat → DWord) : Access :=
  { want := { kind := .read, size := 1, align := 1, addr := fun i => (convSpot f (addr i)).1,
              data := fun i => [(0, (convSpot f (addr i)).2)], cmp := fun i => BitVec.ofNat 32 (g.rnd i 0).word, byp := byp },
    body := .loadConv f sc g.mode byp, dst := [.v d.toNat] }
def storeConvAccess (g : Group) (d : F7) (f sc : Word) (addr : Nat → DWord) : Access :=
  { want := { kind := .write, size := 1, align := 1, addr := fun i => (convSpot f (addr i)).1,
              data := fun i => [stcByte g f sc d (addr i) i], cmp := fun _ => 0, byp := true },
    body := .store, dst := [] }

/-- ATOM (R217): base pair and scope in the A field, the offset in v[D]. -/
def atomAccess (g : Group) (d a b : F7) (o : AtomOrder) (op : AtomOp) : Access :=
  { want := { kind := .atomic, size := 4, align := 4,
              addr := fun i => pair (g.uni (2 * (a.toNat % 16))) (g.uni (2 * (a.toNat % 16) + 1)) + BitVec.ofNat 64 (lw g d i),
              data := fun i => (List.range 4).map (fun j => (dataByte g b i j, 0xFF)),
              cmp := fun i => if op = .cas then (g.row (d.toNat + 1)).at i else 0, byp := true },
    body := .atom op, dst := [.v d.toNat], order := o, scope := Scope.ofCode (a.toNat / 16) }

/-- The access of a global load, store, conversion or atomic (R204); none for a conversion whose format R207 check 4
refuses. -/
def globalAccess : Instr → Option (Group → Option Access)
  | .ld d a b w byp => some (fun g => some (loadAccess d w byp (affAddress g a b)))
  | .ldVaryingAddress d a w byp => some (fun g => some (loadAccess d w byp (varAddress g a)))
  | .st d a b w => some (fun g => some (storeAccess g d w (affAddress g a b)))
  | .stVaryingAddress d a w => some (fun g => some (storeAccess g d w (varAddress g a)))
  | .ldc d a b m byp => some (fun g => (g.convFmt m).map (fun e => loadConvAccess g d e.1 e.2 byp (affAddress g a b)))
  | .ldcVaryingAddress d a m byp => some (fun g => (g.convFmt m).map (fun e => loadConvAccess g d e.1 e.2 byp (varAddress g a)))
  | .stc d a b m => some (fun g => (g.convFmt m).map (fun e => storeConvAccess g d e.1 e.2 (affAddress g a b)))
  | .stcVaryingAddress d a m => some (fun g => (g.convFmt m).map (fun e => storeConvAccess g d e.1 e.2 (varAddress g a)))
  | .atomAddI32 d a b o => some (fun g => some (atomAccess g d a b o .addI32))
  | .atomAddF32 d a b o => some (fun g => some (atomAccess g d a b o .addF32))
  | .atomMinI32 d a b o => some (fun g => some (atomAccess g d a b o .minI32))
  | .atomMinN32 d a b o => some (fun g => some (atomAccess g d a b o .minN32))
  | .atomMaxI32 d a b o => some (fun g => some (atomAccess g d a b o .maxI32))
  | .atomMaxN32 d a b o => some (fun g => some (atomAccess g d a b o .maxN32))
  | .atomXchg d a b o => some (fun g => some (atomAccess g d a b o .xchg))
  | .atomCas d a b o => some (fun g => some (atomAccess g d a b o .cas))
  | .atomAnd d a b o => some (fun g => some (atomAccess g d a b o .and))
  | .atomOr d a b o => some (fun g => some (atomAccess g d a b o .or))
  | .atomXor d a b o => some (fun g => some (atomAccess g d a b o .xor))
  | _ => none

/-- A conversion reads no scale or seed register that an earlier instruction has still to write (R41). -/
def ConvReady (i : Instr) (g : Group) : Prop :=
  ∀ m, (∃ d a b y, i = .ldc d a b m y) ∨ (∃ d a y, i = .ldcVaryingAddress d a m y) ∨ (∃ d a b, i = .stc d a b m) ∨
    (∃ d a, i = .stcVaryingAddress d a m) →
    g.scaleWait m = false ∧
    (modeRnd g.mode = 5 → interlocked g [.s (2 * modeSeed g.mode), .s (2 * modeSeed g.mode + 1)] = false)

/-- Every active lane passes the checks 5 and 6 of R207. -/
def AddressesOk (g : Group) (w : Want) : Prop :=
  ∀ i, g.active.getLsbD i = true → (w.addr i).toNat < 2 ^ 57 ∧ (w.addr i).toNat % w.align = 0

/-- A lane's access translates without a fault (R320) and consumes no uncorrectable data (R317). -/
def LaneSound (s : State) (w : Want) (i : Nat) : Prop :=
  ∃ pa rem home, translate s s.G.who w.kind (w.addr i) = .hit pa rem home ∧
    (w.kind = .write ∨ rem ≠ none ∨ 768 * 2 ^ 30 ≤ pa ∨
      (if w.kind = .atomic then spanBad s home pa w.size = false
        else loadBad s s.G.core (s.G.l1Tag (w.addr i) w.byp) pa home w.size w.byp = false))

/-- The transfer count has room for the accesses (R37). -/
def AccessRoom (g : Group) : Prop := g.xfer + (activeLanes g).length ≤ 65535

/-- The accesses of `p` are those that `w` wants: one to an active lane in ascending order, as translated, none
performed. -/
def AccessesOf (s : State) (w : Want) (p : Pend) : Prop :=
  p.accs.map Acc.lane = activeLanes s.G ∧ p.left = (activeLanes s.G).length ∧
  ∀ a ∈ p.accs, a.va = w.addr a.lane ∧ a.size = w.size ∧ a.data = w.data a.lane ∧ a.cmp = w.cmp a.lane ∧ a.st = 0 ∧
    translate s s.G.who w.kind a.va = .hit a.pa a.rem a.home

/-- An offset of the team's scratch area that R207 check 7 lets pass: the banks of the team joined in order, each in the
scratch role (R215). -/
def PoolSpot (s : State) (off size pa : Nat) : Prop :=
  ∃ tm, s.team? s.G.team = some tm ∧ (s.G.kind = .started ∨ s.G.kind = .spawned) ∧ off + size ≤ 65536 * tm.scratch.length ∧
    (mgetD (s.cluster (s.G.core / 8)).banks (tm.scratch.getD (off / 65536) 0) Bank.empty).role = 1 ∧
    pa = 65536 * tm.scratch.getD (off / 65536) 0 + off % 65536

/-- An access of `n` bytes reaches beyond the team's scratch area, or the group has none (R207 check 7). -/
def PoolForeign (s : State) (n off : Nat) : Prop :=
  ∀ tm, s.team? s.G.team = some tm → (s.G.kind = .started ∨ s.G.kind = .spawned) → 65536 * tm.scratch.length < off + n

/-- The bank of an offset has another role than scratch (R207 check 7). -/
def PoolRoleBad (s : State) (off : Nat) : Prop :=
  ∃ tm, s.team? s.G.team = some tm ∧
    (mgetD (s.cluster (s.G.core / 8)).banks (tm.scratch.getD (off / 65536) 0) Bank.empty).role ≠ 1

/-- The pool offset of a lane (R215). -/
def poolOffset (g : Group) (a b : F7) (i : Nat) : Nat := (lw g a i + nv g b) % 2 ^ 32

/-- LDP and STP: width, offsets, data, what is to be done, the destination registers. -/
def poolAccess : Instr → Option (Width × F7 × F7 × (Group → Nat → List (Byte × Byte)) × PendBody × List Reg)
  | .ldp d a b w => some (w, a, b, fun _ _ => [], .poolLoad w, (List.range w.regs).map (fun k => .v (d.toNat + k)))
  | .stp d a b w => some (w, a, b, fun g i => (List.range w.bytes).map (fun j => (dataByte g d i j, 0xFF)), .poolStore, [])
  | _ => none

/-- The fields of a barrier object (R224). -/
def objWord (s : State) (pa k : Nat) : Nat :=
  ((List.range 4).map (fun j => (bget (s.pool (s.G.core / 8)) (pa + 4 * k + j)).toNat * 256 ^ j)).sum

/-- An epoch is reached (R224): EPOCH is the third word of the object. -/
def epochReached (s : State) (pa : Nat) (e : Word) : Bool := decide ((BitVec.ofNat 32 (objWord s pa 2) - e).toNat < 2 ^ 31)

/-- A barrier-object instruction: offset register, and what it does at the object's place in the pool (R225). -/
def objectOp : Instr → Option (F7 × (Group → Nat → PendBody) × (State → Nat → Prop))
  | .boset a b => some (a, fun g pa => .boset pa (g.uni b.toNat), fun s _ => 1 ≤ nv s.G b ∧ nv s.G b < 2 ^ 31)
  | .boadd a b => some (a, fun g pa => .boadd pa (g.uni b.toNat),
      fun s pa => objWord s pa 1 ≠ 0 ∧ objWord s pa 1 + nv s.G b < 2 ^ 31)
  | .bowait a b => some (a, fun g pa => .bowait pa (g.uni b.toNat), fun _ _ => True)
  | _ => none

/-- The register with the offset of a barrier object (R225). -/
def objectName : Instr → Option F7
  | .boset a _ => some a
  | .boadd a _ => some a
  | .bowait a _ => some a
  | .bopoll _ a _ => some a
  | _ => none

/-- A queue operation: name register, elements needed, whether it pushes, what is to be done, destination (R232). -/
def queueOp : Instr → Option (F7 × (Group → Nat) × Bool × (Group → PendBody) × List Reg)
  | .qpush a b => some (a, fun g => (activeLanes g).length, true,
      fun g => .qpush (g.uni a.toNat) ((activeLanes g).map (g.row b.toNat).at), [])
  | .qpushUniform a b => some (a, fun _ => 1, true, fun g => .qpush (g.uni a.toNat) [g.uni b.toNat], [])
  | .qpop d a => some (a, fun g => (activeLanes g).length, false, fun g => .qpop (g.uni a.toNat) 0, [.v d.toNat])
  | .qpopUniform d a => some (a, fun _ => 1, false, fun g => .qpop (g.uni a.toNat) 1, [.s d.toNat])
  | .qpopElect d a => some (a, fun _ => 1, false, fun g => .qpop (g.uni a.toNat) 2, [.v d.toNat])
  | _ => none

/-- Only the groups and the count of arrivals differ. -/
def GroupSeqOnly (s t : State) : Prop :=
  { t with groups := s.groups, seq := s.seq } = s ∧ ∀ k, k ≠ s.cur → mget t.groups k = mget s.groups k

/-! ### Issued instructions complete (R41, R42, R205) -/

/-- An issued instruction without the marks of R42 and of R340. -/
def unlifted (p : Pend) : Pend := { p with killed := [], seen := 0 }

/-- A later instruction has written lane i of a destination (R42). -/
def overtaken (p : Pend) (r : Reg) (i : Nat) : Bool := p.killed.any (fun e => decide (e.1 = r) && e.2.getLsbD i)

/-- Group `h` is `g` after instruction `p` has completed with the writes `ws`: its registers hold them but where a later
write has overtaken them, its flag is one lower, it is no longer among the issued ones, its log entry is free, and `acks` of its accesses
leave the transfer count (R37). -/
def Completed (g h : Group) (p : Pend) (ws : List RegWrite) (acks : Nat) : Prop :=
  let new := fun (r : Reg) (i : Nat) => if overtaken p r i then none else pendWord { p with writes := ws } r i
  (∀ n, n < 60 → h.uni n = (new (.s n) 0).getD (g.uni n)) ∧
  (∀ n i, i < 96 → (h.row n).at i = (new (.v n) i).getD ((g.row n).at i)) ∧
  (∀ n i, i < 96 → (h.pred n).getLsbD i = ((new (.p n) i).map (· != 0)).getD ((g.pred n).getLsbD i)) ∧
  (∀ n, p.flag = some n → h.flag n = g.flag n - 1) ∧ (∀ n, p.flag ≠ some n → h.flag n = g.flag n) ∧
  (∀ q ∈ h.pends, q.id ≠ p.id) ∧ (∀ k, p.entry = some k → g.ovr ≠ some k → mget h.log k = none) ∧
  h.pends.map unlifted = (g.pends.filter (fun q => q.id != p.id)).map unlifted ∧
  (g.frame = none → h.hidden = g.hidden) ∧
  h = { g with
    s := h.s, splits := h.splits, v := h.v, t := h.t, p := h.p, flags := h.flags, pends := h.pends, log := h.log,
    hidden := h.hidden, xfer := g.xfer - acks }

/-- No word waits to be issued again (R305, R324). -/
def NothingAgain (g : Group) : Prop := g.again = none ∧ g.after = []

/-- The writes of an instruction name lane registers, predicates and plain uniform registers, each once, its access
number is not from before a handler's entry (R302), and no word waits to be issued again. -/
def PlainWrites (g : Group) (p : Pend) (ws : List RegWrite) : Prop :=
  (ws.map RegWrite.reg).Nodup ∧ (∀ w ∈ ws, (∃ n, w.reg = .v n) ∨ (∃ n, w.reg = .p n) ∨ (∃ n, w.reg = .s n ∧ n < 60)) ∧
  (∀ f, g.frame = some f → f.mark ≤ p.id) ∧ NothingAgain g

/-- Instruction `id` of group `gid` is issued and not complete. -/
def Outstanding (s : State) (gid id : Nat) (p : Pend) : Prop :=
  (s.group gid).findPend id = some p ∧ p.id = id

/-- It may be performed now (R209, R220 to R223), its access number is not from before a handler's entry (R302), and no word
waits to be issued again. -/
def MayGo (s : State) (gid : Nat) (p : Pend) : Prop :=
  mayPerform { s with cur := gid } (s.group gid) p = true ∧ (∀ f, (s.group gid).frame = some f → f.mark ≤ p.id) ∧
    NothingAgain (s.group gid)

/-- What reads at home slices leave: another choice of the lines that the slices cache, and fewer copies in the cluster caches, which keep
none of a line that its slice has given up (R313, R315). -/
def SlicesOnly (s t : State) : Prop :=
  { t with slices := s.slices, free := s.free, clusters := s.clusters } = s ∧
  ∀ k, t.cluster k = { s.cluster k with cache := (t.cluster k).cache } ∧ ∀ l ∈ (t.cluster k).cache, l ∈ (s.cluster k).cache

/-- Byte `k` that a lane's access has brought. -/
def broughtByte (accs : List Acc) (a : Acc) (k : Nat) : Byte :=
  match accs.find? (fun b => b.lane == a.lane) with
  | some b => (b.data.getD k (0, 0)).1
  | none => 0

/-- Only group `gid` differs. -/
def OtherGroups (s t : State) (gid : Nat) : Prop := ∀ k, k ≠ gid → mget t.groups k = mget s.groups k

/-- A byte of the load of `a`: what the core's buffer holds whole of it, else the byte at its home (R211). -/
def loadedByte (s : State) (core : Nat) (a : Acc) (k : Nat) : Byte :=
  match mget (sgbCells (s.core core) (a.pa / 128)) (a.pa % 128 + k) with
  | some e => mergeByte (bget s.mem (a.pa + k)) e.1 e.2
  | none => bget s.mem (a.pa + k)

/-- Little-endian word `k` of some bytes. -/
def wordOfBytes (f : Nat → Byte) (n k : Nat) : Word :=
  BitVec.ofNat 32 (((List.range 4).map (fun j => if 4 * k + j < n then (f (4 * k + j)).toNat * 256 ^ j else 0)).sum)

/-- The words of a load's registers (R210): of the first bytes `f` of each lane, zero beyond them. -/
def loadOut (p : Pend) (d : F7) (w : Width) (f : Acc → Nat → Byte) : List RegWrite :=
  (List.range w.regs).map (fun k => ⟨.v (d.toNat + k), mkRow (fun i =>
    match p.accs.find? (fun a => a.lane == i) with
    | some a => wordOfBytes (f a) w.bytes k
    | none => 0), p.lanes⟩)

/-- The new value of an atomic (R217). -/
def rmw (op : AtomOp) (old y cmp : Word) : Word :=
  match op with
  | .addI32 => wrap (old.toInt + y.toInt) 32
  | .addF32 => BitVec.ofNat 32 (fp32.round ⟨0, false, 0⟩ ((f32 old).add (f32 y) false))
  | .minI32 => wrap (min old.toInt y.toInt) 32
  | .minN32 => BitVec.ofNat 32 (min old.toNat y.toNat)
  | .maxI32 => wrap (max old.toInt y.toInt) 32
  | .maxN32 => BitVec.ofNat 32 (max old.toNat y.toNat)
  | .xchg => y
  | .cas => if old = cmp then y else old
  | .and => old &&& y
  | .or => old ||| y
  | .xor => old ^^^ y

/-- No cluster cache and no phase stands between an access and memory: the line is cached in no cluster, its home is the
home slice, and the group's task is in no ordered phase (R313, R397). -/
def AtMemory (s : State) (g : Group) (a : Acc) : Prop :=
  homeOf s a.home = none ∧ (∀ e ∈ s.clusters, cacheLine e.2 (a.pa / 128) = none) ∧ phaseLines s g.task = none ∧
    a.rem = none ∧ a.pa < 768 * 2 ^ 30

/-! ### Engine commands (10) -/

/-- Descriptor register, barrier-object register, SUB and descriptor length of a command (R236). -/
def engineCmd : Instr → Option (F7 × F7 × Nat × Nat)
  | .cpy a b => some (a, b, 0, 8)
  | .gather a b => some (a, b, 1, 8)
  | .scatter a b => some (a, b, 2, 8)
  | .mma a b => some (a, b, 3, 12)
  | .mmadrain a b => some (a, b, 4, 16)
  | .idxwalk a b => some (a, b, 5, 5)
  | .cstore a b => some (a, b, 6, 8)
  | .cload a b => some (a, b, 7, 8)
  | .coll a b => some (a, b, 8, 6)
  | _ => none

/-- The descriptor run as it stands (R237). -/
def descWords (g : Group) (a : F7) (n : Nat) : List Word := (List.range n).map (fun k => g.uni (a.toNat + k))

/-- Bits of a descriptor word. -/
def fieldBits (w : Word) (lo n : Nat) : Nat := w.toNat / 2 ^ lo % 2 ^ n

/-- K of an operand type code (R251). -/
def kOf (g : Group) (code sel : Nat) : Nat := if code = 2 then (if (fmtOf (g.fmt sel)).nibble then 128 else 64) else 32

/-- Tile `t` is legal when 16 (t + 1) is at most the KiB of the team's accumulator share (R250). -/
def TileLegal (s : State) (t : Nat) : Prop :=
  (s.G.kind = .started ∨ s.G.kind = .spawned) ∧ ∃ tm, s.team? s.G.team = some tm ∧ 16 * (t + 1) ≤ 16 * tm.accUnits

/-- Element and scale bytes of an output row of `n` columns (R255, R256). -/
def outBytes (g : Group) (code sel n : Nat) : Nat :=
  if code = 0 then 4 * n else if code = 1 then 2 * n
  else (if (fmtOf (g.fmt sel)).nibble then n / 2 else n) + (if fmtScale (g.fmt sel) = 1 then n / 32 else 0)

/-- The limits that each command's entry gives its descriptor fields (R247 to R260); MMA names no barrier object
(R238). -/
def DescriptorLegal (s : State) (sub : Nat) (w : Nat → Word) (bo : Word) : Prop :=
  let n := fun k => (w k).toNat
  let f := fun k lo len => fieldBits (w k) lo len
  match sub with
  | 0 => 4 ≤ n 4 ∧ n 4 ≤ 2 ^ 24 ∧ n 4 % 4 = 0 ∧ 1 ≤ f 5 0 16 ∧ n 6 % 4 = 0 ∧ n 7 % 4 = 0 ∧
      (f 5 18 1 = 1 → f 5 17 1 = 1 ∧ n 4 % 256 = 0)
  | 1 | 2 => 16 ≤ n 2 ∧ n 2 ≤ 65536 ∧ n 2 % 16 = 0 ∧ 1 ≤ f 7 0 4 ∧ f 7 0 4 ≤ 8 ∧ (f 7 4 1 = 1 → n 2 % 256 = 0)
  | 3 => f 6 8 2 ≠ 3 ∧ f 6 10 2 ≠ 3 ∧ kOf s.G (f 6 8 2) (f 6 12 2) = kOf s.G (f 6 10 2) (f 6 14 2) ∧
      (f 6 8 2 = 1 ↔ f 6 10 2 = 1) ∧ TileLegal s (f 6 0 4) ∧ bo = 0xFFFFFFFF
  | 4 => f 3 4 2 ≠ 3 ∧ TileLegal s (f 3 0 4) ∧ outBytes s.G (f 3 4 2) (f 3 6 2) (if f 3 11 1 = 1 then 128 else 64) ≤ n 2
  | 5 => 1 ≤ f 2 0 16 ∧ 1 ≤ f 2 16 16 ∧ 1 ≤ n 4 ∧ n 4 ≤ 2 ^ 24
  | 6 => 1 ≤ n 2 ∧ n 2 ≤ 2 ^ 26 ∧ (n 3 = 1 ∨ n 3 = 2 ∨ n 3 = 4) ∧
      16 * ((4 + 4 * ((n 2 + 127) / 128) + 15) / 16) ≤ n 6
  | 7 => 1 ≤ n 2 ∧ n 2 ≤ 2 ^ 26 ∧ (n 3 = 1 ∨ n 3 = 2 ∨ n 3 = 4)
  | _ => 1 ≤ n 2 ∧ n 2 ≤ 2 ^ 28 ∧ n 3 ≤ 10 ∧ n 4 ≤ 63 ∧ commWord s.dev (n 4) 2 ≠ 0 ∧ s.dev.pkg ∈ rankList s (n 4)

/-- The command has the issuer's place, the descriptor, modes and cell of the issue, no unit done, and waits for its
engine (R237, R239, R246). -/
def CommandOf (s : State) (sub : Nat) (d : List Word) (bo : Word) (c : Cmd) : Prop :=
  c.gid = s.cur ∧ c.task = s.G.task ∧ c.team = s.G.team ∧ c.core = s.G.core ∧ c.asid = s.G.asid ∧ c.cls = cmdClass sub ∧
    c.sub = sub ∧ c.desc = d ∧ c.bo = bo ∧ c.mode = s.G.mode ∧ c.fmts = (List.range 4).map s.G.fmt ∧
    c.batch = (s.G.batch (cmdClass sub)).openN ∧ c.flag = s.G.fa ∧ c.key = pair (s.G.uni 10) (s.G.uni 11) ∧
    c.queued = true ∧ c.begun = false ∧ c.units = 0 ∧ c.status = 0 ∧ c.ranks = none ∧ c.id = s.seq

/-- Commands of a batch that are not complete, and all of them (R36). -/
def openLeft (g : Group) (cls : Nat) : Nat := mgetD (g.batch cls).left (g.batch cls).openN.toNat 0
def openTotal (g : Group) (cls : Nat) : Nat := mgetD (g.batch cls).total (g.batch cls).openN.toNat 0

/-- The class of BATCH, BWAIT and BSTAT (R236). -/
def batchOp : Instr → Option (Nat × F7)
  | .batchCopy d => some (0, d) | .batchGather d => some (1, d) | .batchMatrix d => some (2, d)
  | .batchIndex d => some (3, d) | .batchColl d => some (4, d) | _ => none
def bwaitOp : Instr → Option (Nat × F7)
  | .bwaitCopy a => some (0, a) | .bwaitGather a => some (1, a) | .bwaitMatrix a => some (2, a)
  | .bwaitIndex a => some (3, a) | .bwaitColl a => some (4, a) | _ => none
def bstatOp : Instr → Option (Nat × F7 × F7)
  | .bstatCopy d a => some (0, d, a) | .bstatGather d a => some (1, d, a) | .bstatMatrix d a => some (2, d, a)
  | .bstatIndex d a => some (3, d, a) | .bstatColl d a => some (4, d, a) | _ => none

/-- The batch number in bits 15:0 of a register (R242, R243), and the tests on it. -/
def batchNo (g : Group) (a : F7) : Nat := nv g a % 2 ^ 16
def notClosed (b : Batch) (n : Nat) : Prop := 2 ^ 15 ≤ (b.openN.toNat + 2 ^ 17 - n - 1) % 2 ^ 16
def isComplete (b : Batch) (n : Nat) : Prop := (b.doneN.toNat + 2 ^ 17 - n - 1) % 2 ^ 16 < 2 ^ 15
def isExpired (b : Batch) (n : Nat) : Prop := 8 ≤ (b.doneN.toNat + 2 ^ 17 - n - 1) % 2 ^ 16

/-- The command an event names. -/
def Command (s : State) (id : Nat) (c : Cmd) : Prop := findCmd s id = some c ∧ c.id = id

/-- A command that is complete leaves its engine, and its batch has one command less (R241). -/
def Retired (s t : State) (c : Cmd) (status : Word) : Prop :=
  t.cmds = s.cmds.filter (fun x => x.id != c.id) ∧
  ((s.group c.gid).kind = .vacant → t.groups = s.groups) ∧
  ((s.group c.gid).kind ≠ .vacant → ((s.group c.gid).batch c.cls).openN = c.batch →
    ((s.group c.gid).batch c.cls).doneN = c.batch →
    mgetD (((t.group c.gid).batch c.cls).left) c.batch.toNat 0 =
      mgetD (((s.group c.gid).batch c.cls).left) c.batch.toNat 0 - 1 ∧
    mgetD (((t.group c.gid).batch c.cls).status) c.batch.toNat 0 =
      mgetD (((s.group c.gid).batch c.cls).status) c.batch.toNat 0 ||| status)

/-- The place in a row of the byte that goes to place `k` of row `q` (R247, R248): the same, or under SWZ that of the permuted 16-byte unit;
the permutation is its own inverse. -/
def swzPlace (swz : Bool) (q k : Nat) : Nat := if swz then 16 * ((k / 16) ^^^ (q % 16)) + k % 16 else k

/-- A byte of the team's scratch area (R215). -/
def scratchByte (s : State) (c : Cmd) (off : Nat) : Byte := bget (s.pool (c.core / 8)) (poolAddr (cmdBanks s c) off)

/-- The loop of R226 on FILLED, EPOCH and OVER. -/
def fillLoop (q : Nat) : Nat → Nat × Nat × Bool → Nat × Nat × Bool
  | 0, x => x
  | k + 1, (f, n, o) => if q ≤ f then fillLoop q k (f - q, n + 1, o || decide (0 < f - q)) else (f, n, o)

/-- An object after an arrival of `b` bytes (R226). -/
def Arrived (o o' : BarrierObj) (b : Nat) : Prop :=
  let f := min (o.filled.toNat + b) (2 ^ 32 - 1)
  let r := fillLoop o.quota.toNat (f + 1) (f, o.epoch.toNat, o.overrun)
  o'.quota = o.quota ∧
  if o.quota = 0 then o'.filled = BitVec.ofNat 32 f ∧ o'.epoch = o.epoch ∧ o'.overrun = o.overrun
  else o'.filled = BitVec.ofNat 32 r.1 ∧ o'.epoch = BitVec.ofNat 32 r.2.1 ∧ o'.overrun = r.2.2

/-- The command may start or go on (R239, R244, R245) with unit `c.units`, none of whose bytes is on its way. -/
def UnitDue (s : State) (c : Cmd) : Prop :=
  cmdReady s c = true ∧ c.part = none ∧ c.owed = 0 ∧ c.units < unitsOf c

/-- TINFO of the engine-fault trap (R294). -/
def engineInfo (c : Cmd) (cause : Nat) : Word :=
  BitVec.ofNat 32 (c.cls + 8 * c.sub + 256 * cause + 65536 * c.batch.toNat)

/-- A command that stops (R261): it leaves its engine with FAULT set, and its group, which has not retired, has the trap pending. -/
def Stopped (s t : State) (c : Cmd) (cause : Nat) : Prop :=
  Retired s t c (c.status ||| 4) ∧ OtherGroups s t c.gid ∧
  ((s.group c.gid).kind ≠ .vacant → (s.group c.gid).live ≠ 0 → (s.group c.gid).tpend = [] →
    (t.group c.gid).tpend = [⟨42, engineInfo c cause, 0, c.cls⟩])

/-- The combining step of COLL on words (R119, R197), and its fold over what the ranks bring. -/
def combine (op : Nat) (x y : Word) : Word :=
  match op with
  | 0 => wrap (x.toInt + y.toInt) 32
  | 1 => BitVec.ofNat 32 (fp32.round ⟨0, false, 0⟩ ((f32 x).add (f32 y) false))
  | 2 => wrap (min x.toInt y.toInt) 32
  | 3 => BitVec.ofNat 32 (min x.toNat y.toNat)
  | 4 => wrap (max x.toInt y.toInt) 32
  | 5 => BitVec.ofNat 32 (max x.toNat y.toNat)
  | 6 => BitVec.ofNat 32 (fp32.minMax false x.toNat y.toNat)
  | 7 => BitVec.ofNat 32 (fp32.minMax true x.toNat y.toNat)
  | 8 => x &&& y
  | 9 => x ||| y
  | _ => x ^^^ y

def combineTo (op : Nat) (f : Nat → Word) : Nat → Word
  | 0 => f 0
  | k + 1 => combine op (combineTo op f k) (f (k + 1))

/-- A range of this package's memory that an engine reaches as it stands: every byte translates, and no cluster cache, no buffer of the
command's core and no uncorrectable line stands before it. -/
def EngineRange (s : State) (c : Cmd) (kind : AccKind) (va : DWord) (n pa : Nat) : Prop :=
  va.toNat + n ≤ 2 ^ 57 ∧ pa % 128 = va.toNat % 128 ∧ pa + n ≤ 768 * 2 ^ 30 ∧
  (∀ k, k < n → translate s c.who kind (va + BitVec.ofNat 64 k) = .hit (pa + k) none none) ∧
  ∀ l, pa / 128 ≤ l → 128 * l < pa + n →
    l ∉ s.bad ∧ (∀ e ∈ s.clusters, cacheLine e.2 l = none) ∧ ∀ e ∈ (s.core c.core).sgb, e.pline ≠ l

/-- A word that an engine reads and writes so, outside an ordered phase. -/
def EngineWord (s : State) (c : Cmd) (va : DWord) (pa : Nat) : Prop :=
  va.toNat % 4 = 0 ∧ EngineRange s c .read va 4 pa ∧ EngineRange s c .write va 4 pa ∧ phaseLines s c.task = none

/-- `n` bytes have arrived at the command's barrier object, if it names one (R226, R240). -/
def BytesArrived (s t : State) (c : Cmd) (n : Nat) : Prop :=
  let pa := poolAddr (cmdBanks s c) c.bo.toNat
  c.bo ≠ 0xFFFFFFFF → c.bo.toNat % 16 = 0 → c.bo.toNat + 16 ≤ 65536 * (cmdBanks s c).length → 0 < n →
    Arrived (readObj (s.pool (c.core / 8)) pa) (readObj (t.pool (c.core / 8)) pa) n

/-- The command's barrier object, where it names one, lies in the scratch area (R238). -/
def ObjectFits (s : State) (c : Cmd) : Prop :=
  c.bo = 0xFFFFFFFF ∨ (c.bo.toNat % 16 = 0 ∧ c.bo.toNat + 16 ≤ 65536 * (cmdBanks s c).length)

/-- The next unit of a command whose task is in no ordered phase. -/
def PlainUnit (s : State) (c : Cmd) : Prop :=
  UnitDue s c ∧ phaseLines s c.task = none ∧ (cmdBanks s c).Nodup ∧ ObjectFits s c

/-- A byte offset outside the command's barrier object. -/
def OutsideObject (c : Cmd) (x : Nat) : Prop := c.bo = 0xFFFFFFFF ∨ x < c.bo.toNat ∨ c.bo.toNat + 16 ≤ x

/-- A unit is done: no group changes, and the command goes on as `f` makes it. -/
def UnitDone (s t : State) (c : Cmd) (f : Cmd → Cmd) : Prop :=
  t.groups = s.groups ∧ t.cmds = s.cmds.map (fun x => if x.id = c.id then
    f { c with begun := true, units := c.units + 1, part := none, asked := [], fetched := [], outs := [] } else x)

/-- The status bits that a unit sets. -/
def withStatus (b : Word) (p : Prop) [Decidable p] (c : Cmd) : Cmd := if p then { c with status := c.status ||| b } else c

/-- Memory holds the bytes `f` in a range, and elsewhere what it held. -/
def MemoryTakes (s t : State) (pa n : Nat) (f : Nat → Byte) : Prop :=
  (∀ k, k < n → bget t.mem (pa + k) = f k) ∧ ∀ x, x < pa ∨ pa + n ≤ x → bget t.mem x = bget s.mem x

/-- The scratch area holds the bytes `f` in a range, and elsewhere what it held; but for the barrier object. -/
def PoolTakes (s t : State) (c : Cmd) (off n : Nat) (f : Nat → Byte) : Prop :=
  (∀ k, k < n → OutsideObject c (off + k) → scratchByte t c (off + k) = f k) ∧
  ∀ x, x < 65536 * (cmdBanks s c).length → x < off ∨ off + n ≤ x → OutsideObject c x → scratchByte t c x = scratchByte s c x

/-- Memory is as it was, the scratch area too, and the scratch area but for the barrier object. -/
def MemoryKept (s t : State) : Prop := ∀ x, bget t.mem x = bget s.mem x
def PoolSame (s t : State) (c : Cmd) : Prop := ∀ x, scratchByte t c x = scratchByte s c x
def PoolKept (s t : State) (c : Cmd) : Prop := PoolTakes s t c 0 0 (fun _ => 0)

/-- `n` bytes arrive at an object that the range written does not touch. -/
def ArrivesBeside (s t : State) (c : Cmd) (off len n : Nat) : Prop :=
  c.bo.toNat + 16 ≤ off ∨ off + len ≤ c.bo.toNat → BytesArrived s t c n

/-- A place of a command, in the scratch area or in memory: how it is reached, a byte of it, what a write leaves, and how `n` bytes arrive. -/
def PlaceReached (s : State) (c : Cmd) (kind : AccKind) (pool : Bool) (a : DWord) (n pa : Nat) : Prop :=
  if pool then a.toNat + n ≤ 65536 * (cmdBanks s c).length else EngineRange s c kind a n pa
def placeByte (s : State) (c : Cmd) (pool : Bool) (a : DWord) (pa k : Nat) : Byte :=
  if pool then scratchByte s c (a.toNat + k) else bget s.mem (pa + k)
def PlaceTakes (s t : State) (c : Cmd) (pool : Bool) (a : DWord) (pa n : Nat) (f : Nat → Byte) : Prop :=
  if pool then PoolTakes s t c a.toNat n f ∧ MemoryKept s t ∧ ArrivesBeside s t c a.toNat n n
  else MemoryTakes s t pa n f ∧ PoolKept s t c ∧ BytesArrived s t c n

/-- A place that words `k` and `k + 1` of the descriptor name, `n` bytes on. -/
def placeAt (c : Cmd) (pool : Bool) (k : Nat) : DWord := if pool then (wordOf c.desc k).zeroExtend 64 else addrOf c.desc k

/-- Row `q` of a side of a CPY (R247). -/
def cpyRow (c : Cmd) (pool : Bool) (k w q : Nat) : DWord :=
  placeAt c pool k + (wordOf c.desc w).signExtend 64 * BitVec.ofNat 64 q

/-- No source byte of a CPY is a destination byte. -/
def RowsApart (c : Cmd) (pool : Bool) : Prop :=
  let rb := (wordOf c.desc 4).toNat
  let rows := fieldBits (wordOf c.desc 5) 0 16
  ∀ q q' k k', q < rows → q' < rows → k < rb → k' < rb →
    cpyRow c pool 0 6 q + BitVec.ofNat 64 k ≠ cpyRow c pool 2 7 q' + BitVec.ofNat 64 k'

/-- Index `j` of a GATHER or SCATTER, whose list follows the descriptor once it is read, the row it names, and its slot (R248). -/
def rowIndex (c : Cmd) (j : Nat) : Nat := (wordOf c.desc (8 + j)).toNat
def tableRow (c : Cmd) (j : Nat) : DWord := addrOf c.desc 0 + BitVec.ofNat 64 (rowIndex c j * (wordOf c.desc 2).toNat)
def slotNo (c : Cmd) (j : Nat) : Nat := fieldBits (wordOf c.desc 7) 16 16 + j
def slotOff (c : Cmd) (j : Nat) : Nat := (wordOf c.desc 6).toNat + slotNo c j * (wordOf c.desc 2).toNat

/-- The limits of R248 on rows. -/
def RowsLegal (s : State) (c : Cmd) : Prop :=
  let rb := (wordOf c.desc 2).toNat
  rb % 16 = 0 ∧ (addrOf c.desc 0).toNat % 16 = 0 ∧ (wordOf c.desc 6).toNat % 16 = 0 ∧ ((wordOf c.desc 7).getLsbD 4 = true → rb % 256 = 0) ∧
  slotOff c (fieldBits (wordOf c.desc 7) 0 4) ≤ 65536 * (cmdBanks s c).length

/-- No other gather of the group may write the slots of this one (R329). -/
def NoRival (s : State) (c : Cmd) : Prop :=
  ∀ x ∈ (s.group c.gid).gathers, x.id = c.id ∨ x.lo + x.len ≤ slotOff c 0 ∨ slotOff c (fieldBits (wordOf c.desc 7) 0 4) ≤ x.lo

/-! Elements of matrices (R107, R112 to R116, R250 to R256). -/

/-- The value of element `i` of a row of bytes `f`, with its scale: a block's scale byte from `sc`, or the register's value. -/
def elementOf (e : ElemType) (f sc : Nat → Byte) (reg : Word) (i : Nat) : Machine.Num :=
  match e with
  | .bf16 => bf16.value ((f (2 * i)).toNat + 256 * (f (2 * i + 1)).toNat)
  | .fp32 => f32 (wordOfBytes (fun j => f (4 * i + j)) 4 0)
  | .narrow d =>
    let code := if (fmtOf d).width ≤ 4 then (f (i / 2)).toNat / 16 ^ (i % 2) % 16 else (f i).toNat
    let x := (fmtOf d).value (code % 2 ^ (fmtOf d).width)
    if fmtScale d = 0 then x else if fmtScale d = 1 then x.mul (scaleValue (sc (i / 32)).toNat) else x.mul (f32 reg)

/-- The accumulator after the first `b` blocks of sixteen products (R116). -/
def roundNearest (x : Machine.Num) : Word := BitVec.ofNat 32 (fp32.round ⟨0, false, 0⟩ x)
def blockSum (p : Nat → Machine.Num) (b : Nat) : Machine.Num :=
  let q := fun (j : Nat) => (p (16 * b + 2 * j)).add (p (16 * b + 2 * j + 1)) false
  (((q 0).add (q 1) false).add ((q 2).add (q 3) false) false).add (((q 4).add (q 5) false).add ((q 6).add (q 7) false) false) false
def accumulated (p : Nat → Machine.Num) (start : Word) : Nat → Word
  | 0 => start
  | b + 1 => roundNearest ((f32 (accumulated p start b)).add (f32 (roundNearest (blockSum p b))) false)

/-- The first byte of a tile in a core's accumulator memory. -/
def tileBase (s : State) (c : Cmd) (core t : Nat) : Nat := accAddr s c.team core t 0 0

/-- A core's accumulator memory is as it was but for some rows of a tile. -/
def AccKept (s t : State) (c : Cmd) (core tile lo n : Nat) : Prop :=
  ∀ x, x < tileBase s c core tile + 256 * lo ∨ tileBase s c core tile + 256 * (lo + n) ≤ x → bget (t.core core).acc x = bget (s.core core).acc x

/-- Row `r` of an operand of MMA, and its scales (R251). -/
def operandRow (c : Cmd) (k ld r : Nat) : DWord := addrOf c.desc k + (wordOf c.desc ld).zeroExtend 64 * BitVec.ofNat 64 r
def RowReached (s : State) (c : Cmd) (e : ElemType) (k ld sk r pa psc : Nat) : Prop :=
  EngineRange s c .read (operandRow c k ld r) (e.bytes e.k) pa ∧
  (e.scaled = true → EngineRange s c .read (operandRow c sk 7 r) (e.k / 32) psc)

/-- Word of the exact value of element (m, n) of a drain, before it is rounded (R256): `res` is the residual element. -/
def drained (s : State) (c : Cmd) (m n : Nat) (res : Machine.Num) : Machine.Num :=
  let w := wordOf c.desc
  let x := (f32 (accGet s c.team (c.core + n / 64) (fieldBits (w 3) 0 4) m (n % 64))).mul (f32 (w 4))
  let x := x.add (if (w 3).getLsbD 8 then res else .fin false 0 0) (modeRnd c.mode == 3)
  if (w 3).getLsbD 9 = true ∧
      (philox (w 13 + BitVec.ofNat 32 m, w 14 + BitVec.ofNat 32 n, w 11, w 12) (w 8, w 9)).1.toNat < (w 10).toNat then .fin false 0 0
  else x

/-- The rounding of that element: under stochastic rounding its counter has element index 128 m + n and lane 0 (R106, R256). -/
def drainRnd (c : Cmd) (m n : Nat) : Rnd :=
  ⟨modeRnd c.mode, modeSat c.mode, if modeRnd c.mode = 5 then
    (philox (BitVec.ofNat 32 (128 * m + n), 0, c.off, 0xFFFFFFFF) (loWord c.seeds, hiWord c.seeds)).1.toNat else 0⟩

/-- Byte `k` of an output row of `ns` elements of values `x` (R107, R111 to R114, R256): the elements, then the block scales. -/
def drainByte (e : ElemType) (rnd : Nat → Rnd) (reg : Word) (ns : Nat) (x : Nat → Machine.Num) (k : Nat) : Byte :=
  match e with
  | .bf16 => BitVec.ofNat 8 (bf16.round (rnd (k / 2)) (x (k / 2)) / 256 ^ (k % 2))
  | .fp32 => BitVec.ofNat 8 (fp32.round (rnd (k / 4)) (x (k / 4)) / 256 ^ (k % 4))
  | .narrow d =>
    let f := fmtOf d
    let scale := fun (b : Nat) => blockScale f ((List.range 32).map (fun i => x (32 * b + i)))
    let code := fun (n : Nat) => if fmtScale d = 1 then toBlock f (rnd n) (scale (n / 32)) (x n) else toNarrow d (rnd n) (x n) (f32 reg)
    if f.width ≤ 4 then
      (if k < ns / 2 then BitVec.ofNat 8 (code (2 * k) + 16 * code (2 * k + 1)) else BitVec.ofNat 8 (scale (k - ns / 2)))
    else if k < ns then BitVec.ofNat 8 (code k) else BitVec.ofNat 8 (scale (k - ns))

/-! Compressed data (R257 to R259). -/

/-- Chunks of `e` elements, the padded table, and the elements of chunk `k`. -/
def chunkCount (e : Nat) : Nat := (e + 127) / 128
def tablePad (n : Nat) : Nat := 16 * ((4 + 4 * n + 15) / 16)
def chunkElems (e k : Nat) : Nat := min 128 (e - 128 * k)

/-- Word `k` of bytes `f`, as a number. -/
def numAt (f : Nat → Byte) (k : Nat) : Nat := (wordOfBytes (fun j => f (4 * k + j)) 4 0).toNat

/-- Chunk `j` of a buffer of `n` chunks whose table is `f` is missing or malformed (R257). -/
def chunkLost (f : Nat → Byte) (n j : Nat) : Bool :=
  let w := numAt f (j + 1)
  decide (min (numAt f 0) n ≤ j ∨ w = 0xFFFFFFFF ∨ w % 16 ≠ 0 ∨ w < tablePad n)

/-- The set bits of a bitmap among the first `n`, ascending. -/
def bitsSet (f : Nat → Byte) (n : Nat) : List Nat := (List.range n).filter (fun j => (f (j / 8)).getLsbD (j % 8))

/-- Element `j` of dense bytes `f`, of `z` bytes each, is not zero. -/
def liveElem (f : Nat → Byte) (z j : Nat) : Bool := (List.range z).any (fun i => f (z * j + i) != 0)

/-- A chunk of `n` elements compressed: its values, its size, its bytes (R257). -/
def liveElems (f : Nat → Byte) (z n : Nat) : List Nat := (List.range n).filter (liveElem f z)
def chunkSize (f : Nat → Byte) (z n : Nat) : Nat := 16 * ((16 + z * (liveElems f z n).length + 15) / 16)
def chunkByte (f : Nat → Byte) (z n p : Nat) : Byte :=
  if p < 16 then BitVec.ofNat 8 (((List.range 8).map (fun b => if 8 * p + b < n ∧ liveElem f z (8 * p + b) = true then 2 ^ b else 0)).sum)
  else match (liveElems f z n)[(p - 16) / z]? with
    | some j => f (z * j + (p - 16) % z)
    | none => 0

/-- Where chunk `k` of `e` dense elements starts in the buffer, and its table word under CAP (R257, R259). -/
def chunkBytes (f : Nat → Byte) (z e k : Nat) : Nat := chunkSize (fun p => f (128 * k * z + p)) z (chunkElems e k)
def chunkStart (f : Nat → Byte) (z e : Nat) : Nat → Nat
  | 0 => tablePad (chunkCount e)
  | k + 1 => chunkStart f z e k + chunkBytes f z e k
def tableWord (f : Nat → Byte) (z e cap k : Nat) : Word :=
  if chunkStart f z e (k + 1) ≤ cap then BitVec.ofNat 32 (chunkStart f z e k) else 0xFFFFFFFF

/-- Element `e` is set in a mask of `total` elements whose table stands at `pa` and the bitmap of whose chunk j stands at `pm j`. -/
def maskHas (s : State) (pa : Nat) (pm : Nat → Nat) (total e : Nat) : Bool :=
  !chunkLost (fun p => bget s.mem (pa + p)) (chunkCount total) (e / 128) &&
  (bget s.mem (pm (e / 128) + e % 128 / 8)).getLsbD (e % 8)

/-- A place in the visiting order of IDXWALK (R258): the key of the tile, with child index 2y + x at each level, then row-major. -/
def interleaved : Nat → Nat → Nat → Nat
  | 0, _, _ => 0
  | n + 1, y, x => 4 * interleaved n (y / 2) (x / 2) + 2 * (y % 2) + x % 2
def visitNo (ncols e : Nat) : Nat :=
  256 * interleaved 12 (e / ncols / 16) (e % ncols / 16) + 16 * (e / ncols % 16) + e % ncols % 16

/-! ### Keys (R262 to R268) -/

/-- DIM, LVL, the maximum level, and the child index at level j. -/
def kDim (k : Nat) : Nat := k / 2 ^ 62
def kLvl (k : Nat) : Nat := k % 64
def levelMax (d : Nat) : Nat := if d = 1 then 56 else if d = 2 then 28 else if d = 3 then 18 else 0
def childAt (k j : Nat) : Nat := k / 2 ^ (62 - kDim k * j) % 2 ^ kDim k

/-- R263. -/
def WellFormedKey (k : Nat) : Prop :=
  k < 2 ^ 64 ∧ kDim k ≠ 0 ∧ kLvl k ≤ levelMax (kDim k) ∧ ∀ b, 6 ≤ b → b < 62 - kDim k * kLvl k → k.testBit b = false

/-- The key of dimension `d` and level `l` whose coordinate on each axis below `d` is `c` (R262). -/
def CellKey (k d l : Nat) (c : Nat → Nat) : Prop :=
  WellFormedKey k ∧ kDim k = d ∧ kLvl k = l ∧
    ∀ a, a < d → c a < 2 ^ l ∧ ∀ j, 1 ≤ j → j ≤ l → c a / 2 ^ (l - j) % 2 = childAt k j / 2 ^ a % 2

/-- Word j of a varying run, and a key in a varying pair. -/
def runWord (g : Group) (a : F7) (j i : Nat) : Nat := ((g.row (a.toNat + j)).at i).toNat
def keyIn (g : Group) (a : F7) (i : Nat) : Nat := runWord g a 0 i + 2 ^ 32 * runWord g a 1 i

/-- The coordinates of KENC's run (R267). -/
def encCoord (g : Group) (a : F7) (i x : Nat) : Nat :=
  if x = 0 then (if runWord g a 3 i / 256 % 4 = 1 then keyIn g a i else runWord g a 0 i) else runWord g a x i

/-- KNBR's step (R268): the cell one step along an axis, or no key. -/
def Neighbour (n axis : Nat) (step : Int) (k : Nat) : Prop :=
  (¬(WellFormedKey n ∧ axis < kDim n) → k = 0) ∧
  (WellFormedKey n → axis < kDim n → ∀ c, CellKey n (kDim n) (kLvl n) c →
    ((c axis + step < 0 ∨ c axis + step = 2 ^ kLvl n) → k = 0) ∧
    (0 ≤ c axis + step → c axis + step < 2 ^ kLvl n →
      CellKey k (kDim n) (kLvl n) (fun x => if x = axis then (c axis + step).toNat else c x)))

/-- What a key instruction makes in a lane, as a relation on the key it writes (R267, R268). -/
def keyRel : Instr → Option (F7 × (Group → Nat → Nat → Prop))
  | .kenc d a => some (d, fun g i k =>
      let dim := runWord g a 3 i / 256 % 4
      let l := runWord g a 3 i % 64
      let none_ := dim = 0 ∨ levelMax dim < l ∨ ∃ x, x < dim ∧ 2 ^ l ≤ encCoord g a i x
      (none_ → k = 0) ∧ (¬none_ → CellKey k dim l (encCoord g a i)))
  | .kparent d a => some (d, fun g i k =>
      let n := keyIn g a i
      (¬(WellFormedKey n ∧ kLvl n ≠ 0) → k = 0) ∧
      (WellFormedKey n → kLvl n ≠ 0 → WellFormedKey k ∧ kDim k = kDim n ∧ kLvl k = kLvl n - 1 ∧
        ∀ j, 1 ≤ j → j < kLvl n → childAt k j = childAt n j))
  | .kchild d a b => some (d, fun g i k =>
      let n := keyIn g a i
      let c := lw g b i
      let ok := WellFormedKey n ∧ kLvl n ≠ levelMax (kDim n) ∧ c < 2 ^ kDim n
      (¬ok → k = 0) ∧
      (ok → WellFormedKey k ∧ kDim k = kDim n ∧ kLvl k = kLvl n + 1 ∧ childAt k (kLvl n + 1) = c ∧
        ∀ j, 1 ≤ j → j ≤ kLvl n → childAt k j = childAt n j))
  | .knbrXm d a => some (d, fun g i k => Neighbour (keyIn g a i) 0 (-1) k)
  | .knbrXp d a => some (d, fun g i k => Neighbour (keyIn g a i) 0 1 k)
  | .knbrYm d a => some (d, fun g i k => Neighbour (keyIn g a i) 1 (-1) k)
  | .knbrYp d a => some (d, fun g i k => Neighbour (keyIn g a i) 1 1 k)
  | .knbrZm d a => some (d, fun g i k => Neighbour (keyIn g a i) 2 (-1) k)
  | .knbrZp d a => some (d, fun g i k => Neighbour (keyIn g a i) 2 1 k)
  | _ => none

/-- Low and high word of a number per lane. -/
def wordRows (d : F7) (f : Nat → Nat) : List (Nat × (Nat → Word)) :=
  [(d.toNat, fun i => BitVec.ofNat 32 (f i)), (d.toNat + 1, fun i => BitVec.ofNat 32 (f i / 2 ^ 32))]

/-! ### The keyspace (R269 to R279, R385 to R399) -/

/-- The group's task and its keyspace descriptor (R269). -/
def KeyTask (s : State) (t : Task) (d : KDesc) : Prop :=
  s.task? s.G.task = some t ∧ t.kdesc = some d

/-- The group's task has no keyspace (R266 check 4). -/
def NoKeyspace (s : State) : Prop := ∀ t, s.task? s.G.task = some t → t.kdesc = none

/-- A key that names a cell of the task (R269). -/
def OfTask (d : KDesc) (k : Nat) : Prop := WellFormedKey k ∧ kDim k = d.dim

/-- The subtree of a cell (R264). -/
def Below (k x : Nat) : Prop :=
  let sh := 62 - kDim k * kLvl k
  WellFormedKey x ∧ k ≤ x ∧ x ≤ k / 2 ^ sh * 2 ^ sh + 2 ^ sh - 1

/-- The four words of R271 for a leaf. -/
def leafRun (cs : List Cut) (l : KLeaf) (status count : Nat) : List Word :=
  [loWord l.key, hiWord l.key, (cutEntry cs l.owner).owner, BitVec.ofNat 32 (status + 256 * count)]

/-- The number of leaves of a subtree. -/
def LeafCount (ls : List KLeaf) (k n : Nat) : Prop :=
  ∃ below : List KLeaf, below.Sublist ls ∧ (∀ l ∈ ls, l ∈ below ↔ Below k l.key.toNat) ∧ below.length = n

/-- KLOCATE's answer for the key `k` among the leaves `ls`, none of them migrating (R271). -/
def LocateRun (d : KDesc) (cs : List Cut) (ls : List KLeaf) (k : Nat) (ws : List Word) : Prop :=
  (¬OfTask d k → ws = [0, 0, 0xFFFFFFFF, 4]) ∧
  (OfTask d k →
    (∀ l ∈ ls, l.key.toNat = k → ws = leafRun cs l 0 1) ∧
    (∀ l ∈ ls, l.key.toNat ≠ k → (∀ x ∈ ls, x.key.toNat ≠ k) → Below l.key.toNat k → ws = leafRun cs l 1 1) ∧
    ((∀ l ∈ ls, l.key.toNat ≠ k ∧ ¬Below l.key.toNat k) →
      (∀ l ∈ ls, Below k l.key.toNat → (∀ x ∈ ls, Below k x.key.toNat → l.key.toNat ≤ x.key.toNat) →
        ∃ n, LeafCount ls k n ∧ ws = leafRun cs l 2 (min n (2 ^ 24 - 1))) ∧
      ((∀ l ∈ ls, ¬Below k l.key.toNat) → ws = [0, 0, 0xFFFFFFFF, 4])))

/-- The leaf that KLOCATE's run for a key would name (R271, R272): the one of EQUAL, of COARSER, or the first of FINER. -/
def NamedLeaf (d : KDesc) (ls : List KLeaf) (k : Nat) (l : KLeaf) : Prop :=
  OfTask d k ∧ l ∈ ls ∧ (l.key.toNat = k ∨ (Below l.key.toNat k ∧ ∀ x ∈ ls, x.key.toNat ≠ k) ∨
    (Below k l.key.toNat ∧ (∀ x ∈ ls, x.key.toNat ≠ k ∧ ¬Below x.key.toNat k) ∧
      ∀ x ∈ ls, Below k x.key.toNat → l.key.toNat ≤ x.key.toNat))

/-- The leaves of one package lie apart, each named once (R389). -/
def LeavesApart (d : KDesc) (ls : List KLeaf) : Prop :=
  (ls.map KLeaf.key).Nodup ∧ (∀ l ∈ ls, OfTask d l.key.toNat) ∧
    ∀ l ∈ ls, ∀ x ∈ ls, Below l.key.toNat x.key.toNat → l.key = x.key

/-- All owners are in this package. -/
def AllLocal (s : State) (cs : List Cut) : Prop := ∀ j, j < cs.length → (cutEntry cs j).local s = true

/-- Entry `j` is the owner of the reach that holds `k` (R387): the last non-empty entry whose FIRST is not above it, else the
first non-empty one. -/
def ReachOf (cs : List Cut) (k j : Nat) : Prop :=
  j < cs.length ∧ (cutEntry cs j).empty = false ∧
  (((cutEntry cs j).first.toNat ≤ k ∧
      ∀ i, j < i → i < cs.length → (cutEntry cs i).empty = false → k < (cutEntry cs i).first.toNat) ∨
   ((∀ i, i < cs.length → (cutEntry cs i).empty = false → k < (cutEntry cs i).first.toNat) ∧
      ∀ i, i < j → (cutEntry cs i).empty = true))

/-- FIRST rises over the non-empty entries (R386). -/
def CutsRise (cs : List Cut) : Prop :=
  ∀ i j, i < j → j < cs.length → (cutEntry cs i).empty = false → (cutEntry cs j).empty = false →
    (cutEntry cs i).first.toNat < (cutEntry cs j).first.toNat

/-- What a quarter's local cut table and cut cache hold of a task are reaches of a cut list (R388). -/
def CutsHeld (s : State) (q tid : Nat) (cs : List Cut) : Prop :=
  ∀ e, e ∈ (s.cutTables q).loc ∨ e ∈ (s.cutTables q).cache → e.task = tid →
    ∀ k, e.first.toNat ≤ k → (e.next = 0 ∨ k < e.next.toNat) → ∃ j, ReachOf cs k j ∧ (cutEntry cs j).owner = e.owner

/-- A request that staging accepts (R273): of a cell of the task, below the maximum level or above level 0, naming LIVE
leaves of the team's owner only, and equal to a staged one or within the 4,096. -/
def Accepted (d : KDesc) (es : List KEnt) (st : List (Bool × DWord)) (refine : Bool) (k : DWord) : Prop :=
  let n := k.toNat
  OfTask d n ∧ (if refine then kLvl n ≠ levelMax d.dim else kLvl n ≠ 0) ∧
    (if refine then ∃ e ∈ es, e.key = k ∧ e.state = 0
     else ∀ c, c < 2 ^ d.dim → ∃ x, WellFormedKey x ∧ kDim x = d.dim ∧ kLvl x = kLvl n + 1 ∧ childAt x (kLvl n + 1) = c ∧
       (∀ j, 1 ≤ j → j ≤ kLvl n → childAt x j = childAt n j) ∧ ∃ e ∈ es, e.key.toNat = x ∧ e.state = 0) ∧
    ((refine, k) ∈ st ∨ st.length < 4096)

/-- Staging over lanes in order: which of them are accepted, and the team's requests after them. -/
inductive Staging (d : KDesc) (es : List KEnt) (refine : Bool) (key : Nat → DWord) :
    List Nat → List (Bool × DWord) → (Nat → Bool) → List (Bool × DWord) → Prop
  | done (st : List (Bool × DWord)) (f : Nat → Bool) : Staging d es refine key [] st f st
  | again (i : Nat) (is : List Nat) (st st' : List (Bool × DWord)) (f : Nat → Bool) :
      Accepted d es st refine (key i) → (refine, key i) ∈ st → f i = true → Staging d es refine key is st f st' →
      Staging d es refine key (i :: is) st f st'
  | add (i : Nat) (is : List Nat) (st st' : List (Bool × DWord)) (f : Nat → Bool) :
      Accepted d es st refine (key i) → (refine, key i) ∉ st → f i = true →
      Staging d es refine key is (st ++ [(refine, key i)]) f st' → Staging d es refine key (i :: is) st f st'
  | no (i : Nat) (is : List Nat) (st st' : List (Bool × DWord)) (f : Nat → Bool) :
      ¬Accepted d es st refine (key i) → f i = false → Staging d es refine key is st f st' →
      Staging d es refine key (i :: is) st f st'

/-- KREFINE and KCOARSEN. -/
def stageOp : Instr → Option (Bool × F7 × F7)
  | .krefine d a => some (true, d, a)
  | .kcoarsen d a => some (false, d, a)
  | _ => none

/-- The entries of the team's owner as they stand at the header's version (R273). -/
def OwnEntries (s : State) (t : Task) (d : KDesc) (es : List KEnt) : Prop :=
  ∃ v cs j, headVersion s t d = .ok v ∧ cutsOf s t d v = .ok cs ∧ teamOwner s s.G cs = some j ∧
    readIndex s t d j = .ok es

/-- A handle word (R280). -/
def handleFields (h : DWord) (pkg qtr index gen : Nat) : Prop :=
  h.toNat = pkg * 2 ^ 44 + qtr * 2 ^ 42 + index * 2 ^ 26 + gen

/-- Index `n` is the lowest FREE entry of a quarter's handle table (R419). -/
def FreeHandle (s : State) (q n : Nat) : Prop :=
  n < 65536 ∧ (s.handle (65536 * q + n)).state = .free ∧ ∀ m, m < n → (s.handle (65536 * q + m)).state ≠ .free
def NoFreeHandle (s : State) (q : Nat) : Prop := ∀ n, n < 65536 → (s.handle (65536 * q + n)).state ≠ .free

/-- The entry of a handle just issued (R418, R419). -/
def NewEntry (s : State) (e e' : HandleEntry) (task tmo : Nat) : Prop :=
  e'.state = .pending ∧ e'.gen = e.gen ∧ e'.task = task ∧ e'.tmo = tmo ∧ e'.waiting = 0 ∧ e'.dropped = false ∧
    e'.deadline = addNs s.clock (16000 * 2 ^ tmo)

/-- The outcome that has been sent to a handle of this package (R420). -/
def Told (s t : State) (h : DWord) (task : Nat) (words : List Word) (cause fwd : Nat) : Prop :=
  ∃ m : ResultMsg, t.results = s.results ++ [m] ∧ m.h = h ∧ m.task = task ∧ m.words = words ∧ m.cause.toNat = cause ∧
    m.fwd.toNat = fwd ∧ m.of = 0

/-- One lane alone is active. -/
def OnlyLane (g : Group) (i : Nat) : Prop := i < 96 ∧ ∀ k, k < 96 → (g.active.getLsbD k = true ↔ k = i)

/-- The address of slot `n` of owner `j` (R390), and a slot that no entry of the owner names. -/
def payloadSlot (d : KDesc) (j n : Nat) : DWord := d.payload + BitVec.ofNat 64 ((j * d.icap + n) * d.psize)
def FreeSlot (d : KDesc) (j : Nat) (es : List KEnt) (n : Nat) : Prop := ∀ x ∈ es, x.payload ≠ payloadSlot d j n

/-- An owner's entries name slots of its own, with room for a cell's children but one, and its payload lies below 2^64 (R389, R390). -/
def SlotsLegal (d : KDesc) (j : Nat) (es : List KEnt) : Prop :=
  (∀ x ∈ es, ∃ n, n < d.icap ∧ x.payload = payloadSlot d j n) ∧ es.length + 2 ^ d.dim ≤ d.icap + 1 ∧ 0 < d.psize ∧
    d.payload.toNat + (j + 1) * d.icap * d.psize ≤ 2 ^ 64

/-- Children 1 onwards take the lowest-numbered free slots in ascending order (R390). -/
def SlotsTaken (d : KDesc) (j : Nat) (es : List KEnt) (ns : Nat → Nat) : Prop :=
  ∀ c, 1 ≤ c → c < 2 ^ d.dim → FreeSlot d j es (ns c) ∧ (∀ b, 1 ≤ b → b < c → ns b < ns c) ∧
    ∀ m, m < ns c → FreeSlot d j es m → ∃ b, 1 ≤ b ∧ b < c ∧ ns b = m

/-- KREBAL breaks its handle with REFUSED (R276): another rebalance of the task is unfinished, a team of it holds staged requests, or it is in an
ordered phase. -/
def RebalanceBarred (s : State) (t : Task) : Prop :=
  t.rebal.isSome = true ∨ t.inPhase = true ∨ ∃ e ∈ s.teams, e.2.task = s.G.task ∧ e.2.staged ≠ []

/-- Every owner of the task is in this package, so that its barriers and phases are this package's alone. -/
def OnePackage (s : State) (t : Task) : Prop :=
  ∀ d v cs, t.kdesc = some d → headVersion s t d = .ok v → cutsOf s t d v = .ok cs → AllLocal s cs

/-- No rewrite of a FIRST is on its way to another package (R404). -/
def FirstsSettled (s : State) (tid : Nat) : Prop :=
  ∀ e ∈ s.streams, ∀ k ∈ e.2.kept, ∀ old new, k.1.body ≠ .first tid old new

/-- P(l), the costs before a leaf, and T of R276. -/
def costBefore (ls : List Costed) (n : Nat) : Nat := ((ls.take n).map (fun e => e.2.2.toNat)).sum
def costTotal (ls : List Costed) : Nat := costBefore ls ls.length

/-- A started group of a team has arrived at its barrier `n` by BAR (or KCOMMIT), and its fence holds (R228, R229). -/
def AtBarrier (s : State) (g : Group) (n : Nat) (commit : Bool) (p : Pend) : Prop :=
  arrived s n g = some (p, commit)

/-- The arrival `p` of group `gid` has completed: its L1 is dropped, its flag falls, and nothing else of the group
changes, when no refused store is to be reported. -/
def ArrivalDone (s t : State) (gid : Nat) (p : Pend) : Prop :=
  (t.core (s.group gid).core).l1 = [] ∧ Completed (s.group gid) (t.group gid) p [] 0

/-! ### Remote invocation and handles (R280 to R289, R418 to R422) -/

/-- Destination, words, target block, whether the block is outside its limits beyond TMO, and the target (R282, R283). -/
def rinvOp : Instr → Option (F7 × F7 × F7 × (Word → Word → Prop) × (Word → Word → InvTarget))
  | .rinvKey d a b => some (d, a, b, fun _ _ => False, fun x y => .key (pair x y))
  | .rinvPkg d a b => some (d, a, b, fun x y => 2 ^ 22 ≤ x.toNat ∨ y ≠ 0,
      fun x _ => .pkg (x.toNat % 2 ^ 20) (x.toNat / 2 ^ 20 % 4))
  | .rinvHdl d a b => some (d, a, b, fun _ _ => False, fun x y => .hdl (pair x y))
  | _ => none

/-- Word j of a uniform run. -/
def uniWordAt (g : Group) (a : F7) (j : Nat) : Word := g.uni (a.toNat + j)

/-- The entry that a handle of this package names (R280). -/
def entryNo (h : DWord) : Nat := h.toNat / 2 ^ 26 % 2 ^ 18

/-- A handle that names an issued entry of this package and of the task (R281, R289). -/
def Names (s : State) (h : DWord) (task : Nat) (e : HandleEntry) : Prop :=
  h ≠ 0 ∧ h.toNat / 2 ^ 44 = s.dev.pkg ∧ e = s.handle (entryNo h) ∧ e.state ≠ .free ∧ e.gen.toNat = h.toNat % 2 ^ 26 ∧
    e.task = task ∧ e.dropped = false

/-- A handle is BROKEN for the task with cause word `c` (R281, R287, R288): the null handle NO_ENTRY, a stale one STALE. -/
def BrokenNow (s : State) (h : DWord) (task : Nat) (c : Word) : Prop :=
  (h = 0 ∧ c = 6) ∨ (h ≠ 0 ∧ h.toNat / 2 ^ 44 = s.dev.pkg ∧ (∀ e, ¬Names s h task e) ∧ c = 5) ∨
    ∃ e, Names s h task e ∧ e.state = .broken ∧ c = e.cause

/-- The handle of a uniform pair. -/
def handleIn (g : Group) (a : F7) : DWord := pair (g.uni a.toNat) (g.uni (a.toNat + 1))

/-- HOPS one more, saturating, and the same CAUSE (R287). -/
def nextHop (c : Nat) : Nat := min (c / 65536 + 1) 65535 * 65536 + c % 256

/-- What a resolved RAWAIT writes (R288): eight words from s[D], and p[B]. -/
def awaitOut (d b : F7) (w : Nat → Word) (ok : Bool) : Out :=
  { unis := (List.range 8).map (fun k => (d.toNat + k, w k)), preds := [(b.toNat, fun _ => ok)] }

/-- What a resolved RAWAIT writes at its completion. -/
def awaitDone (p : Pend) (d b : F7) (w : Nat → Word) (ok : Bool) : List RegWrite :=
  (List.range 8).map (fun k => ⟨.s (d.toNat + k), [w k], 1⟩) ++ [⟨.p b.toNat, mkRow (fun _ => if ok then 1 else 0), p.lanes⟩]

/-- A word of the current group that tests a handle may do so at once: nothing issued before must be performed first (R221, R229, R265, R324). -/
def TestsAtOnce (s : State) (i : Instr) (body : PendBody) : Prop :=
  ∃ sh, i.shape = some sh ∧ pollFree s (s.G.mkPend sh s.G.fa body) = true

/-- An entry becomes FREE with GEN advanced (R289, R419): GEN runs from 1 to 2^26 − 1. -/
def Freed (e e' : HandleEntry) : Prop :=
  e'.state = .free ∧ e'.gen.toNat = (if e.gen.toNat = 2 ^ 26 - 1 then 1 else e.gen.toNat + 1)

/-- Nothing of the machine but the handle table differs. -/
def HandlesOnly (s t : State) : Prop := { t with handles := s.handles } = s

/-- No invocation waits at an entry, no entry of any package has been forwarded to it, and nothing dropped is to be freed: its
outcome reaches nobody else. -/
def Alone (s : State) (k : Nat) : Prop :=
  heldAt s k = [] ∧ followers s (entryHandle s k (s.handle k)) = [] ∧ (s.handle k).follows = [] ∧ (s.handle k).dropped = false

/-- An outcome counts at an entry (R420, R421): its own while the entry is PENDING, that of FWDH while it is FORWARDED. -/
def Counts (e : HandleEntry) (m : ResultMsg) : Prop :=
  e.gen.toNat = m.h.toNat % 2 ^ 26 ∧ e.task = m.task ∧
    ((e.state = .pending ∧ m.of = 0) ∨ (e.state = .forwarded ∧ m.of = e.fwdh ∧ m.of ≠ 0))

/-- The registers and the place of a service group at its start (R284). -/
def ServiceGroup (r : InvRec) (v : Service) (core : Nat) (key payload : DWord) (h : Group) : Prop :=
  h.kind = .service ∧ h.width = 32 ∧ h.budget = v.budget ∧ h.core = core ∧ h.task = r.inv.task ∧ h.asid = v.asid ∧
    h.split.pc = v.entry ∧ h.split.mask = widthMask 32 ∧ h.clause = none ∧ h.pends = [] ∧ h.v = [] ∧ h.p = [] ∧
    (∀ k, k < 8 → h.uni k = r.inv.args.getD k 0) ∧ h.uni 8 = 0xFFFFFFFF ∧ h.uni 9 = BitVec.ofNat 32 r.inv.service ∧
    pair (h.uni 10) (h.uni 11) = key ∧ pair (h.uni 12) (h.uni 13) = payload ∧ pair (h.uni 14) (h.uni 15) = r.inv.handle ∧
    (∀ k, k < 8 → h.uni (16 + k) = r.inv.input.getD k 0) ∧ ∀ k, 24 ≤ k → k < 60 → h.uni k = 0

/-! ### System instructions (12) -/

/-- The sum of 2^k over the numbers k below n that satisfy a test. -/
def bitSum (n : Nat) (f : Nat → Bool) : Nat := ((List.range n).map (fun k => if f k then 2 ^ k else 0)).sum

/-- The system registers (R294): read level and value by number. -/
def sysValue (s : State) (n : Nat) : Option (Nat × Word) :=
  let g := s.G
  if n = 0 then some (1, g.tcause)
  else if n = 1 then some (1, g.tinfo)
  else if n = 2 then some (1, loWord g.tepc)
  else if n = 3 then some (1, hiWord g.tepc)
  else if n = 4 then some (1, g.tret)
  else if n = 5 then some (1, loWord g.taddr)
  else if n = 6 then some (1, hiWord g.taddr)
  else if n = 7 then some (1, BitVec.ofNat 32 (bitSum 4 (fun c => g.tpend.any (fun t => t.code == 40 + c))))
  else if n = 8 then some (1, BitVec.ofNat 32 (bitSum 8 (fun k => (mget g.log k).isSome) +
    match g.frame.bind Frame.entry with | some k => 256 * k + 2048 | none => 0))
  else if n = 9 then some (1, BitVec.ofNat 32 g.xfer)
  else if n = 10 then some (0, BitVec.ofNat 32 g.level)
  else if n = 11 then some (1, s.thand g)
  else if 0x10000 ≤ n ∧ n < 0x10040 then
    some (2, BitVec.ofNat 32 (mgetD (s.cluster (g.core / 8)).banks (n - 0x10000) Bank.empty).role)
  else if 0x20000 ≤ n ∧ n < 0x20100 then some (2, mgetD s.dev.comms (n - 0x20000) 0)
  else if n = 0x30000 then some (2, loWord s.dev.svctab.1)
  else if n = 0x30001 then some (2, hiWord s.dev.svctab.1)
  else if n = 0x30002 then some (2, BitVec.ofNat 32 s.dev.svctab.2)
  else none

/-- The level that SYSWR needs, when the register can be written (R294). -/
def sysWriteLevel (n : Nat) : Option Nat :=
  if n = 2 ∨ n = 3 ∨ n = 4 then some 1
  else if n = 11 ∨ (0x10000 ≤ n ∧ n < 0x10040) ∨ (0x20000 ≤ n ∧ n < 0x20100) ∨ (0x30000 ≤ n ∧ n < 0x30003) then some 2
  else none

/-- A malformed written value (R293 to R296). -/
def SysMalformed (n : Nat) (w : Word) : Prop :=
  (n = 4 ∧ 3 < w.toNat) ∨ (n = 11 ∧ w.toNat % 4 ≠ 0) ∨ (0x10000 ≤ n ∧ n < 0x10040 ∧ w.toNat % 4 = 3) ∨
    (0x20000 ≤ n ∧ n < 0x20100 ∧ n % 4 = 2 ∧ 2 ^ 20 < w.toNat) ∨ (n = 0x30002 ∧ 256 < w.toNat)

/-- The machine with a system register written, BANKROLE apart. -/
def sysStored (s : State) (n : Nat) (w : Word) : State :=
  if n = 2 then s.setG { s.G with tepc := pair w (hiWord s.G.tepc) }
  else if n = 3 then s.setG { s.G with tepc := pair (loWord s.G.tepc) w }
  else if n = 4 then s.setG { s.G with tret := w }
  else if n = 11 then (if s.ofPackage s.G then s.setG { s.G with thand := w } else match s.task? s.G.task with
    | some t => s.setTask s.G.task { t with thand := w }
    | none => s)
  else if n < 0x30000 then { s with dev := { s.dev with comms := mput s.dev.comms (n - 0x20000) w } }
  else if n = 0x30000 then { s with dev := { s.dev with svctab := (pair w (hiWord s.dev.svctab.1), s.dev.svctab.2) } }
  else if n = 0x30001 then { s with dev := { s.dev with svctab := (pair (loWord s.dev.svctab.1) w, s.dev.svctab.2) } }
  else { s with dev := { s.dev with svctab := (s.dev.svctab.1, w.toNat) } }

/-- The header words of a log entry (R304). -/
def logField (e : LogEntry) : List Word :=
  let aff := match e.affs with | x :: _ => x.2 | [] => ⟨0, 0⟩
  [loWord e.pc, hiWord e.pc, e.word, e.cause, e.lanes.extractLsb' 0 32, e.lanes.extractLsb' 32 32, e.lanes.extractLsb' 64 32,
    loWord e.addr, hiWord e.addr, loWord aff.base, hiWord aff.base, aff.stride,
    BitVec.ofNat 32 (min 63 e.src.length + 256 * bitSum (min 23 e.src.length)
      (fun k => match e.src[k]? with | some (.uni _) => true | _ => false)),
    BitVec.ofNat 32 (2 ^ 31 + e.seq % 65536), 0, 0]

/-- The word that LOGRD writes in a lane (R304). -/
def logPick (e : LogEntry) (sel i : Nat) : Word :=
  if sel < 16 then (logField e).getD sel 0
  else match e.src[sel - 16]? with
    | some (.uni w) => w
    | some (.lanes r) => r.at i
    | none => 0

/-- The split that a fault's word issued in (R305): the one that was current at entry, or, where the fault came after the word had
issued, the one that has come from the word's split. -/
def faultedIn (g : Group) (f : Machine.Frame) : Nat :=
  if f.redo = none then f.cur
  else match f.splits.find? (fun e => e.2.mask &&& ~~~g.exited != 0 && e.2.ids.contains f.lateSid) with
    | some e => e.1
    | none => f.cur

/-- What ERET brings back whatever TRET says (R302, R305): the level, the stack, the predicates, s52 to s59, and the splits
without the lanes that have exited since, that of the fault apart; everything else is the handler's. -/
def Restored (g h : Group) (f : Machine.Frame) : Prop :=
  h.level = f.level ∧ h.frame = none ∧ h.hidden = [] ∧ h.stack = f.stack ∧
    h.parked = (f.parked.map (fun sp => { sp with mask := sp.mask &&& ~~~g.exited })).filter (fun sp => sp.mask != 0) ∧ h.p = f.preds ∧
    (∀ k, k < 8 → h.uni (52 + k) = f.unis.getD k 0) ∧ (∀ n, n < 52 → h.uni n = g.uni n) ∧ h.v = g.v ∧ h.a = g.a ∧ h.x = g.x ∧
    h.flags = g.flags ∧ h.xfer = g.xfer ∧ h.pends = g.pends ∧ h.exited = g.exited ∧ h.tpend = g.tpend ∧
    ∀ k sp, k ≠ faultedIn g f → mget f.splits k = some sp → sp.mask &&& ~~~g.exited ≠ 0 →
      mget h.splits k = some { sp with mask := sp.mask &&& ~~~g.exited }

/-- The split of the fault, back in its place, at `pc` where that is given. -/
def FaultedBack (g h : Group) (f : Machine.Frame) (pc : Option DWord) : Prop :=
  ∀ sp, mget f.splits (faultedIn g f) = some sp → sp.mask &&& ~~~g.exited ≠ 0 →
    mget h.splits (faultedIn g f) = some { sp with mask := sp.mask &&& ~~~g.exited, pc := pc.getD sp.pc }

/-- The clause in which the faulted word is issued again, with the temporaries counted as written in `tw`: its own, or the word
alone, in its own split, when the fault came after later words had issued (R305, R324); then the interrupted clause is to come back
with its temporaries and its split. -/
def Resumes (g h : Group) (f : Machine.Frame) (tw : BitVec 4) : Prop :=
  h.cur = faultedIn g f ∧
  (∀ c, f.redo = none → f.clause = some c → h.clause = some { c with tw := tw } ∧ h.again = f.again ∧ h.after = f.after) ∧
  (∀ c, f.redo = some c → h.again = f.late ∧ h.after = ⟨f.clause, some f.temps, f.ovr, f.again, f.cur⟩ :: f.after ∧
    h.clause = some { c with len := c.pos + 1 + litsOfWord (c.words.getD c.pos 0), tw := tw, taken := true })

/-- The clause goes on behind the faulted word. -/
def GoesOn (h : Group) (f : Machine.Frame) : Prop :=
  h.cur = f.cur ∧
  (∀ c, f.redo = none → f.clause = some c →
    h.clause = some { c with pos := c.pos + 1 + litsOfWord (c.words.getD c.pos 0), tw := f.tw }) ∧
  (f.redo ≠ none → h.clause = f.clause ∧ h.ovr = f.ovr ∧ h.again = f.again) ∧ h.after = f.after

/-- The log entries of the list `l` are freed, and no other. -/
def LogWithout (g h : Group) (l : List (Option Nat)) : Prop :=
  ∀ j, mget h.log j = if some j ∈ l then none else mget g.log j

/-- After TRET 3: the split of the fault starts afresh, and every word that was being issued again is done; but a clause of another split
that the fault interrupted goes on after the clause at TEPC. -/
def Afresh (g h : Group) (f : Machine.Frame) : Prop :=
  h.cur = faultedIn g f ∧ h.clause = none ∧
  (f.clause.isSome = true → faultedIn g f ≠ f.cur →
    h.after = ⟨f.clause, some f.temps, f.ovr, f.again, f.cur⟩ :: f.after ∧ LogWithout g h [f.entry]) ∧
  (f.clause = none ∨ faultedIn g f = f.cur → h.after = [] ∧ LogWithout g h (f.entry :: f.ovr :: f.after.map Back.ovr))

/-- What waits for a page in a cluster takes the translation fault (R321): a group's issued accesses to it, and a word that stands
at issue until the page is there. -/
def PageFails (s t : State) (c asid page gid : Nat) : Prop :=
  ∀ g, mget s.groups gid = some g → g.kind ≠ .vacant → g.kind ≠ .walker → g.core / 8 = c → g.asid = asid →
    (∀ p ∈ (t.group gid).pends, p.missed = true → (∃ y ∈ p.accs, pageOf y.va = page) → page ∈ p.failed) ∧
    (page ∈ g.pageWaits.map Prod.fst → (page, true) ∈ (t.group gid).pageWaits)

/-- A page of an address space waits in a cluster for the walker (R321). -/
def waits (s : State) (c asid page : Nat) : Prop := ∃ m ∈ (s.cluster c).misses, m.asid = asid ∧ m.page = page

/-- The translations that a TLBINV takes (R297). -/
def InvTakes (scope asid page a p : Nat) : Prop :=
  (scope = 0 ∧ a = asid ∧ p = page) ∨ (scope = 1 ∧ a = asid) ∨ scope = 2

/-! ### The dealer (18) -/

/-- Bits `lo` up to `lo + n - 1` of the little-endian field of four bytes at an offset. -/
def bitsAt (bs : List Byte) (off lo n : Nat) : Nat := fieldAt bs off 4 / 2 ^ lo % 2 ^ n

/-- GROUPS of the first `k` roles, summed. -/
def groupSum (bs : List Byte) (k : Nat) : Nat := ((List.range k).map (fun j => bitsAt bs (0x34 + 8 * j) 0 5)).sum

/-- A counter number outside the mailbox's range (R359, R362). -/
def CounterOut (b : Mailbox) (c : Nat) : Prop := c < b.cbase ∨ b.cbase + b.ccount ≤ c

/-- The check of R362 with a DETAIL fails for the record bytes of a mailbox. -/
def RecordFails (s : State) (m : Nat) (bs : List Byte) (d : Nat) : Prop :=
  let x := bitsAt bs
  let b := s.mailbox m
  (d = 0 ∧ (x 0 19 13 ≠ 0 ∨ x 0 15 1 ≠ 0 ∨ x 0 11 1 ≠ 0 ∨ x 0 7 1 ≠ 0 ∨ x 0 2 2 ≠ 0 ∨ x 0 0 2 = 1 ∨ x 0 0 2 = 3 ∨
      (x 0 0 2 = 2 ∧ b.owner = false) ∨ (x 0 12 1 = 1 ∧ x 0 14 1 = 0) ∨ 4 < x 0 16 3)) ∨
  (d = 4 ∧ x 0 12 1 = 0 ∧ (x 4 0 32 = 0 ∨ 2 ^ 20 < x 4 0 32)) ∨
  (d = 8 ∧ fieldAt bs 8 8 % 2 ^ 21 ≠ 0) ∨
  (d = 0x10 ∧ x 0x10 0 32 % 4 ≠ 0) ∨
  (d = 0x14 ∧ (x 0x14 7 1 ≠ 0 ∨ x 0x14 15 1 ≠ 0 ∨ x 0x14 23 9 ≠ 0 ∨ 64 < x 0x14 0 7 + x 0x14 8 7 + x 0x14 16 7)) ∨
  (d = 0x18 ∧ (x 0x18 5 11 ≠ 0 ∨ 16 < x 0x18 0 5)) ∨
  (d = 0x1C ∧ 65536 < x 0x1C 0 32) ∨
  (d = 0x20 ∧ x 0x1C 0 32 ≠ 0 ∧ fieldAt bs 0x20 8 % 64 ≠ 0) ∨
  (d = 0x28 ∧ x 0 14 1 = 1 ∧ checkKeyspace s m (parseRecord bs) = none) ∨
  (d = 0x30 ∧ (groupSum bs 3 = 0 ∨ (parseRecord bs).fits = false)) ∨
  (∃ k, k < 3 ∧ d = 0x30 + 8 * k ∧ ((groupSum bs k ≤ 16 ∧ 16 < groupSum bs (k + 1)) ∨
      x (0x34 + 8 * k) 5 3 ≠ 0 ∨ x (0x34 + 8 * k) 10 6 ≠ 0 ∨ x (0x34 + 8 * k) 23 9 ≠ 0 ∨
      (x (0x34 + 8 * k) 0 5 ≠ 0 ∧ (x (0x34 + 8 * k) 8 2 = 3 ∨ x (0x34 + 8 * k) 16 7 % 4 ≠ 0 ∨ x (0x34 + 8 * k) 16 7 < 8 ∨
        124 < x (0x34 + 8 * k) 16 7 ∨ x (0x30 + 8 * k) 0 32 % 4 ≠ 0)))) ∨
  (d = 0x48 ∧ x 0 16 3 ≠ 0 ∧ fieldAt bs 0x48 8 % 256 ≠ 0) ∨
  (∃ k, k < 4 ∧ d = 0x70 + 16 * k ∧ x d 31 1 = 1 ∧ (x d 28 2 ≠ 0 ∨ x d 30 1 ≠ 0 ∨ x d 12 16 ≠ 0 ∨ x (d + 4) 0 32 ≠ 0 ∨
      CounterOut b (x d 0 12))) ∨
  (∃ k, k < 4 ∧ d = 0xB0 + 16 * k ∧ x d 31 1 = 1 ∧ (x d 28 2 = 0 ∨ x d 30 1 ≠ 0 ∨ x d 12 16 ≠ 0 ∨ x (d + 4) 0 32 ≠ 0 ∨
      CounterOut b (x d 0 12))) ∨
  (d = 0xF0 ∧ fieldAt bs 0xF0 8 % 4 ≠ 0)

/-- A mailbox's dealer accepts records (R360, R430, R435, R436). -/
def Listening (s : State) (m : Nat) : Prop :=
  s.dev.powered = true ∧ s.dev.recovery = false ∧ (s.mailbox m).ctxsize ≠ 0 ∧ (s.mailbox m).parts ≠ 0 ∧
    ∀ e ∈ s.tasks, e.2.mailbox / 8 = m / 8 → e.2.flr = false

/-- The 256 bytes of a slot. -/
def slotBytes (b : Mailbox) (slot : Nat) : List Byte := (List.range 256).map (fun k => bget b.slots (256 * slot + k))

/-- STATUS of a record that stands in a slot reads `w`, and nothing else of the mailboxes has changed. -/
def StatusWritten (s t : State) (m slot : Nat) (w : Nat) : Prop :=
  (∀ a, bget (t.mailbox m).slots a = if 256 * slot + 0xF8 ≤ a ∧ a < 256 * slot + 0xFC
    then BitVec.ofNat 8 (w / 256 ^ (a - (256 * slot + 0xF8))) else bget (s.mailbox m).slots a) ∧
  { t.mailbox m with slots := (s.mailbox m).slots } = s.mailbox m ∧ ∀ k, k ≠ m → t.mailbox k = s.mailbox k

/-- R364: every used WAIT of a record is met. -/
def WaitsMet (s : State) (r : Record) : Prop :=
  ∀ e ∈ r.waits, e.w0.getLsbD 31 = true → e.value.toNat ≤ (s.counter (e.w0.toNat % 4096)).value.toNat

/-- A task is the same but for becoming ready now that its waits are met (R364). -/
def TaskMoved (s t : State) (x y : Task) : Prop :=
  (¬(x.stage = .waiting ∧ WaitsMet t x.record) → y = x) ∧
  (x.stage = .waiting → WaitsMet t x.record → ∃ n, s.seq ≤ n ∧ y = { x with stage := .ready, readyAt := n })

/-- Every task but those in `gone` is there, moved as its waits allow. -/
def TasksMoved (s t : State) (gone : Nat → Prop) : Prop :=
  ∀ k x, s.task? k = some x → ¬gone k → ∃ y, t.task? k = some y ∧ TaskMoved s t x y

/-- An event is the newest of a master's log (R432): HEAD counts it, OVERRUN counts one that it replaces, and no other event
and no other log changes. -/
def Posted (s t : State) (m : Nat) (e : Event) : Prop :=
  let old := mgetD s.dev.logs m EventLog.empty
  let new := mgetD t.dev.logs m EventLog.empty
  new.head = old.head + 1 ∧ new.overrun = (if old.head.toNat < 120 then old.overrun else old.overrun + 1) ∧
  mget new.slots (old.head.toNat % 120) = some e ∧
  (∀ j, j ≠ old.head.toNat % 120 → mget new.slots j = mget old.slots j) ∧ ∀ k, k ≠ m → mget t.dev.logs k = mget s.dev.logs k

/-- Nothing but event logs differs. -/
def LogsOnly (s t : State) : Prop := { t with dev := { t.dev with logs := s.dev.logs } } = s

/-- An access of a master to a unit of a target class is allowed (R428). -/
def Granted (d : Device) (m cls unit : Nat) (rd wr : Bool) : Prop :=
  (m = d.owner ∧ cls ≠ 4) ∨ ∃ r, r < 16 ∧
    let b := (mgetD d.access (80 * m + 16 * cls + r) 0).toNat
    b / 4 % 2 = 1 ∧ (rd = true → b % 2 = 1) ∧ (wr = true → b / 2 % 2 = 1) ∧
      b / 2 ^ 48 % 2 ^ 40 ≤ unit ∧ unit ≤ b / 2 ^ 88

/-- A host master's write to a mailbox or a counter: master, target class, unit, address (R424). -/
def hostStore : Instr → Option (Nat × Nat × Nat × Nat)
  | .mailboxSlotWrite m b off _ => if b < 512 ∧ off < 0x2000 then some (m, 1, b, 9 * 2 ^ 48 + 16384 * b + off) else none
  | .mailboxKill m b _ => if b < 512 then some (m, 1, b, 9 * 2 ^ 48 + 16384 * b + 0x2028) else none
  | .counterSet m c _ => if c < 4096 then some (m, 2, c, 10 * 2 ^ 48 + 32 * c) else none
  | .counterAdd m c _ => if c < 4096 then some (m, 2, c, 10 * 2 ^ 48 + 32 * c + 8) else none
  | .counterReset m c _ => if c < 4096 then some (m, 2, c, 10 * 2 ^ 48 + 32 * c + 16) else none
  | _ => none

/-- What a host read asks of the access tables: target class, unit, and the address that event 5 gives (R424, R428). -/
def hostReads (off : Nat) : HostWindow → Option (Nat × Nat × Nat)
  | .mailbox b => some (1, b, 9 * 2 ^ 48 + 16384 * b + off)
  | .counter c => some (2, c, 10 * 2 ^ 48 + 32 * c + off)
  | .config f false => some (3, f, off)
  | _ => none

/-- The windows of a function reach its own mailboxes alone, and every counter (R423; log entry 9 on master 0). -/
def InWindow (m cls unit : Nat) : Prop := m ≤ 64 ∧ (cls = 1 → m = unit / 8 + 1)

/-- Such a write reaches its target: the link is up, a window reaches it, and the access tables allow it (R423, R429). -/
def HostAllowed (i : Instr) (s : State) (m : Nat) : Prop :=
  ∃ cls unit a, hostStore i = some (m, cls, unit, a) ∧ InWindow m cls unit ∧ s.dev.linkUp = true ∧
    Granted s.dev m cls unit false true

/-- A counter's error (R366): ERR one more, its last error, and an event in a master's log. -/
def CounterFails (s t : State) (c code m : Nat) : Prop :=
  (t.counter c).errs = min 65535 ((s.counter c).errs + 1) ∧ (t.counter c).last = code ∧
    Posted s t m ⟨s.clock, code, m, BitVec.ofNat 32 c, 0⟩

/-- No other counter differs, and nothing but counters, tasks, the event logs and the count of arrivals does. -/
def CounterOnly (s t : State) (c : Nat) : Prop :=
  (∀ k, k ≠ c → t.counter k = s.counter k) ∧
  { t with counters := s.counters, tasks := s.tasks, seq := s.seq, dev := { t.dev with logs := s.dev.logs } } = s

/-- The members of a team in role order (R372): number and role, with a width that R361 allows. -/
def memberAt (r : Record) (k : Nat) (e : RoleEnt) : Prop := r.members[k]? = some (e, k) ∧ e.widthC < 3

/-- A group that a dealer has started (R43, R372). -/
def StartedGroup (t : Task) (tid team : Nat) (cores : List Nat) (index : Nat) (key : DWord) (k : Nat) (e : RoleEnt)
    (g : Group) : Prop :=
  g.kind = .started ∧ g.width = 32 * (e.widthC + 1) ∧ g.budget = e.regs ∧
    g.core = cores.getD (if t.record.paired then k % 2 else 0) 0 ∧ g.team = team ∧ g.task = tid ∧
    g.asid = t.record.asid ∧ g.vf = t.mailbox / 8 ∧ g.text = t.record.text ∧ g.prio = t.record.prio ∧
    g.level = t.record.level ∧ g.split.pc = t.record.text + e.entry.zeroExtend 64 ∧
    g.split.mask = widthMask (32 * (e.widthC + 1)) ∧ (∀ j, j < 8 → g.uni j = t.record.args.getD j 0) ∧
    g.uni 8 = BitVec.ofNat 32 index ∧ g.uni 9 = BitVec.ofNat 32 k ∧ pair (g.uni 10) (g.uni 11) = key ∧
    (∀ j, 12 ≤ j → j < 60 → g.uni j = 0) ∧ g.v = [] ∧ g.p = [] ∧ g.a = [] ∧ g.x = [] ∧ g.flags = [] ∧ g.clause = none ∧
    g.pends = [] ∧ g.held = none ∧ g.frame = none ∧ g.xfer = 0

/-- The number that an error on a part has among the lifetime counters (R434; log entry 16). -/
def errorNo (s : State) (part : PartKind) (corrected : Bool) (addr : DWord) : Nat :=
  Machine.PartKind.code part + if corrected = false ∨ (part = .hbmRow ∧ addr.toNat / 128 ∈ s.bad) then 6 else 0

/-- A lifetime counter has counted one more, saturating (R434). -/
def Counted (d e : Device) (k : Nat) : Prop := mgetD e.lifetime k 0 = min (2 ^ 64 - 1) (mgetD d.lifetime k 0 + 1)

/-- Temperatures counted in the histogram, of 16 bins of 8 degrees from lifetime counter 16 on, saturating (R434; log entry 16). -/
def Sampled (d e : Device) (temps : List Nat) : Prop :=
  ∀ k, mgetD e.lifetime k 0 = if 16 ≤ k ∧ k < 32 ∧ (∃ x ∈ temps, min 15 (x / 8) = k - 16)
    then min (2 ^ 64 - 1) (mgetD d.lifetime k 0 + (temps.filter (fun x => min 15 (x / 8) == k - 16)).length)
    else mgetD d.lifetime k 0

/-- A byte of an area in memory. -/
def areaByte (a : Area) (m : List Host.Cell) (o : Nat) : Byte := (areaGet a m o 1).getD 0 0

/-- Byte j of a word. -/
def byteOf (w : Word) (j : Nat) : Byte := BitVec.ofNat 8 (w.toNat / 256 ^ j)

/-- The bytes of a group's save area (R376). -/
def saveSize (g : Group) : Nat := 1024 + g.width * (4 * g.budget + 32)

/-- Some pieces of memory lie apart. -/
def Apart (ps : Area) : Prop := ps.Pairwise (fun p q => p.1 + p.2 ≤ q.1 ∨ q.1 + q.2 ≤ p.1)

/-- The areas of a team and of its groups lie apart and have the sizes of R375. -/
def AreasOf (s : State) (team : Nat) (tm : Team) : Prop :=
  let gs := s.groups.filter (fun e => e.2.team == team && (e.2.kind == .started || e.2.kind == .spawned))
  Apart (gs.flatMap (fun e => e.2.area) ++ tm.area) ∧ (∀ e ∈ gs, saveSize e.2 ≤ areaSize e.2.area) ∧
    teamArea (tm.scratch.length + tm.fifo.length) tm.accUnits tm.cores.length ≤ areaSize tm.area

/-- The bank of a cluster. -/
def bankOf (s : State) (c b : Nat) : Bank := mgetD (s.cluster c).banks b Bank.empty

/-- `m` is the lowest OPP that the resident tasks of a quarter and those in `more` ask for, 7 with none (R370). -/
def LowestOpp (s : State) (q : Nat) (more : List Nat) (m : Nat) : Prop :=
  m ≤ 7 ∧ (∀ x ∈ residentOpps s q ++ more, m ≤ x) ∧ (m = 7 ∨ m ∈ residentOpps s q ++ more)

/-- The groups of a team. -/
def MemberOf (s : State) (gid team : Nat) (g : Group) : Prop :=
  mget s.groups gid = some g ∧ g.team = team ∧ (g.kind = .started ∨ g.kind = .spawned)

/-- Keys of a map, each once. -/
def KeysOnce {α : Type} (m : Map α) : Prop := (m.map Prod.fst).Nodup

/-- A team that a placement of a task may save (R377): not saved already, not a holder of a pair operation's matrix pair, in
the task's partitions. -/
def Takeable (s : State) (t : Task) (k : Nat) (tm : Team) : Prop :=
  (k, tm) ∈ s.teams ∧ tm.saved = false ∧ tm.saving = false ∧ holdsPair s k = false ∧
    ∃ c ∈ tm.cores, (s.mailbox t.mailbox).parts.getLsbD (c / 16) = true

/-- A started or spawned group may retire (R141): no lane is left, no transfer is outstanding, nothing it issued has still an
effect to come. -/
def MayRetire (s : State) (gid : Nat) (g : Group) : Prop :=
  mget s.groups gid = some g ∧ (g.kind = .started ∨ g.kind = .spawned) ∧ g.live = 0 ∧ g.clause = none ∧ g.xfer = 0 ∧
    (∀ p ∈ g.pends, p.effect = false) ∧ ∀ c ∈ s.cmds, c.gid = gid → c.queued = false

/-! ### Management space and the package (23) -/

/-- The units of management space that a whole write sets (R426): offset, bytes, and the device or mailbox after it. -/
inductive Unit_ where
  | rule (k : Nat) | walker (c : Nat) | mailbox (m : Nat) | space (a : Nat) | route (p : Nat)

def unitOffset : Unit_ → Nat × Nat
  | .rule k => (0x10000 + 16 * k, 16)
  | .walker c => (0x41000 + 8 * c, 8)
  | .mailbox m => (0x48000 + 64 * m, 64)
  | .space a => (0x100000 + 16 * a, 16)
  | .route p => (0x200000 + 2 * p, 2)

def unitInRange : Unit_ → Prop
  | .rule k => k < 5280
  | .walker c => c < 96
  | .mailbox m => m < 512
  | .space a => a < 65536
  | .route p => p < 2 ^ 20

/-- The machine after the unit has been written with `bs`. -/
def unitSet (s : State) (bs : List Byte) : Unit_ → State
  | .rule k =>
    let r : BitVec 128 := BitVec.ofNat 128 (leNat bs / 2 ^ 48 * 2 ^ 48 + leNat bs % 8)
    { s with dev := { s.dev with access := mput s.dev.access k r } }
  | .walker c => { s with dev := { s.dev with walkers := mput s.dev.walkers c (BitVec.ofNat 64 (leNat bs)) } }
  | .mailbox m => s.setMailbox m { s.mailbox m with
      cbase := fieldAt bs 4 4 % 4096, ccount := fieldAt bs 8 4, owner := decide (fieldAt bs 12 4 = 1),
      parts := BitVec.ofNat 64 (fieldAt bs 16 8), ctxbase := BitVec.ofNat 64 (fieldAt bs 24 8),
      ctxsize := BitVec.ofNat 64 (fieldAt bs 32 8) }
  | .space a =>
    let e : DWord × Nat := (BitVec.ofNat 64 (fieldAt bs 0 8), fieldAt bs 8 2)
    { s with dev := { s.dev with spaces := mput s.dev.spaces a e } }
  | .route p => { s with dev := { s.dev with routes := mput s.dev.routes p (BitVec.ofNat 16 (leNat bs)) } }

/-- A host master's write of management space: master, offset. -/
def mgmtStore : Instr → Option (Nat × Nat)
  | .claim m _ => some (m, 0)
  | .give m _ => some (m, 8)
  | .take m _ => some (m, 0xC)
  | .minptWrite m _ => some (m, 0x14)
  | .mgmtRegisterWrite m off _ => some (m, off)
  | .attestRequest m _ => some (m, 0x1000 + 32 * m)
  | _ => none

/-- The registers that a master other than the owner may write: CLAIM, TAKE, its own request slot (R426, R431). -/
def OpenTo (m off : Nat) : Prop := off / 4 = 0 ∨ off / 4 = 3 ∨ (0x1000 + 32 * m ≤ off ∧ off < 0x1020 + 32 * m)

/-- The point that a quarter moves to once MINPT is `w` (R370, R437). -/
def PointAim (s : State) (w : Word) (q p : Nat) : Prop :=
  ∃ m, LowestOpp s q [] m ∧ p = max m (w.toNat / 16 ^ q % 8)

/-- MINPT is `w`, and each quarter without a change under way moves to the point it then has, as does one on its way to a higher-numbered
point (R370, R437). -/
def MinptIs (s t : State) (w : Word) : Prop :=
  t.dev.minpt = w ∧ { t with dev := { t.dev with minpt := s.dev.minpt, oppNext := s.dev.oppNext } } = s ∧
  ∀ q p, q < 4 → PointAim s w q p →
    (∀ x, mget s.dev.oppNext q = some x → x ≤ p → mget t.dev.oppNext q = some x) ∧
    ((∀ x, mget s.dev.oppNext q = some x → p < x) →
      mget t.dev.oppNext q = if p = mgetD s.dev.opp q 7 then none else some p)

/-- What bring-up leaves (R426, R430, R435): the reset values, and what survives every reset; that mailboxes, walker entries, address
spaces, routes and logs are empty is log entry 4, that clusters and banks are as the model's empty ones log entry 5 (also log entries 1, 16
and 20). -/
def BroughtUp (s t : State) (fw : Firmware) : Prop :=
  let ok := fw.sigOk = true ∧ s.dev.fusedSvn.toNat ≤ fw.svn.toNat
  t.groups = [] ∧ t.tasks = [] ∧ t.teams = [] ∧ t.handles = [] ∧ t.counters = [] ∧ t.mailboxes = [] ∧ t.cores = [] ∧
    t.clusters = [] ∧ t.mem = [] ∧ t.cmds = [] ∧ t.clock = 0 ∧ t.dev.owner = 0xFF ∧ t.dev.ftmo = 4 ∧ t.dev.htmo = 4 ∧
    t.cuts = [] ∧ t.invs = [] ∧ t.results = [] ∧ t.ports = [] ∧ t.streams = [] ∧ t.recvs = [] ∧ t.bad = [] ∧
    t.collIn = [] ∧ t.guests = [] ∧ t.slices = [] ∧ t.dev.down = [] ∧
    t.dev.minpt = 0 ∧ t.dev.access = [] ∧ t.dev.walkers = [] ∧ t.dev.spaces = [] ∧ t.dev.routes = [] ∧ t.dev.logs = [] ∧
    (t.dev.recovery = false ↔ ok) ∧ (ok → t.dev.fwSvn = fw.svn ∧ t.dev.fwHash = fw.hash) ∧
    t.dev.fusedSvn = s.dev.fusedSvn ∧ t.dev.pkg = s.dev.pkg ∧ t.dev.spares = s.dev.spares

/-- The spares of R433 for a kind of part. -/
def sparesOf : PartKind → Nat
  | .hbmRow => 64
  | .poolBank => 2
  | .registerBank => 2
  | .sramLine => 2
  | .hostLane => 1
  | .fabricLane => 1

/-- The unit that spares belong to: an HBM channel, a bank, a port of 16, the one host link (R433). -/
def spareUnit : PartKind → Nat → Nat
  | .hostLane, _ => 0
  | .fabricLane, k => k % 16
  | _, k => k

/-- The parts in use of a kind and place. -/
def sparesUsed (d : Device) (part : PartKind) (index : Nat) : Nat :=
  mgetD d.spares (2 ^ 32 * Machine.PartKind.code part + spareUnit part index) 0

/-! ### The fabric (22) -/

/-- The numbers of a port's flits (R407). -/
def flitNo (f : List Byte) : Nat := leNat (f.take 2) % 4096

/-- The flits of a port are numbered one after the other up to its next SEQ, at most 512 of them are out, and each has its
CHECK; flits wait only behind 512 of them (R407, R408). -/
def Numbered (x : Port) : Prop :=
  x.nextSeq < 4096 ∧ x.lastSeq < 4096 ∧ x.kept.length ≤ 512 ∧ x.refs.length = x.kept.length ∧
    (x.queue ≠ [] → x.kept.length = 512) ∧ (∀ w ∈ x.queue, w.chan < 8) ∧
    ∀ k f, x.kept[k]? = some f → flitGood f = true ∧ flitNo f = (x.nextSeq + 4096 - x.kept.length + k) % 4096

/-- A flit of 256 bytes with fields as R407 lays them out. -/
def IsFlit (f : List Byte) (seq ack chan kind : Nat) (nak : Bool) (payload : List Byte) : Prop :=
  f.length = 256 ∧ leNat (f.take 2) = seq ∧ leNat ((f.drop 2).take 2) = 2 ^ 15 + ack ∧
    (f.getD 4 0).toNat = chan + (if nak then 128 else 0) ∧ (f.getD 5 0).toNat = kind ∧
    leNat ((f.drop 6).take 2) = payload.length ∧ (∀ k, k < payload.length → f.getD (8 + k) 0 = payload.getD k 0) ∧
    flitGood f = true

/-- Flits of a port that are out or wait. -/
def load (x : Port) : Nat := x.kept.length + x.queue.length

/-- Nothing differs but what answers are sent with. -/
def SendsOnly (s t : State) : Prop := { t with ports := s.ports, streams := s.streams, free := s.free, recvs := s.recvs } = s

/-- A response to a message is on its way (R411, R412). -/
def Answered (t : State) (m : Message) (stat : MsgStat) : Prop :=
  ∃ k st e, mget t.streams k = some st ∧ e ∈ st.kept ∧ e.1.cls = 4 ∧ e.1.dstPkg = m.srcPkg ∧ e.1.dstQtr = m.srcQtr ∧
    e.1.tag = m.tag ∧ e.1.stat = stat

/-- A receiving stream of a message (R411): next MSGNO wanted. -/
def wanted (s : State) (m : Message) : Word := (recvOf s m).nextNo

/-- A request of a stream is kept until its final response (R411). -/
def Kept (s : State) (k : Nat) (st : Stream) (m : Message) (w : Option (Nat × Nat × Nat)) (till : DWord) : Prop :=
  mget s.streams k = some st ∧ st.cls ≠ 3 ∧ st.cls ≠ 4 ∧ (m, w, till) ∈ st.kept ∧
    (∀ e ∈ s.streams, ∀ q ∈ e.2.kept, q.1.tag = m.tag → e.1 = k ∧ q = (m, w, till))

/-! ### The machine as a whole -/

/-- A word of text at an address, as the group fetches it: executable, in this package, and the same in memory as when the
task's first group started (R79, R320). -/
def TextWord (s : State) (g : Group) (va : DWord) (w : Word) : Prop :=
  ∃ pa home, translate s g.who .fetch va = .hit pa none home ∧ pa < 768 * 2 ^ 30 ∧ pa / 128 ∉ s.bad ∧
    leWord (bgetN s.mem pa 4) = w ∧ textWord s g pa = w

/-- The words `ws` stand at the place of a group's clause, as far as they are not fetched yet: `more` is what the step
fetches. -/
def WordsAhead (s : State) (gid : Nat) (c : Clause) (more ws : List Word) : Prop :=
  (s.group gid).clause = some c ∧ (s.group gid).off = false ∧ c.len ≤ 24 ∧ c.pos < c.len ∧ (c.words ++ more).drop c.pos = ws ∧ ws ≠ [] ∧
    ws.length = 1 + litsOfWord (ws.headD 0) ∧ c.pos + ws.length ≤ c.len ∧
    ∀ k w, more[k]? = some w →
      TextWord { s with cur := gid } (s.group gid) (c.start + 4 * BitVec.ofNat 64 (c.words.length + k + 1)) w

/-- The machine when that word runs: it is the group's turn, and the words have been fetched. -/
def fetchedState (s : State) (gid : Nat) (c : Clause) (more : List Word) : State :=
  let s0 := { s with cur := gid }
  if more = [] then s0 else s0.setG { s.group gid with clause := some { c with words := c.words ++ more } }

/-- The class and function fields of a word (R71). -/
def clsOf (w : Word) : Nat := w.toNat / 2 ^ 29
def fnOf (w : Word) : Nat := w.toNat / 2 ^ 26 % 8
def subOf (w : Word) : Nat := w.toNat % 32

/-- What taking an exception leaves (R302): frame, system registers, s52 to s55, and the handler's split. -/
def Entered (g h : Group) (thand cause info : Word) (tepc taddr : DWord) (tret : Nat) : Prop :=
  (∃ f, h.frame = some f ∧ f.splits = g.splits ∧ f.parked = g.parked ∧ f.cur = g.cur ∧ f.stack = g.stack ∧ f.preds = g.p ∧
    f.temps = g.t ∧ f.level = g.level ∧ f.clause = g.clause ∧ f.after = g.after ∧ ∀ k, k < 8 → f.unis.getD k 0 = g.uni (52 + k)) ∧
  h.tcause = cause ∧ h.tinfo = info ∧ h.tepc = tepc ∧ h.taddr = taddr ∧ h.tret.toNat = tret ∧
  h.level = max 1 g.level ∧ h.uni 52 = cause ∧ h.uni 53 = info ∧ pair (h.uni 54) (h.uni 55) = tepc ∧
  (∀ n, n < 60 → n < 52 ∨ 55 < n → h.uni n = g.uni n) ∧ h.cur = 0 ∧ h.clause = none ∧ h.parked = [] ∧
  (∃ sp, h.splits = [(0, sp)] ∧ sp.pc = g.text + thand.zeroExtend 64 ∧ sp.mask = g.live ∧ sp.depth = 0 ∧ sp.mode = 0 ∧
    ∀ k, k < 4 → sp.fmts.getD k 0 = 0) ∧
  h = { g with
    s := h.s, frame := h.frame, tcause := h.tcause, tinfo := h.tinfo, tepc := h.tepc, taddr := h.taddr, tret := h.tret,
    level := h.level, clause := none, ovr := none, splits := h.splits, parked := [], cur := 0, ran := 0, rotated := [], pageWaits := [],
    nextId := h.nextId, log := h.log, logSeq := h.logSeq, tpend := h.tpend, again := none, after := [], off := false,
    hidden := h.hidden }

/-- A double fault (R303): the dealer is to kill the group. -/
def DoubleFaulted (g h : Group) : Prop :=
  h.faulted = true ∧ h.clause = none ∧ ((∀ b, g.held ≠ some (.kill b)) → h.held = some (.kill true)) ∧ h.frame = g.frame ∧
    h.splits = g.splits ∧ h.s = g.s ∧ h.v = g.v ∧ h.p = g.p

/-- Every byte memory of the machine is in its canonical form: HBM, pools, accumulator memories and mailbox slots. -/
def Canonical (s : State) : Prop :=
  Memory.wf s.mem = true ∧ (∀ e ∈ s.clusters, Memory.wf e.2.pool = true) ∧ (∀ e ∈ s.cores, Memory.wf e.2.acc = true) ∧
    ∀ e ∈ s.mailboxes, Memory.wf e.2.slots = true

/-- The tables of the machine list each number once, in rising order. -/
def Rising (s : State) : Prop :=
  (mkeys s.groups).Pairwise (· < ·) ∧ (mkeys s.tasks).Pairwise (· < ·) ∧ (mkeys s.teams).Pairwise (· < ·) ∧
    (mkeys s.streams).Pairwise (· < ·) ∧ (mkeys s.handles).Pairwise (· < ·) ∧ (mkeys s.cuts).Pairwise (· < ·)

/-- An address lies in no piece of an area. -/
def Outside (a : Area) (x : Nat) : Prop := ∀ p ∈ a, ¬(p.1 ≤ x ∧ x < p.1 + p.2)

/-- What the package keeps up to date after a turn (R374, R38, R39, R400, R418): since when a group can start a clause, where spilled
records stand, and the bytes of areas and handle tables; every other byte and every other part of the machine is as the turn left
it. -/
def Settles (t u : State) : Prop :=
  { u with mem := t.mem, groups := t.groups, tasks := t.tasks, turns := t.turns } = t ∧
  (∀ k g, mget t.groups k = some g → ∃ n, mget u.groups k = some { g with ready := n }) ∧
  (∀ k x, t.task? k = some x → ∃ a, u.task? k = some { x with spillArea := a }) ∧
  ∀ x, (∀ e ∈ t.groups, Outside e.2.area x) → (∀ e ∈ u.tasks, Outside e.2.spillArea x) →
    (∀ q n, ¬(handleAddr q n ≤ x ∧ x < handleAddr q n + 64)) → bget u.mem x = bget t.mem x

/-- A field of a word breaks R80 as detail 4, 5 or 6 of R94 says: its value is outside its register file, a varying register at or above the
budget among them; it breaks the pairing, the alignment or the run limit of its kind; s63 is named as a destination, alone or in a
pair. -/
def FieldBreaks (budget : Nat) (o : Opd) (d : Nat) : Prop :=
  let n := o.val.toNat
  let above := budget ≤ n ∧ n < 124
  let past := fun (k : Nat) => if n < 124 then budget < n + k else 128 < n + k
  match o.kind, d with
  | .s, 4 | .s2, 4 | .s8, 4 | .sn _, 4 => 64 ≤ n
  | .a, 4 | .c, 4 => 16 ≤ n ∧ (o.kind = .c → n ≠ 127)
  | .p, 4 => 8 ≤ n
  | .x, 4 | .fm, 4 => 4 ≤ n
  | .v, 4 | .v2, 4 | .v3, 4 | .v4, 4 => above
  | .s2, 5 => n % 2 ≠ 0
  | .s8, 5 => n % 8 ≠ 0 ∨ 48 < n
  | .sn k, 5 => 60 < n + k
  | .v2, 5 => n % 2 ≠ 0 ∨ past 2
  | .v3, 5 => past 3
  | .v4, 5 => n % 4 ≠ 0 ∨ past 4
  | .s, 6 => o.role ≠ .src ∧ n = 63
  | .s2, 6 => o.role ≠ .src ∧ n = 62
  | _, _ => False

/-- A word reads a temporary that its clause has not written (R24). -/
def ReadsUnwritten (c : Clause) (sh : Shape) : Prop :=
  ∃ n, Reg.v n ∈ sh.srcs ∧ 124 ≤ n ∧ c.tw.getLsbD (n - 124) = false

/-- The detail of R94 that a word of an assigned cell earns when it would issue, the lowest of those it earns. -/
def EarnsDetail (g : Group) (c : Clause) (sh : Shape) (d : Nat) : Prop :=
  let fields := ∀ o ∈ sh.opds, ∀ e, e < d → ¬FieldBreaks g.budget o e
  let next := c.pos + 1 + sh.lits.length
  fields ∧ ((∃ o ∈ sh.opds, FieldBreaks g.budget o d) ∨ (d = 7 ∧ ReadsUnwritten c sh) ∨
    (d = 8 ∧ ¬ReadsUnwritten c sh ∧ (c.len < next ∨ (sh.terminal = true ∧ next ≠ c.len))))
end Sys2Proof.Claims

open Sys2Proof Sys2Proof.Machine Sys2Proof.Claims

/-- R150 to R153: the one-word uniform instructions complete with the value of their rule, and change nothing else. -/
def Sys2Proof.Claims.UniformWordResult : Prop :=
  ∀ (i : Instr) (d : F7) (f : Group → Word), uniWord i = some (d, f) → ∀ s : State, Issues i s →
    UniWritable s.G [(d.toNat, f s.G)] → ∃ t, exec i s = .next t ∧ Written i s t { unis := [(d.toNat, f s.G)] }

/-- R153, R154, R159: the two-word uniform instructions likewise. -/
def Sys2Proof.Claims.UniformPairResult : Prop :=
  ∀ (i : Instr) (d : F7) (f : Group → DWord), uniPair i = some (d, f) → ∀ s : State, Issues i s →
    UniWritable s.G (pairOut d (f s.G)).unis → ∃ t, exec i s = .next t ∧ Written i s t (pairOut d (f s.G))

/-- R150 to R154, R159: every uniform instruction with a uniform destination completes with the value of its rule. -/
def Obligations.UniformResult : Prop := UniformWordResult ∧ UniformPairResult

/-- R155, R157, R159: the instructions with an affine destination complete with the BASE and STRIDE of their rule; a
checked form does when every lane's exact result is in range. -/
def Sys2Proof.Claims.AffineValueResult : Prop :=
  ∀ (i : Instr) (d : F7) (f : Group → Aff), affVal i = some (d, f) → ∀ s : State, Issues i s →
    s.G.split.mask = s.G.live → InRange i s.G →
    ∃ t, exec i s = .next t ∧ Written i s t { affs := [(d.toNat, f s.G)] }

/-- R157: a checked form with a lane out of range takes the affine-overflow fault, cause 11, with exactly the failing
lanes. -/
def Sys2Proof.Claims.AffineOverflow : Prop :=
  ∀ (i : Instr) (s : State) (m : Mask), Issues i s → s.G.split.mask = s.G.live → OutOfRange i s.G m →
    ∃ sh, i.shape = some sh ∧ exec i s = .next (takePrecise s sh { Trap.of 11 with lanes := m })

/-- R155, R157, R159: the instructions with an affine destination, and the range that a checked form keeps. -/
def Obligations.AffineResult : Prop := AffineValueResult ∧ AffineOverflow

/-- R19, R146: a non-exempt uniform or affine write under a split takes the uniform-under-split fault, cause 4, with the
executing split's mask. -/
def Sys2Proof.Claims.UniformUnderSplit : Prop :=
  ∀ (i : Instr) (s : State), ((uniWord i).isSome ∨ (uniPair i).isSome ∨ (affVal i).isSome) → Issues i s →
    s.G.split.mask ≠ s.G.live →
    ∃ sh, i.shape = some sh ∧ exec i s = .next (takePrecise s sh { Trap.of 4 with lanes := s.G.split.mask })

/-- R18, R146: a write of an instruction of chapter 06 that would leave the split's mask empty takes the empty-mask fault, cause 5: the
one-word forms, the pairs, READFIRST, VTOU.EQ before it compares, and ELECT. -/
def Sys2Proof.Claims.EmptyMask : Prop :=
  (∀ (i : Instr) (d : F7) (f : Group → Word), uniWord i = some (d, f) → ∀ s : State, Issues i s →
    s.G.split.mask = s.G.live → s.G.emptiesMask [(d.toNat, f s.G)] = true → EmptyFault i s) ∧
  (∀ (i : Instr) (d : F7) (f : Group → DWord), uniPair i = some (d, f) → ∀ s : State, Issues i s →
    s.G.split.mask = s.G.live → s.G.emptiesMask (pairOut d (f s.G)).unis = true → EmptyFault i s) ∧
  (∀ (d a : F7) (s : State) (k : Nat), Lowest s.G k → s.G.emptiesMask [(d.toNat, (s.G.row a.toNat).at k)] = true →
    (Issues (.readfirst d a) s → EmptyFault (.readfirst d a) s) ∧
    (Issues (.vtouEq d a) s → s.G.split.mask = s.G.live → EmptyFault (.vtouEq d a) s)) ∧
  (∀ (d a : F7) (s : State) (w : Word), Issues (.elect d a) s → Elected s.G a w → s.G.emptiesMask [(d.toNat, w)] = true →
    EmptyFault (.elect d a) s)

/-- R18: so does a REDUCE, REDUCE.MINI, vote or SPREAD whose uniform results would leave the split's mask empty. -/
def Sys2Proof.Claims.EmptyMaskAcross : Prop :=
  (∀ (i : Instr) (a : F7) (f : Group → (Word → Word → Word) → Word → Out), redOut i = some (a, f) → ∀ (s : State) op z, Issues i s →
    redStep s.G (nv s.G a) = some (op, z) → s.G.emptiesMask (f s.G op z).unis = true → EmptyFault i s) ∧
  (∀ (d a b : F7) (s : State) (v k : Word), Issues (.reduceMini d a b) s → LeastOf s.G a b v k →
    s.G.emptiesMask [(d.toNat, v), (d.toNat + 1, k)] = true → EmptyFault (.reduceMini d a b) s) ∧
  (∀ (i : Instr) (f : Group → Out), voteOut i = some f → ∀ s : State, Issues i s → s.G.emptiesMask (f s.G).unis = true → EmptyFault i s)

/-- R18, R19, R146: when a uniform or affine instruction, or another one with a uniform result, takes the faults 4 and 5, and with which
lanes. -/
def Obligations.UniformFaults : Prop := UniformUnderSplit ∧ EmptyMask ∧ EmptyMaskAcross

/-- R160: READFIRST writes the value of the lowest active lane, and nothing with no lane active. -/
def Sys2Proof.Claims.ReadfirstResult : Prop :=
  ∀ (d a : F7) (s : State), Issues (.readfirst d a) s →
    (s.G.active = 0 → ∃ t, exec (.readfirst d a) s = .next t ∧ Written (.readfirst d a) s t {}) ∧
    (∀ k, Lowest s.G k → s.G.emptiesMask [(d.toNat, (s.G.row a.toNat).at k)] = false →
      ∃ t, exec (.readfirst d a) s = .next t ∧
        Written (.readfirst d a) s t { unis := [(d.toNat, (s.G.row a.toNat).at k)] })

/-- R161: VTOU.EQ writes the value that every active lane holds; lanes that differ from the first are the uniform-mismatch
fault, cause 12. -/
def Sys2Proof.Claims.VtouEqResult : Prop :=
  (∀ (d a : F7) (s : State), Issues (.vtouEq d a) s → s.G.split.mask ≠ s.G.live →
    ∃ sh, (Instr.vtouEq d a).shape = some sh ∧
      exec (.vtouEq d a) s = .next (takePrecise s sh { Trap.of 4 with lanes := s.G.split.mask })) ∧
  ∀ (d a : F7) (s : State), Issues (.vtouEq d a) s → s.G.split.mask = s.G.live →
    (s.G.active = 0 → ∃ t, exec (.vtouEq d a) s = .next t ∧ Written (.vtouEq d a) s t {}) ∧
    (∀ k, Lowest s.G k → s.G.emptiesMask [(d.toNat, (s.G.row a.toNat).at k)] = false →
      ((∀ i, s.G.active.getLsbD i = true → lw s.G a i = lw s.G a k) →
        ∃ t, exec (.vtouEq d a) s = .next t ∧
          Written (.vtouEq d a) s t { unis := [(d.toNat, (s.G.row a.toNat).at k)] }) ∧
      (∀ m : Mask, m ≠ 0 → (∀ i, i < 96 → (m.getLsbD i = true ↔ s.G.active.getLsbD i = true ∧ lw s.G a i ≠ lw s.G a k)) →
        ∃ sh, (Instr.vtouEq d a).shape = some sh ∧
          exec (.vtouEq d a) s = .next (takePrecise s sh { Trap.of 12 with lanes := m })))

/-- R162: ELECT writes the lowest active lane whose predicate is set, or 0xFFFF_FFFF. -/
def Sys2Proof.Claims.ElectResult : Prop :=
  ∀ (d a : F7) (s : State) (w : Word), Issues (.elect d a) s → s.G.emptiesMask [(d.toNat, w)] = false → Elected s.G a w →
    ∃ t, exec (.elect d a) s = .next t ∧ Written (.elect d a) s t { unis := [(d.toNat, w)] }

/-- R160 to R162: READFIRST, VTOU.EQ and ELECT carry a lane's value to a uniform register. -/
def Obligations.PromotionResult : Prop := ReadfirstResult ∧ VtouEqResult ∧ ElectResult

/-- R159, R168 to R172, R188: the varying integer instructions write their rule's value in every active lane, and nothing
else. -/
def Obligations.VaryingWordResult : Prop :=
  ∀ (i : Instr) (d : F7) (f : Group → Nat → Word), varWord i = some (d, f) → ∀ s : State, Issues i s →
    ∃ t, exec i s = .next t ∧ Written i s t { rows := [(d.toNat, f s.G)] }

/-- R173, R174: compares and predicate logic write the predicate in every active lane, and nothing else. -/
def Sys2Proof.Claims.PredicateWordResult : Prop :=
  ∀ (i : Instr) (d : F7) (f : Group → Nat → Bool), predBit i = some (d, f) → ∀ s : State, Issues i s →
    ∃ t, exec i s = .next t ∧ Written i s t { preds := [(d.toNat, f s.G)] }

/-- R177: FCMP compares as FP32; −0 equals +0, and a NaN makes EQ, LT and LE false, NE and UN true. -/
def Sys2Proof.Claims.FcmpResult : Prop :=
  ∀ (i : Instr) (d : F7) (f : Group → Nat → Bool), fcmpBit i = some (d, f) → ∀ s : State, Issues i s →
    ∃ t, exec i s = .next t ∧ Written i s t { preds := [(d.toNat, f s.G)] }

/-- The instructions with predicate destinations complete with the bits of their rules. -/
def Obligations.PredicateResult : Prop := PredicateWordResult ∧ FcmpResult

/-- R26, R187 to R190: XSET and XADD; VXRD and VXWR move each active lane's own copy of the register it names, when every
active lane is within bounds. -/
def Sys2Proof.Claims.IndexedMoveResult : Prop :=
  ∀ (d a b : F7) (s : State),
    (Issues (.xset d a) s → ∃ t, exec (.xset d a) s = .next t ∧
      Written (.xset d a) s t { idx := [(d.toNat, xsetWord s.G a)] }) ∧
    (Issues (.xadd d a b) s → ∃ t, exec (.xadd d a b) s = .next t ∧
      Written (.xadd d a b) s t { idx := [(d.toNat, xaddWord s.G a b)] }) ∧
    (Issues (.vxrd d a) s → IxReady s.G a → (∀ i, s.G.active.getLsbD i = true → ¬ixFails s.G a i) →
      ∃ t, exec (.vxrd d a) s = .next t ∧
        Written (.vxrd d a) s t { rows := [(d.toNat, fun i => (s.G.row (ixTarget s.G a i)).at i)] }) ∧
    (Issues (.vxwr d a) s → IxReady s.G d → (∀ i, s.G.active.getLsbD i = true → ¬ixFails s.G d i) → s.G.budget ≤ 124 →
      ∃ t, exec (.vxwr d a) s = .next t ∧
        Written (.vxwr d a) s t { rows := (List.range 124).map (fun r =>
          (r, fun i => if ixTarget s.G d i = r then (s.G.row a.toNat).at i else (s.G.row r).at i)) })

/-- R189: an active lane out of bounds is the register-bounds fault, cause 8, with exactly the failing lanes; no lane is
written. -/
def Sys2Proof.Claims.IndexBounds : Prop :=
  ∀ (d a : F7) (s : State) (m : Mask), m ≠ 0 →
    (Issues (.vxrd d a) s → (∀ i, i < 96 → (m.getLsbD i = true ↔ s.G.active.getLsbD i = true ∧ ixFails s.G a i)) →
      ∃ sh, (Instr.vxrd d a).shape = some sh ∧
        exec (.vxrd d a) s = .next (takePrecise s sh { Trap.of 8 with lanes := m })) ∧
    (Issues (.vxwr d a) s → (∀ i, i < 96 → (m.getLsbD i = true ↔ s.G.active.getLsbD i = true ∧ ixFails s.G d i)) →
      ∃ sh, (Instr.vxwr d a).shape = some sh ∧
        exec (.vxwr d a) s = .next (takePrecise s sh { Trap.of 8 with lanes := m }))

/-- R187 to R190: index registers and indexed moves, and the register-bounds fault. -/
def Obligations.IndexResult : Prop := IndexedMoveResult ∧ IndexBounds

/-- R103, R166, R176, R179: the floating-point instructions write their rounded result in every active lane, under ETYPE,
RND and SAT of the mode register; a lane that meets a subnormal is written when the replay completes. -/
def Sys2Proof.Claims.PlainFloatResult : Prop :=
  ∀ (i : Instr) (d : F7) (f : Group → Nat → Word × Bool), floatWord i = some (d, f) → ∀ s : State, Issues i s →
    FloatReady s.G → ∃ t, exec i s = .next t ∧ FloatWritten i s t d f

/-- R165, R181, R184: the conversions and special functions give their result under the FB flag, or as the other
floating-point instructions do when the clause names none. -/
def Sys2Proof.Claims.FlaggedFloatResult : Prop :=
  ∀ (i : Instr) (d : F7) (f : Group → Nat → Word × Bool), flaggedWord i = some (d, f) → ∀ s : State, Issues i s →
    FloatReady s.G → ∃ t, exec i s = .next t ∧
      (s.G.fb = none → FloatWritten i s t d f) ∧
      (∀ n, s.G.fb = some n → Promised i s t (some n) { rows := [(d.toNat, fun k => (f s.G k).1)] })

/-- R120, R186: VRAND writes four words of Philox-4×32-10 for its lane's counter; a key and counter of zero give the
words of the rule. -/
def Sys2Proof.Claims.VrandResult : Prop :=
  (∀ (d a b : F7) (s : State), Issues (.vrand d a b) s →
    ∃ t, exec (.vrand d a b) s = .next t ∧
      Written (.vrand d a b) s t { rows := (List.range 4).map (fun k => (d.toNat + k, vrandWord s.G a b k)) }) ∧
  philox (0, 0, 0, 0) (0, 0) = (0x6627E8D5, 0xE169C58D, 0xBC57AC4C, 0x9B00DBD8)

/-- The floating-point instructions, those that FB flags, and VRAND. That the special functions give R184's correctly rounded result rests on
the 512 fraction bits of log entry 44 (PRESUMED). -/
def Obligations.FloatResult : Prop := PlainFloatResult ∧ FlaggedFloatResult ∧ VrandResult

/-- R192, R196: SHFL gives each active lane the value of its source lane and p7, or its own value with p7 clear, under the
FB flag; a sub-group width that does not divide the group width is the shuffle-width fault, cause 13. -/
def Obligations.ShuffleResult : Prop :=
  ∀ (i : Instr) (d a : F7) (w : Nat) (n : Group → Nat → Nat → Int), shflIndex i = some (d, a, w, n) → ∀ s : State,
    Issues i s →
    (s.G.width % w = 0 → ∃ t, exec i s = .next t ∧ Delivered i s t false (shflOut s.G d a w n)) ∧
    (s.G.width % w ≠ 0 →
      ∃ sh, i.shape = some sh ∧ exec i s = .next (takePrecise s sh { Trap.of 13 with lanes := s.G.split.mask }))

/-- R117, R192, R197 to R199: REDUCE forms the tree over the leaves and the scans their folds, under the operation that s[A]
names, replayed where a step meets a subnormal (R103); a code above 11 is the reduce-operation fault, cause 14. -/
def Sys2Proof.Claims.ReduceValueResult : Prop :=
  ∀ (i : Instr) (a : F7) (f : Group → (Word → Word → Word) → Word → Out), redOut i = some (a, f) → ∀ s : State,
    Issues i s →
    (∀ op z, redStep s.G (nv s.G a) = some (op, z) → s.G.emptiesMask (f s.G op z).unis = false → 
      ∃ t, exec i s = .next t ∧ Delivered i s t (redMeets s.G i op z) (f s.G op z)) ∧
    (redStep s.G (nv s.G a) = none →
      ∃ sh, i.shape = some sh ∧ exec i s = .next (takePrecise s sh { Trap.of 14 with lanes := s.G.split.mask }))

/-- R200: REDUCE.MINI gives the least unsigned value among the active lanes and s[A], with the lowest lane that holds it,
or 0xFFFF_FFFF for s[A]. -/
def Sys2Proof.Claims.ReduceMiniResult : Prop :=
  ∀ (d a b : F7) (s : State) (v k : Word), Issues (.reduceMini d a b) s → LeastOf s.G a b v k →
    s.G.emptiesMask [(d.toNat, v), (d.toNat + 1, k)] = false → 
    ∃ t, exec (.reduceMini d a b) s = .next t ∧
      Delivered (.reduceMini d a b) s t false { unis := [(d.toNat, v), (d.toNat + 1, k)] }

/-- R117, R197 to R200: REDUCE in its three forms, and the scans. -/
def Obligations.ReduceResult : Prop := ReduceValueResult ∧ ReduceMiniResult

/-- R201 to R203: the votes, BALLOT and SPREAD give their rule's results under the FB flag. -/
def Obligations.VoteBallotSpreadResult : Prop :=
  ∀ (i : Instr) (f : Group → Out), voteOut i = some f → ∀ s : State, Issues i s →
    s.G.emptiesMask (f s.G).unis = false → 
    ∃ t, exec i s = .next t ∧ Delivered i s t false (f s.G)

/-- R123, R135: NOP changes nothing; GETMODE and GETFMT write a register of the split in every active lane; SETFMT writes
a format register with bits 6:0 clear; SETMODE writes the mode register, or takes the mode fault, cause 6, on a value R32
does not allow. -/
def Obligations.ModeResult : Prop :=
  ∀ (d a : F7) (s : State),
    (Issues .nop s → ∃ t, exec .nop s = .next t ∧ Written .nop s t {}) ∧
    (Issues (.getmode d) s → ∃ t, exec (.getmode d) s = .next t ∧
      Written (.getmode d) s t { rows := [(d.toNat, fun _ => s.G.split.mode)] }) ∧
    (Issues (.getfmt d a) s → ∃ t, exec (.getfmt d a) s = .next t ∧
      Written (.getfmt d a) s t { rows := [(d.toNat, fun _ => s.G.split.fmts.getD a.toNat 0)] }) ∧
    (Issues (.setfmt d a) s → ∃ t, exec (.setfmt d a) s = .next t ∧
      Frame (.setfmt d a) s t (s.G.setSplit
        { s.G.split with fmts := s.G.split.fmts.set d.toNat (BitVec.ofNat 32 (nv s.G a / 128 * 128)) })) ∧
    (Issues (.setmode a) s → ModeLegal (s.G.uni a.toNat) → ∃ t, exec (.setmode a) s = .next t ∧
      Frame (.setmode a) s t (s.G.setSplit
        { s.G.split with mode := s.G.uni a.toNat &&& 0x001F0F37 })) ∧
    (Issues (.setmode a) s → ¬ModeLegal (s.G.uni a.toNat) →
      ∃ sh, (Instr.setmode a).shape = some sh ∧ exec (.setmode a) s = .next (takePrecise s sh (Trap.of 6)))

/-- R122, R125, R126, R128, R129: BRA, BRX and CALL. With no lane that transfers the split goes on; a target outside the
text is the branch-range fault, cause 9; else the split moves whole or diverges, the hinted side first, and CALL writes
the next clause's offset in the lanes that transfer. -/
def Sys2Proof.Claims.JumpResult : Prop :=
  ∀ (i : Instr) (c : F7) (off : Group → Word) (h : Hint) (link : Option F7), jump i = some (c, off, h, link) →
    ∀ (s : State) (m : Mask), Issues i s → TransferLanes s.G c m →
    let target := targetOf s.G (off s.G)
    let rest := s.G.split.mask &&& ~~~m
    (m = 0 → ∃ t, exec i s = .next t ∧ Written i s t {}) ∧
    (m ≠ 0 → inText s s.G target = false → ∃ sh, i.shape = some sh ∧
      exec i s = .next (takePrecise s sh { Trap.of 9 with lanes := m, addr := target })) ∧
    (m ≠ 0 → inText s s.G target = true → ∃ t, exec i s = .next t ∧
      TransferFrame i s t { rows := linkRows s.G link m } ∧
      (rest = 0 → t.G.splits = mput s.G.splits s.G.cur { s.G.split with pc := target } ∧ t.G.parked = s.G.parked ∧
        t.G.ran = s.G.ran) ∧
      (rest ≠ 0 → if takenFirst h m rest then Diverged s.G t.G m target rest (nextPc s.G)
        else Diverged s.G t.G rest (nextPc s.G) m target))

/-- R127: RET sends every active lane to its own target and the others of the split to the next clause; every lane of the
split ends in a split that stands where it goes, the lowest lane's side current. A target outside the text is the
branch-range fault, cause 9. -/
def Sys2Proof.Claims.RetResult : Prop :=
  ∀ (a : F7) (s : State), Issues (.ret a) s →
    (s.G.active = 0 → ∃ t, exec (.ret a) s = .next t ∧ Written (.ret a) s t {}) ∧
    (s.G.active ≠ 0 → (∀ i, s.G.active.getLsbD i = true → inText s s.G (retTarget s.G a i) = true) →
      ∃ t, exec (.ret a) s = .next t ∧ TransferFrame (.ret a) s t {} ∧
        (∀ i, s.G.split.mask.getLsbD i = true → ∃ sp, ((∃ k, mget t.G.splits k = some sp) ∨ sp ∈ t.G.parked) ∧
          sp.mask.getLsbD i = true ∧ sp.pc = retGoal s.G a i ∧ sp.depth = s.G.split.depth ∧ sp.mode = s.G.split.mode ∧
          sp.fmts = s.G.split.fmts) ∧
        (∀ i, s.G.split.mask.getLsbD i = true → (∀ j, j < i → s.G.split.mask.getLsbD j = false) →
          t.G.split.mask.getLsbD i = true)) ∧
    (∀ m : Mask, m ≠ 0 → (∀ i, i < 96 →
        (m.getLsbD i = true ↔ s.G.active.getLsbD i = true ∧ inText s s.G (retTarget s.G a i) = false)) →
      ∃ sh u, (Instr.ret a).shape = some sh ∧
        exec (.ret a) s = .next (takePrecise s sh { Trap.of 9 with lanes := m, addr := u }))

/-- R124 to R129: the transfers of control. -/
def Obligations.TransferResult : Prop := JumpResult ∧ RetResult

/-- R28, R134: PPUSH, PINV and PPOP in the lanes of the split's mask; a push at depth 16 is the stack-overflow trap, cause
2, and PINV or PPOP at depth 0 the stack-underflow trap, cause 3. -/
def Obligations.PredicateStack : Prop :=
  ∀ (a : F7) (s : State), let d := s.G.split.depth
    (Issues (.ppush a) s → d < 16 → ∃ t, exec (.ppush a) s = .next t ∧
      StackSet s.G t.G (d + 1) (fun i => passBit s.G d i && pb s.G a i) ∧
      Frame (.ppush a) s t { s.G.setSplit { s.G.split with depth := d + 1 } with stack := t.G.stack }) ∧
    (Issues .pinv s → 0 < d → ∃ t, exec .pinv s = .next t ∧
      StackSet s.G t.G d (fun i => passBit s.G (d - 1) i && !(mgetD s.G.stack d 0).getLsbD i) ∧
      Frame .pinv s t { s.G with stack := t.G.stack }) ∧
    (Issues .ppop s → 0 < d → ∃ t, exec .ppop s = .next t ∧
      Frame .ppop s t (s.G.setSplit { s.G.split with depth := d - 1 })) ∧
    (Issues (.ppush a) s → 16 ≤ d →
      ∃ sh, (Instr.ppush a).shape = some sh ∧ exec (.ppush a) s = .next (takePrecise s sh (Trap.of 2))) ∧
    (Issues .pinv s → d = 0 → ∃ sh, Instr.pinv.shape = some sh ∧ exec .pinv s = .next (takePrecise s sh (Trap.of 3))) ∧
    (Issues .ppop s → d = 0 → ∃ sh, Instr.ppop.shape = some sh ∧ exec .ppop s = .next (takePrecise s sh (Trap.of 3)))

/-- R137, R138: SPAWN with no active lane does nothing; with a legal descriptor it writes whether there was room and, if
so, starts the group; another descriptor is the spawn fault, cause 10. -/
def Obligations.SpawnResult : Prop :=
  ∀ (d a b : F7) (s : State), Issues (.spawn d a b) s →
    let desc := s.G.uni b.toNat
    let ok := spawnRoom s s.G (spawnWidth desc) (desc.toNat % 128)
    (s.G.active = 0 → ∃ t, exec (.spawn d a b) s = .next t ∧ Written (.spawn d a b) s t {}) ∧
    (s.G.active ≠ 0 → ¬SpawnLegal s desc → ∃ sh, (Instr.spawn d a b).shape = some sh ∧
      exec (.spawn d a b) s = .next (takePrecise s sh (Trap.of 10))) ∧
    (s.G.active ≠ 0 → SpawnLegal s desc → ∃ t, exec (.spawn d a b) s = .next t ∧
      Holds s.G t.G { preds := [(d.toNat, fun _ => ok)] } ∧ ClauseMoved (.spawn d a b) s t ∧ PendsKept s t ∧
      t.G = { s.G with p := t.G.p, clause := t.G.clause, pends := t.G.pends, hidden := t.G.hidden } ∧ HiddenKept s t ∧
      { t with groups := s.groups } = s ∧
      (∀ k, k ≠ s.cur → k ≠ s.newGid → mget t.groups k = mget s.groups k) ∧
      (ok = true → ∃ h, mget t.groups s.newGid = some h ∧ Spawned s.G h a desc) ∧
      (ok = false → mget t.groups s.newGid = none))

/-- R140, R142, R143: EXIT retires the active lanes and frees the entry of an emptied split; YIELD makes the group stand aside
for the groups of its seat that have the same or a higher priority, can start a clause and have started none since; TRAP and BKPT raise their boundary cause when a lane is active, and a double fault in a handler. -/
def Obligations.ExitYieldTrap : Prop :=
  ∀ (a : F7) (s : State),
    (Issues .exit s → ∃ t, exec .exit s = .next t ∧ GroupOnly s t ∧ PendsKept s t ∧
      t.G = { s.G with
        exited := s.G.exited ||| s.G.active, splits := t.G.splits, clause := t.G.clause, pends := t.G.pends } ∧
      (s.G.split.mask &&& ~~~s.G.active ≠ 0 → ClauseMoved .exit s t ∧
        t.G.splits = mput s.G.splits s.G.cur { s.G.split with mask := s.G.split.mask &&& ~~~s.G.active }) ∧
      (s.G.split.mask &&& ~~~s.G.active = 0 → ClauseTaken .exit s t ∧ mget t.G.splits s.G.cur = none ∧
        ∀ k, k ≠ s.G.cur → mget t.G.splits k = mget s.G.splits k)) ∧
    (Issues .yield s → ∃ t, exec .yield s = .next t ∧ Frame .yield s t { s.G with yielded := true, served := [] }) ∧
    (∀ k h, s.G.yielded = true → (k, h) ∈ s.groups → k ≠ s.cur → h.core = s.G.core → h.seat = s.G.seat →
      h.rank ≤ s.G.rank → k ∉ s.G.served → s.canStart h = true → s.chosen s.cur = false) ∧
    (Issues (.trap a) s → s.G.active = 0 → ∃ t, exec (.trap a) s = .next t ∧ Written (.trap a) s t {}) ∧
    (Issues (.trap a) s → s.G.active ≠ 0 → s.G.frame = none → ∃ t, exec (.trap a) s = .next t ∧
      Frame (.trap a) s t { s.G with tpend := s.G.tpend ++ [⟨40, s.G.uni a.toNat, 0, 0⟩] }) ∧
    (Issues .bkpt s → s.G.active = 0 → ∃ t, exec .bkpt s = .next t ∧ Written .bkpt s t {}) ∧
    (Issues .bkpt s → s.G.active ≠ 0 → s.G.frame = none → ∃ t, exec .bkpt s = .next t ∧
      Frame .bkpt s t { s.G with tpend := s.G.tpend ++ [⟨41, 0, 0, 0⟩] }) ∧
    (s.G.active ≠ 0 → s.G.frame ≠ none →
      (Issues (.trap a) s → exec (.trap a) s = .next (s.setG s.G.doubleFault)) ∧
      (Issues .bkpt s → exec .bkpt s = .next (s.setG s.G.doubleFault)))

/-- R73, R121, R130: CLAUSE_START opens the clause whose header stands at the split's program counter, when its seat has
chosen the group and no WAIT flag is pending; a malformed header is the illegal-instruction trap, detail 1, with nothing
issued (R76, R302). -/
def Sys2Proof.Claims.ClauseStartOpens : Prop :=
  ∀ (s u : State) (w : Word), s.chosen s.cur = true → fetchWord s s.G s.G.split.pc = (.word w, u) →
    (∀ h, decodeHeader w = some h → u.G.waitClear h.wait = true → ∃ t, exec .clauseStart s = .next t ∧
      { t with groups := u.groups } = u ∧
      t.G = { u.G with
        clause := some ⟨u.G.split.pc, h.len, h.wait, h.fa, h.fb, 0, 0, false, []⟩,
        ran := if u.G.splits.any (fun e => e.1 != u.G.cur && splitReady u u.G e.2) then u.G.ran + 1 else u.G.ran,
        splits := mput u.G.splits u.G.cur { u.G.split with fresh := false }, yielded := false, served := [] } ∧
      ∀ k, k ≠ u.cur → mget t.groups k =
        (mget u.groups k).map (fun g => if g.yielded = true then { g with served := u.cur :: g.served } else g)) ∧
    (decodeHeader w = none → exec .clauseStart s =
      .next (enterHandler u (BitVec.ofNat 32 (65536 + 256 * 1 + 1)) w u.G.split.pc 0 3 none false none))

/-- R122, R40, R130: CLAUSE_BOUNDARY after the last word. A lone split falls through to the word after the clause, or
stays where a transfer sent it. Two splits at one program counter and depth merge under the lower entry, with the mode
and formats of the lower lane. -/
def Sys2Proof.Claims.BoundaryResult : Prop :=
  ∀ (s : State) (c : Clause), s.G.clause = some c → s.G.after = [] → c.len ≤ c.pos → s.G.tpend = [] →
    s.G.parked = [] →
    let pc := if c.taken then s.G.split.pc else nextPc s.G
    (∀ sp, s.G.splits = [(s.G.cur, sp)] → s.G.cur < 4 → 
      let sp' : Split := { sp with pc := pc }
      ∃ t, exec .clauseBoundary s = .next t ∧ GroupOnly s t ∧
        t.G = { s.G with clause := none, splits := [(s.G.cur, sp')] }) ∧
    (∀ j k x y, s.G.splits = [(j, x), (k, y)] → j < k → k < 4 → s.G.cur = k → y.depth = x.depth → x.pc = pc →
      ∃ t, exec .clauseBoundary s = .next t ∧ GroupOnly s t ∧ ∃ z,
        t.G = { s.G with clause := none, splits := [(j, z)], cur := j, ran := t.G.ran } ∧ z.mask = x.mask ||| y.mask ∧
        z.pc = pc ∧ z.depth = x.depth ∧
        ((lowestLane x.mask).getD 96 ≤ (lowestLane y.mask).getD 96 → z.mode = x.mode ∧ z.fmts = x.fmts) ∧
        ((lowestLane y.mask).getD 96 < (lowestLane x.mask).getD 96 → z.mode = y.mode ∧ z.fmts = y.fmts))

/-- R130, rule 4, and R131: after 256 clauses in a row SPLIT_ROTATE makes current the next split that can start a clause, in ascending entry
number and wrapping from entry 3 to entry 0. What the 256 clauses count, and that the rule passes over entries it has made current until it
has served all that could start one, is the reading of log entry 47 (DEDUCED). -/
def Sys2Proof.Claims.SplitRotates : Prop :=
  ∀ (s : State) (d : Nat), s.G.clause = none → 256 ≤ s.G.ran → s.G.cur < 4 →
    (∀ e ∈ s.G.splits, e.1 < 4) → (s.G.splits.map Prod.fst).Nodup → 0 < d → d < 4 →
    let at_ := fun (j : Nat) => (s.G.cur + j) % 4
    CanGoOn s s.G (at_ d) →
    (at_ d ∉ s.G.rotated → (∀ j, 0 < j → j < d → CanGoOn s s.G (at_ j) → at_ j ∈ s.G.rotated) →
      ∃ t, exec .splitRotate s = .next t ∧ GroupOnly s t ∧
        t.G = { s.G with cur := at_ d, ran := 0, rotated := at_ d :: s.G.rotated }) ∧
    ((∀ j, 0 < j → j < 4 → CanGoOn s s.G (at_ j) → at_ j ∈ s.G.rotated) → (∀ j, 0 < j → j < d → ¬CanGoOn s s.G (at_ j)) →
      ∃ t, exec .splitRotate s = .next t ∧ GroupOnly s t ∧ t.G = { s.G with cur := at_ d, ran := 0, rotated := [at_ d] })

/-- R73, R121, R122, R130: a clause opens, ends, and splits take turns. That `ran` counts the clauses that the current split has started while a
sibling could start one is the reading of log entry 47 (DEDUCED). -/
def Obligations.ClauseEvents : Prop := ClauseStartOpens ∧ BoundaryResult ∧ SplitRotates

/-- R204 to R206, R208, R210, R214, R217: a load, store, conversion or atomic whose active lanes pass the checks of R207
issues one access for each of them, under the flag of FA and counted as transfers; with no active lane it does nothing.
How the transfers and an ordered phase's conflicts are counted is log entry 37, that no active lane means no effect
log entry 36. -/
def Obligations.GlobalAccessIssued : Prop :=
  ∀ (i : Instr) (f : Group → Option Access), globalAccess i = some f → ∀ s : State, Issues i s → ConvReady i s.G →
    (s.G.active = 0 → ∃ t, exec i s = .next t ∧ Written i s t {}) ∧
    (∀ x, s.G.active ≠ 0 → f s.G = some x → AddressesOk s.G x.want →
      (∀ k, s.G.active.getLsbD k = true → LaneSound s x.want k) → AccessRoom s.G →
      ∃ t p, exec i s = .next t ∧ GroupOnly s t ∧
        Appended i s t { s.G with xfer := s.G.xfer + (activeLanes s.G).length } p ∧
        AccessesOf s x.want p ∧ p.body = x.body ∧ p.dst = x.dst ∧ p.order = x.order ∧ p.scope = x.scope)

/-- R114, R206, R207, R320: the format fault (cause 7), the address fault (15), the misaligned fault (16) and a translation
fault (23) with the lanes that fail and the lowest one's address, in this order. -/
def Sys2Proof.Claims.GlobalChecks : Prop :=
  ∀ (i : Instr) (f : Group → Option Access), globalAccess i = some f → ∀ s : State, Issues i s → ConvReady i s.G →
    s.G.active ≠ 0 → ∃ sh, i.shape = some sh ∧
    (f s.G = none → exec i s = .next (takePrecise s sh { Trap.of 7 with lanes := s.G.active })) ∧
    (∀ x (m : Mask) k, f s.G = some x → m.getLsbD k = true → (∀ j, j < k → m.getLsbD j = false) →
      ((∀ j, j < 96 → (m.getLsbD j = true ↔ s.G.active.getLsbD j = true ∧ 2 ^ 57 ≤ (x.want.addr j).toNat)) →
        exec i s = .next (takePrecise s sh { Trap.of 15 with lanes := m, addr := x.want.addr k })) ∧
      ((∀ j, s.G.active.getLsbD j = true → (x.want.addr j).toNat < 2 ^ 57) →
        (∀ j, j < 96 → (m.getLsbD j = true ↔ s.G.active.getLsbD j = true ∧ (x.want.addr j).toNat % x.want.align ≠ 0)) →
        exec i s = .next (takePrecise s sh { Trap.of 16 with lanes := m, addr := x.want.addr k })) ∧
      (AddressesOk s.G x.want → AccessRoom s.G →
        (∀ j, s.G.active.getLsbD j = true → if m.getLsbD j then
            translate s s.G.who x.want.kind (x.want.addr j) = .fault false
          else ∃ pa rem home, translate s s.G.who x.want.kind (x.want.addr j) = .hit pa rem home) →
        (∀ j, m.getLsbD j = true → s.G.active.getLsbD j = true) →
        exec i s = .next (takePrecise s sh { Trap.of 23 with lanes := m, addr := x.want.addr k })))

/-- R38, R321, R324: an access that misses the TLB takes a waiting entry of the operand log, its pages wait for the walker,
and the group goes on. -/
def Sys2Proof.Claims.GlobalMissWaits : Prop :=
  ∀ (i : Instr) (f : Group → Option Access), globalAccess i = some f → ∀ (s : State) (x : Access) (k : Nat), Issues i s →
    ConvReady i s.G → f s.G = some x → AddressesOk s.G x.want → AccessRoom s.G →
    (∀ j, s.G.active.getLsbD j = true → (pageOf (x.want.addr j), true) ∉ s.G.pageWaits) →
    s.G.active.getLsbD k = true → translate s s.G.who x.want.kind (x.want.addr k) = .miss (pageOf (x.want.addr k)) →
    (s.cluster (s.G.core / 8)).misses.length + (activeLanes s.G).length ≤ 63 →
    ∃ t p slot e, exec i s = .next t ∧ slot < 8 ∧ mget s.G.log slot = none ∧ mget t.G.log slot = some e ∧
      (∀ j, j < slot → (mget s.G.log j).isSome = true) ∧ (∀ j, j ≠ slot → mget t.G.log j = mget s.G.log j) ∧
      e.waiting = true ∧ e.act = s.G.active ∧ e.seq = s.G.logSeq ∧ t.G.pends = s.G.pends ++ [p] ∧ p.missed = true ∧
      p.entry = some slot ∧ p.body = x.body ∧ p.dst = x.dst ∧ ClauseMoved i s t ∧
      t.G.xfer = s.G.xfer + (activeLanes s.G).length ∧
      stillMissed t (s.G.core / 8) s.G.asid (pageOf (x.want.addr k)) = true ∧
      { t with groups := s.groups, clusters := s.clusters } = s ∧ ∀ j, j ≠ s.cur → mget t.groups j = mget s.groups j

/-- R322: an access that stays at issue because too many pages are missed takes the translation fault in the lanes of a page whose walk has
ended without a fill. -/
def Sys2Proof.Claims.GlobalWalkFailed : Prop :=
  ∀ (i : Instr) (f : Group → Option Access), globalAccess i = some f → ∀ (s : State) (x : Access) (m : Mask) (k : Nat), Issues i s →
    ConvReady i s.G → f s.G = some x → AddressesOk s.G x.want → AccessRoom s.G → m.getLsbD k = true → (∀ j, j < k → m.getLsbD j = false) →
    (∀ j, j < 96 → (m.getLsbD j = true ↔ s.G.active.getLsbD j = true ∧ (pageOf (x.want.addr j), true) ∈ s.G.pageWaits ∧
      ∃ l, s.G.active.getLsbD l = true ∧ translate s s.G.who x.want.kind (x.want.addr l) = .miss (pageOf (x.want.addr j)))) →
    ∃ sh, i.shape = some sh ∧ exec i s =
      .next (takePrecise (s.setG { s.G with pageWaits := [] }) sh { Trap.of 23 with lanes := m, addr := x.want.addr k })

/-- R207, R320 to R324: which fault a global access takes, and that one whose page is not in the TLB waits for the walker.
How the transfers and an ordered phase's conflicts are counted is log entry 37. -/
def Obligations.GlobalAccessFaults : Prop := GlobalChecks ∧ GlobalMissWaits ∧ GlobalWalkFailed

/-- R207, R208, R215, R225: LDP, STP, BOSET, BOADD and BOWAIT issue their access to the pool under the flag of FA when the
offsets are aligned and lie in the team's scratch banks; BOPOLL writes its predicate at once and drops the core's L1 when
it sets it (R227; log entry 48: wherever the counted bytes lie), or waits under the flag of FA behind what must be performed before it. -/
def Sys2Proof.Claims.PoolAccepted : Prop :=
  (∀ (i : Instr) (w : Width) (a b : F7) (data : Group → Nat → List (Byte × Byte)) (body : PendBody) (dst : List Reg),
    poolAccess i = some (w, a, b, data, body, dst) → ∀ s : State, Issues i s →
    (s.G.active = 0 → ∃ t, exec i s = .next t ∧ Written i s t {}) ∧
    (s.G.active ≠ 0 → 
      (∀ k, s.G.active.getLsbD k = true → poolOffset s.G a b k % w.bytes = 0 ∧
        ∃ pa, PoolSpot s (poolOffset s.G a b k) w.bytes pa) →
      ∃ t p, exec i s = .next t ∧ GroupOnly s t ∧ Appended i s t s.G p ∧ p.body = body ∧ p.dst = dst ∧
        p.accs.map Acc.lane = activeLanes s.G ∧
        ∀ x ∈ p.accs, PoolSpot s (poolOffset s.G a b x.lane) w.bytes x.pa ∧ x.size = w.bytes ∧ x.data = data s.G x.lane)) ∧
  (∀ (i : Instr) (a : F7) (body : Group → Nat → PendBody) (legal : State → Nat → Prop), objectOp i = some (a, body, legal) →
    ∀ s : State, Issues i s →
    (s.G.active = 0 → ∃ t, exec i s = .next t ∧ Written i s t {}) ∧
    (∀ pa, s.G.active ≠ 0 → nv s.G a % 16 = 0 → PoolSpot s (nv s.G a) 16 pa →
      ((∃ x y, i = .bowait x y) ∨ objectBusy s.G pa = false) → legal s pa →
      ∃ t p, exec i s = .next t ∧ GroupOnly s t ∧ Appended i s t s.G p ∧ p.body = body s.G pa)) ∧
  (∀ (d a b : F7) (s : State), Issues (.bopoll d a b) s →
    (s.G.active = 0 → ∃ t, exec (.bopoll d a b) s = .next t ∧ Written (.bopoll d a b) s t {}) ∧
    (∀ pa sh, s.G.active ≠ 0 → nv s.G a % 16 = 0 → PoolSpot s (nv s.G a) 16 pa → (Instr.bopoll d a b).shape = some sh →
      let free := pollFree s { s.G.mkPend sh none (.bopoll pa (s.G.uni b.toNat)) with accs := objectAccs pa }
      (free = false → ∃ t p, exec (.bopoll d a b) s = .next t ∧ GroupOnly s t ∧ Appended (.bopoll d a b) s t s.G p ∧
        p.body = .bopoll pa (s.G.uni b.toNat) ∧ p.dst = [.p d.toNat]) ∧
      (free = true →
      let r := epochReached s pa (s.G.uni b.toNat)
      ∃ t, exec (.bopoll d a b) s = .next t ∧ Holds s.G t.G { preds := [(d.toNat, fun _ => r)] } ∧
        ClauseMoved (.bopoll d a b) s t ∧ PendsKept s t ∧
        t.G = { s.G with
          p := t.G.p, clause := t.G.clause, pends := t.G.pends, hidden := t.G.hidden, gathers := t.G.gathers } ∧
        HiddenKept s t ∧ (∀ x ∈ t.G.gathers, x ∈ s.G.gathers) ∧ (r = false → t.G.gathers = s.G.gathers) ∧
        { t with groups := s.groups, cores := s.cores } = s ∧ (∀ k, k ≠ s.cur → mget t.groups k = mget s.groups k) ∧
        t.cores = if r then mput s.cores s.G.core { s.core s.G.core with l1 := [] } else s.cores)))

/-- R207, checks 6 and 7: LDP and STP take the misaligned fault (cause 16), the pool-ownership fault (17) and the pool-role fault (18) with
exactly the failing lanes and the lowest one's offset, in this order (ownership before role: log entry 48). -/
def Sys2Proof.Claims.PoolFaults : Prop :=
  ∀ (i : Instr) (w : Width) (a b : F7) (data : Group → Nat → List (Byte × Byte)) (body : PendBody) (dst : List Reg),
    poolAccess i = some (w, a, b, data, body, dst) → ∀ (s : State) (m : Mask) (k : Nat), Issues i s →
    m.getLsbD k = true → (∀ j, j < k → m.getLsbD j = false) →
    let off := poolOffset s.G a b
    let fails := fun (bad : Nat → Prop) => ∀ j, j < 96 → (m.getLsbD j = true ↔ s.G.active.getLsbD j = true ∧ bad (off j))
    let all := fun (good : Nat → Prop) => ∀ j, s.G.active.getLsbD j = true → good (off j)
    ∃ sh, i.shape = some sh ∧
      let trap := fun (c : Nat) => takePrecise s sh { Trap.of c with lanes := m, addr := BitVec.ofNat 64 (off k) }
      (fails (fun o => o % w.bytes ≠ 0) → exec i s = .next (trap 16)) ∧
      (all (fun o => o % w.bytes = 0) → fails (PoolForeign s w.bytes) → exec i s = .next (trap 17)) ∧
      (all (fun o => o % w.bytes = 0 ∧ ¬PoolForeign s w.bytes o) → fails (PoolRoleBad s) → exec i s = .next (trap 18))

/-- R207, checks 6 to 8, R225: a barrier-object instruction takes the same three faults for the object's 16 bytes, and BOSET and BOADD the
barrier-object fault (cause 19) for a quota that R225 does not allow, in every active lane. -/
def Sys2Proof.Claims.ObjectFaults : Prop :=
  (∀ (i : Instr) (a : F7), objectName i = some a → ∀ s : State, Issues i s → s.G.active ≠ 0 →
    let off := nv s.G a
    ∃ sh, i.shape = some sh ∧
      let trap := fun (c : Nat) => takePrecise s sh { Trap.of c with lanes := s.G.active, addr := BitVec.ofNat 64 off }
      (off % 16 ≠ 0 → exec i s = .next (trap 16)) ∧
      (off % 16 = 0 → PoolForeign s 16 off → exec i s = .next (trap 17)) ∧
      (off % 16 = 0 → ¬PoolForeign s 16 off → PoolRoleBad s off → exec i s = .next (trap 18))) ∧
  (∀ (i : Instr) (a : F7) (body : Group → Nat → PendBody) (legal : State → Nat → Prop), objectOp i = some (a, body, legal) →
    ∀ (s : State) (pa : Nat), Issues i s → s.G.active ≠ 0 → nv s.G a % 16 = 0 → PoolSpot s (nv s.G a) 16 pa →
    objectBusy s.G pa = false → ¬legal s pa →
    ∃ sh, i.shape = some sh ∧ exec i s = .next (takePrecise s sh { Trap.of 19 with lanes := s.G.active }))

/-- R207, R208, R215, R225: when the words of the pool issue, and which faults they take. -/
def Obligations.PoolIssued : Prop := PoolAccepted ∧ PoolFaults ∧ ObjectFaults

/-- R221, R228, R231, R232, R235: the queue operations issue when their queue check passes, or take its fault, with event 5 where an access
table denies the queue's memory (R429); BAR counts
the group's team barriers, FENCE issues with its order and scope, and PREF moves lines only: into the core's L1 and the
cluster's cache, from which a dirty line goes back to memory, and among those that the slices cache (R315). -/
def Obligations.QueueBarrierFenceIssued : Prop :=
  (∀ (i : Instr) (a : F7) (n : Group → Nat) (push : Bool) (body : Group → PendBody) (dst : List Reg),
    queueOp i = some (a, n, push, body, dst) →
    ∀ s : State, Issues i s → ((∃ d x, i = .qpopUniform d x) → s.G.split.mask = s.G.live) →
    (s.G.active = 0 → ∃ t, exec i s = .next t ∧ Written i s t {}) ∧
    (s.G.active ≠ 0 → queueTrap s s.G (s.G.uni a.toNat) (n s.G) push = none → 
      ∃ t p, exec i s = .next t ∧ GroupSeqOnly s t ∧ Appended i s t s.G p ∧ p.body = body s.G ∧ p.dst = dst ∧
        p.mark = s.seq ∧ t.seq = s.seq + 1) ∧
    (∀ tr, s.G.active ≠ 0 → queueTrap s s.G (s.G.uni a.toNat) (n s.G) push = some tr →
      ∃ sh, i.shape = some sh ∧ exec i s = .next (takePrecise
        (if queueDenied s s.G tr then s.deny (s.G.vf + 1) (BitVec.ofNat 32 AccKind.atomic.code) tr.addr else s) sh tr))) ∧
  (∀ (s : State), Issues .bar s → 
    (s.G.split.mask = s.G.live → s.G.kind = .started → ∃ t p, exec .bar s = .next t ∧ GroupSeqOnly s t ∧
      Appended .bar s t { s.G with bars := s.G.bars + 1 } p ∧ p.body = .bar (s.G.bars + 1)) ∧
    (s.G.split.mask = s.G.live → s.G.kind ≠ .started → ∃ t p, exec .bar s = .next t ∧ GroupSeqOnly s t ∧
      Appended .bar s t s.G p ∧ p.body = .fence .full .team) ∧
    (s.G.split.mask ≠ s.G.live → ∃ sh, Instr.bar.shape = some sh ∧
      exec .bar s = .next (takePrecise s sh { Trap.of 21 with lanes := s.G.split.mask }))) ∧
  (∀ (o : FenceOrder) (q : Scope) (s : State), Issues (.fence o q) s → 
    ∃ t p, exec (.fence o q) s = .next t ∧ GroupSeqOnly s t ∧ Appended (.fence o q) s t s.G p ∧ p.body = .fence o q) ∧
  (∀ (a : F7) (s : State), Issues (.pref a) s → ∃ t, exec (.pref a) s = .next t ∧ ClauseMoved (.pref a) s t ∧
    t.G = { s.G with clause := t.G.clause } ∧ (∀ k, k ≠ s.cur → mget t.groups k = mget s.groups k) ∧
    { t with groups := s.groups, cores := s.cores, clusters := s.clusters, mem := s.mem, free := s.free, slices := s.slices } = s ∧
    (∀ k, (t.core k).sgb = (s.core k).sgb ∧ (t.core k).acc = (s.core k).acc ∧
      (k ≠ s.G.core → ∀ l ∈ (t.core k).l1, l ∈ (s.core k).l1)) ∧
    (∀ k, t.cluster k = { s.cluster k with cache := (t.cluster k).cache }) ∧
    ∀ x, bget t.mem x = bget s.mem x ∨ ∃ l ∈ (s.cluster (s.G.core / 8)).cache, l.dirty = true ∧ 128 * l.pline ≤ x ∧
      l.data[x - 128 * l.pline]? = some (bget t.mem x))

/-- R41, R42, R73, R103, R299, R302: an FB instruction, a subnormal replay and a TIMEWAIT complete: the registers hold the
results that no later write has overtaken, and the flag falls; a temporary or a predicate of an instruction from before a
handler's entry changes in the saved state, and the predicate in the handler too where the handler has not written it.
Which of a saved and a present register such a result goes to is log entry 38. -/
def Obligations.ResultsComplete : Prop :=
  ∀ (s : State) (gid id : Nat) (p : Pend), Outstanding s gid id p →
    (p.body = .write → PlainWrites (s.group gid) p p.writes → ∃ t, exec (.fbInstructionComplete gid id) s = .next t ∧ { t with groups := s.groups } = s ∧
      OtherGroups s t gid ∧ Completed (s.group gid) (t.group gid) p p.writes 0) ∧
    (p.body = .replay → PlainWrites (s.group gid) p p.writes → ∃ t, exec (.subnormalReplayDone gid id) s = .next t ∧ { t with groups := s.groups } = s ∧
      OtherGroups s t gid ∧ Completed (s.group gid) (t.group gid) p p.writes 0) ∧
    (∀ f n row m, p.body = .write → (s.group gid).frame = some f → p.id < f.mark → p.writes = [⟨.v n, row, m⟩] → 124 ≤ n →
      p.killed = [] → ∃ t h, exec (.fbInstructionComplete gid id) s = .next t ∧ (t.group gid).frame = some h ∧
        (t.group gid).t = (s.group gid).t ∧ ∀ i, i < 96 → (mgetD h.temps (n - 124) []).at i =
          if m.getLsbD i then row.at i else (mgetD f.temps (n - 124) []).at i) ∧
    (∀ f n row m, p.body = .write → (s.group gid).frame = some f → p.id < f.mark → p.writes = [⟨.p n, row, m⟩] → p.killed = [] →
      ∃ t h, exec (.fbInstructionComplete gid id) s = .next t ∧ (t.group gid).frame = some h ∧ ∀ i, i < 96 →
        ((mgetD h.preds n 0).getLsbD i = if m.getLsbD i then row.at i != 0 else (mgetD f.preds n 0).getLsbD i) ∧
        (((t.group gid).pred n).getLsbD i =
          if m.getLsbD i && !(s.group gid).hidden.any (fun e => decide (e.1 = .p n) && e.2.getLsbD i) then row.at i != 0
          else ((s.group gid).pred n).getLsbD i)) ∧
    (∀ till, p.body = .timewait till → till.toNat ≤ s.clock.toNat → s.withdrawn (s.group gid) p = false →
      ∃ t, exec (.timewaitExpire gid id) s = .next t ∧ { t with groups := s.groups } = s ∧
      OtherGroups s t gid ∧ Completed (s.group gid) (t.group gid) p [] 0)

/-- R205, R210, R211: a load that may be performed and whose data this package's memory holds writes its registers, the
bytes little-endian and zero-extended; for `.BYP` and with no race in sight they are those of the core's buffer, else of
the home.
That the lanes are performed in one step is log entry 10, how a conflict and the transfers are counted log entry 37, which races show log
entry 32. -/
def Obligations.LoadPerformed : Prop :=
  ∀ (s : State) (gid id : Nat) (p : Pend) (d : F7) (w : Width) (byp : Bool), Outstanding s gid id p →
    p.body = .load w byp → p.dst = (List.range w.regs).map (fun k => .v (d.toNat + k)) →
    MayGo s gid p →
    (∀ a ∈ p.accs, a.rem = none ∧ a.pa < 768 * 2 ^ 30 ∧ a.size = w.bytes ∧ a.pa % 128 + w.bytes ≤ 128) →
    ∃ t, exec (.memoryAccessComplete gid id) s = .next t ∧ OtherGroups s t gid ∧
      Completed (s.group gid) (t.group gid) p
        (loadOut p d w (broughtByte
          (loadAccs (dropConflicts { s with cur := gid } (s.group gid) p.wkey p.lines) byp p.accs).1)) p.left ∧
      (byp = true → phaseLines s (s.group gid).task = none → (∀ a ∈ p.accs, homeOf s a.home = none ∧
          ∀ u, SlicesOnly s u → raced { u with cur := gid } (s.group gid) a true = false) →
        SlicesOnly { s with groups := t.groups } t ∧
        Completed (s.group gid) (t.group gid) p (loadOut p d w (loadedByte s (s.group gid).core)) p.left)

/-- R205, R209, R212, R309, R37: a store of one lane, with no race in sight (log entry 32), enters its core's buffer, its line leaves the core's L1 and its flag
falls; HOME_ACKNOWLEDGE writes a sent entry's bytes, and no others, to memory, and takes its accesses from the transfer
count; SGB_ENTRY_TIMEOUT sends an entry. -/
def Sys2Proof.Claims.StorePerformed : Prop :=
  (∀ (s : State) (gid id : Nat) (p : Pend) (a : Acc), Outstanding s gid id p → p.body = .store → p.done = false →
    p.accs = [a] → p.left = 1 → a.st = 0 → a.rem = none → a.pa < 768 * 2 ^ 30 → a.data.length = a.size →
    (∃ e ∈ a.data, e.2 ≠ 0) → a.pa % 128 + a.size ≤ 128 → MayGo s gid p → racedStore { s with cur := gid } (s.group gid) a = false →
    let c := (s.group gid).core
    (s.core c).sgb.length < 64 → (∀ e ∈ (s.core c).sgb, e.pline ≠ a.pa / 128) →
    ∃ t e, exec (.memoryAccessComplete gid id) s = .next t ∧ t.mem = s.mem ∧ OtherGroups s t gid ∧
      (t.core c).sgb = (s.core c).sgb ++ [e] ∧ e.pline = a.pa / 128 ∧ e.who = [(gid, id)] ∧ e.home = a.home ∧
      (∀ k, mget e.cells k = if a.pa % 128 ≤ k ∧ k < a.pa % 128 + a.size then a.data[k - a.pa % 128]? else none) ∧
      (∀ l ∈ (t.core c).l1, l.pline ≠ a.pa / 128) ∧ (∀ k, k ≠ c → mget t.cores k = mget s.cores k) ∧
      (∀ n, (t.group gid).flag n = if p.flag = some n then (s.group gid).flag n - 1 else (s.group gid).flag n) ∧
      (t.group gid).xfer = (s.group gid).xfer ∧
      ∃ q, (t.group gid).findPend id = some q ∧ q.done = true ∧ q.left = 1) ∧
  (∀ (s : State) (core k : Nat) (e : SgbEntry), sgbEntry s core k = some e → e.sent = true →
    (∀ x ∈ (s.core core).sgb, x.pline = e.pline → e.seq ≤ x.seq) → homeOf s e.home = none →
    (∀ x ∈ s.clusters, cacheLine x.2 e.pline = none) → (∀ x ∈ e.parts, phaseLines s x.task = none ∧ ∀ c ∈ x.cells, c.1 < 128) →
    ∃ t, exec (.homeAcknowledge core k) s = .next t ∧
      (t.core core).sgb = (s.core core).sgb.filter (fun x => x.seq != k) ∧
      (∀ j, j < 128 → bget t.mem (128 * e.pline + j) =
        match mget e.cells j with
        | some v => mergeByte (bget s.mem (128 * e.pline + j)) v.1 v.2
        | none => bget s.mem (128 * e.pline + j)) ∧
      (∀ x, x / 128 ≠ e.pline → bget t.mem x = bget s.mem x) ∧
      (∀ g, (s.group g).kind ≠ .vacant → (t.group g).xfer = (s.group g).xfer - (e.who.filter (fun w => w.1 == g)).length)) ∧
  (∀ (s : State) (core k : Nat) (e : SgbEntry), sgbEntry s core k = some e → e.sent = false →
    e.due.toNat ≤ s.clock.toNat → ∃ t, exec (.sgbEntryTimeout core k) s = .next t ∧ { t with cores := s.cores } = s ∧
      (∀ j, j ≠ core → mget t.cores j = mget s.cores j) ∧
      (t.core core).sgb = (s.core core).sgb.map (fun x => if x.seq = k then { x with sent := true } else x))

/-- R217, R218: an atomic of one lane, with nothing of its line in the core's buffer, gives the old word and puts the new
one into memory in one step; no other byte changes. -/
def Sys2Proof.Claims.AtomicPerformed : Prop :=
  ∀ (s : State) (gid id : Nat) (p : Pend) (a : Acc) (d : F7) (op : AtomOp), Outstanding s gid id p → p.body = .atom op →
    p.accs = [a] → p.left = 1 → p.dst = [.v d.toNat] → a.size = 4 → a.pa % 4 = 0 → a.data.length = 4 →
    AtMemory s (s.group gid) a → MayGo s gid p →
    (∀ e ∈ (s.core (s.group gid).core).sgb, e.pline ≠ a.pa / 128) →
    (p.order = .acq → acquireHolds (s.group gid) p = true) →
    let old := wordOfBytes (fun j => bget s.mem (a.pa + j)) 4 0
    let y := wordOfBytes (fun j => (a.data.getD j (0, 0)).1) 4 0
    ∃ t, exec (.memoryAccessComplete gid id) s = .next t ∧ OtherGroups s t gid ∧
      Completed (s.group gid) (t.group gid) p [⟨.v d.toNat, mkRow (fun i => if i = a.lane then old else 0), p.lanes⟩] 1 ∧
      wordOfBytes (fun j => bget t.mem (a.pa + j)) 4 0 = rmw op old y a.cmp ∧
      ∀ x, x < a.pa ∨ a.pa + 4 ≤ x → bget t.mem x = bget s.mem x

/-- Stores and atomics of this package's memory are performed.
How a conflict and the transfers are counted is log entry 37. -/
def Obligations.WritesPerformed : Prop := StorePerformed ∧ AtomicPerformed

/-- R215, R216, R225, R227: pool loads and stores, BOSET, BOADD and BOWAIT that may be performed act on the pool: a load
gives its bytes, a store writes its lanes in ascending order, BOSET clears the object under its quota, BOADD raises the
quota, BOWAIT completes once its epoch is reached and drops the core's L1, and a BOPOLL that had to wait writes its predicate (log entry 48:
wherever the counted bytes lie). That all lanes of a pool access are performed in one step is log entry 10. -/
def Obligations.PoolPerformed : Prop :=
  ∀ (s : State) (gid id : Nat) (p : Pend), Outstanding s gid id p →
    MayGo s gid p →
    let cl := (s.group gid).core / 8
    (∀ d w, p.body = .poolLoad w → p.dst = (List.range w.regs).map (fun k => .v (d + k : Nat)) → (∀ a ∈ p.accs, a.size = w.bytes) →
      ∃ t, exec (.memoryAccessComplete gid id) s = .next t ∧ { t with groups := s.groups } = s ∧ OtherGroups s t gid ∧
        Completed (s.group gid) (t.group gid) p
          ((List.range w.regs).map (fun k => ⟨.v (d + k), mkRow (fun i =>
            match p.accs.find? (fun a => a.lane == i) with
            | some a => wordOfBytes (fun j => bget (s.pool cl) (a.pa + j)) w.bytes k
            | none => 0), p.lanes⟩)) 0) ∧
    (p.body = .poolStore → (∀ a ∈ p.accs, a.data.length = a.size) →
      ∃ t, exec (.memoryAccessComplete gid id) s = .next t ∧ OtherGroups s t gid ∧
        Completed (s.group gid) (t.group gid) p [] 0 ∧ t.mem = s.mem ∧ (∀ k, k ≠ cl → mget t.clusters k = mget s.clusters k) ∧
        ∀ x, bget (t.pool cl) x = match p.accs.reverse.find? (fun a => a.pa ≤ x && x < a.pa + a.size) with
          | some a => (a.data.getD (x - a.pa) (0, 0)).1
          | none => bget (s.pool cl) x) ∧
    (∀ pa q, p.body = .boset pa q → ∃ t, exec (.memoryAccessComplete gid id) s = .next t ∧ OtherGroups s t gid ∧
        Completed (s.group gid) (t.group gid) p [] 0 ∧ readObj (t.pool cl) pa = BarrierObj.mk 0 q 0 false ∧
        ∀ x, x < pa ∨ pa + 16 ≤ x → bget (t.pool cl) x = bget (s.pool cl) x) ∧
    (∀ pa q, p.body = .boadd pa q → ∃ t, exec (.memoryAccessComplete gid id) s = .next t ∧ OtherGroups s t gid ∧
        Completed (s.group gid) (t.group gid) p [] 0 ∧
        readObj (t.pool cl) pa = { readObj (s.pool cl) pa with quota := (readObj (s.pool cl) pa).quota + q } ∧
        ∀ x, x < pa ∨ pa + 16 ≤ x → bget (t.pool cl) x = bget (s.pool cl) x) ∧
    (∀ pa e, p.body = .bowait pa e → (readObj (s.pool cl) pa).reached e = true →
      ∃ t, exec (.memoryAccessComplete gid id) s = .next t ∧ OtherGroups s t gid ∧
        Completed { s.group gid with gathers := (t.group gid).gathers } (t.group gid) p [] 0 ∧
        (∀ x ∈ (t.group gid).gathers, x ∈ (s.group gid).gathers) ∧ (t.core (s.group gid).core).l1 = [] ∧
        t.clusters = s.clusters) ∧
    (∀ pa e d, p.body = .bopoll pa e → p.dst = [.p d] → let r := (readObj (s.pool cl) pa).reached e
      ∃ t, exec (.memoryAccessComplete gid id) s = .next t ∧ OtherGroups s t gid ∧
        Completed { s.group gid with gathers := (t.group gid).gathers } (t.group gid) p
          [⟨.p d, mkRow (fun _ => if r = true then 1 else 0), p.lanes⟩] 0 ∧
        (∀ x ∈ (t.group gid).gathers, x ∈ (s.group gid).gathers) ∧ (r = false → (t.group gid).gathers = (s.group gid).gathers) ∧
        t.cores = (if r then mput s.cores (s.group gid).core { s.core (s.group gid).core with l1 := [] } else s.cores) ∧
        t.clusters = s.clusters)

/-- R220, R221, R242, R309: a fence whose condition holds completes, and one that acquires at team scope or wider drops the
core's L1; a waiting release of such a scope sends the buffer's entries; BWAIT completes with its batch and drops the
L1 (log entry 48: wherever the batch's bytes lie). -/
def Obligations.FencePerformed : Prop :=
  ∀ (s : State) (gid id : Nat) (p : Pend), Outstanding s gid id p →
    (∀ o q, p.body = .fence o q → fenceHolds s (s.group gid) p o q = true → lineBehind (s.group gid) p = false →
      (∀ x ∈ (s.group gid).pends, ∀ n k, x.body = .qpop n k → x.done = true) → refusedBefore (s.group gid) p q = [] →
      ∃ t, exec (.memoryAccessComplete gid id) s = .next t ∧ OtherGroups s t gid ∧ t.mem = s.mem ∧
        (q ≠ .group → q ≠ .core → o ≠ .rel → (t.core (s.group gid).core).l1 = []) ∧
        ((q = .group ∨ q = .core ∨ o = .rel) → t.cores = s.cores) ∧
        (t.group gid).pends.map unmarked = ((s.group gid).pends.filter (fun x => x.id != id)).map unmarked ∧
        ∀ n, (t.group gid).flag n = if p.flag = some n then (s.group gid).flag n - 1 else (s.group gid).flag n) ∧
    (∀ o q, p.body = .fence o q → fenceHolds s (s.group gid) p o q = false → o ≠ .acq → q ≠ .group →
      q ≠ .core → ∃ t, exec (.memoryAccessComplete gid id) s = .next t ∧ t.groups = s.groups ∧
        (∀ e ∈ (t.core (s.group gid).core).sgb, e.seq < p.seen → e.sent = true)) ∧
    (∀ c n, p.body = .bwait c n → s.withdrawn (s.group gid) p = false → lineBehind (s.group gid) p = false →
      ((s.group gid).batch c).complete (BitVec.ofNat 16 n) = true →
      ∃ t, exec (.memoryAccessComplete gid id) s = .next t ∧ OtherGroups s t gid ∧
        Completed { s.group gid with gathers := (t.group gid).gathers } (t.group gid) p [] 0 ∧
        (∀ x ∈ (t.group gid).gathers, x ∈ (s.group gid).gathers) ∧ (t.core (s.group gid).core).l1 = [])

/-- R230, R232, R233: a FIFO operation reaches its queue once the order rules let it, and is served in its turn: a push adds its
elements at the end when there is room, a pop takes the oldest, one to each active lane in ascending order or one for all. -/
def Obligations.QueueServed : Prop :=
  ∀ (s : State) (gid id b : Nat) (p : Pend) (name : Word), Outstanding s gid id p →
    MayGo s gid p → name.toNat < 2 ^ 31 →
    fifoBank s (s.group gid) (name.toNat % 2 ^ 16) = some b →
    let cl := (s.group gid).core / 8
    let fifo := (mgetD (s.cluster cl).banks b Bank.empty).fifo
    (p.arrived = 0 → (queueName p).isSome = true → ∃ t, exec (.queueOpServe gid id) s = .next t ∧ OtherGroups s t gid ∧
      { t with groups := s.groups, seq := s.seq } = s ∧ t.seq = s.seq + 1 ∧
      t.group gid = { s.group gid with
        pends := (s.group gid).pends.map (fun x => if x.id = id then { p with arrived := s.seq } else x) }) ∧
    (p.arrived ≠ 0 →
    (∀ els, p.body = .qpush name els → queueBehind { s with cur := gid } (s.group gid) p name true = false → fifo.length + els.length ≤ 16384 →
      ∃ t, exec (.queueOpServe gid id) s = .next t ∧ OtherGroups s t gid ∧ Completed (s.group gid) (t.group gid) p [] 0 ∧
        (mgetD (t.cluster cl).banks b Bank.empty).fifo = fifo ++ els ∧ t.mem = s.mem) ∧
    (acquireHolds (s.group gid) p = true →
    (∀ d, p.body = .qpop name 0 → p.dst = [.v d] → queueBehind { s with cur := gid } (s.group gid) p name false = false →
      (laneList p.lanes).length ≤ fifo.length →
      ∃ t, exec (.queueOpServe gid id) s = .next t ∧ OtherGroups s t gid ∧
        Completed (s.group gid) (t.group gid) p
          [⟨.v d, mkRow (fun i => fifo.getD ((List.range i).filter (fun j => p.lanes.getLsbD j)).length 0), p.lanes⟩] 0 ∧
        (mgetD (t.cluster cl).banks b Bank.empty).fifo = fifo.drop (laneList p.lanes).length) ∧
    (∀ d, p.body = .qpop name 2 → p.dst = [.v d] → queueBehind { s with cur := gid } (s.group gid) p name false = false → fifo ≠ [] →
      ∃ t, exec (.queueOpServe gid id) s = .next t ∧ OtherGroups s t gid ∧
        Completed (s.group gid) (t.group gid) p [⟨.v d, mkRow (fun _ => fifo.headD 0), p.lanes⟩] 0 ∧
        (mgetD (t.cluster cl).banks b Bank.empty).fifo = fifo.drop 1) ∧
    (∀ n, p.body = .qpop name 1 → p.dst = [.s n] → n < 60 → queueBehind { s with cur := gid } (s.group gid) p name false = false → fifo ≠ [] →
      ∃ t, exec (.queueOpServe gid id) s = .next t ∧ OtherGroups s t gid ∧
        Completed (s.group gid) (t.group gid) p [⟨.s n, [fifo.headD 0], 1⟩] 0 ∧
        (mgetD (t.cluster cl).banks b Bank.empty).fifo = fifo.drop 1)))

/-- R237 to R239, R247 to R260: an engine command with no active lane does nothing; a descriptor field outside its range
is the engine-descriptor fault, cause 25; the first other check of R238 that fails decides the fault; else the command
joins its queue and the open batch of its class, under the flag of FA, and counts as a transfer.
Which fault and address a check reports where R238 leaves it open is log entry 30, the order within check 2 log entry
48. -/
def Obligations.EngineIssued : Prop :=
  ∀ (i : Instr) (a b : F7) (sub n : Nat), engineCmd i = some (a, b, sub, n) → ∀ s : State, Issues i s →
    let d := descWords s.G a n
    let bo := s.G.uni b.toNat
    let plan := planOf s s.G sub d ((List.range 4).map s.G.fmt) ((List.range 4).map (fun k => s.G.uni (fmtSreg (s.G.fmt k))))
    let cls := cmdClass sub
    (s.G.active = 0 → ∃ t, exec i s = .next t ∧ Written i s t {}) ∧
    (s.G.active ≠ 0 → interlocked s.G (matrixRegs s.G sub d) = false →
      (¬DescriptorLegal s sub (fun k => d.getD k 0) bo → ∃ sh, i.shape = some sh ∧
        exec i s = .next (takePrecise s sh { Trap.of 25 with lanes := s.G.active })) ∧
      (∀ tr, cmdTrap s sub plan bo = some tr → ∃ sh, i.shape = some sh ∧ exec i s = .next (takePrecise s sh tr)) ∧
      (cmdTrap s sub plan bo = none → s.G.xfer < 65535 →
        ∃ t c, exec i s = .next t ∧ ClauseMoved i s t ∧ t.cmds = s.cmds ++ [c] ∧ CommandOf s sub d bo c ∧
          t.G = { s.G.flagUp s.G.fa with
            xfer := s.G.xfer + 1, nextId := s.G.nextId + 1, batches := t.G.batches, clause := t.G.clause,
            gathers := t.G.gathers } ∧
          (sub ≠ 1 → t.G.gathers = s.G.gathers) ∧ (sub = 1 → ∃ x, t.G.gathers = s.G.gathers ++ [x] ∧ x.id = c.id) ∧
          t.seq = s.seq + 1 ∧
          (t.G.batch cls).openN = (s.G.batch cls).openN ∧ (t.G.batch cls).doneN = (s.G.batch cls).doneN ∧
          openLeft t.G cls = openLeft s.G cls + 1 ∧ openTotal t.G cls = openTotal s.G cls + 1 ∧
          (∀ k, k ≠ cls → t.G.batch k = s.G.batch k) ∧
          { t with groups := s.groups, cmds := s.cmds, seq := s.seq, dev := s.dev } = s ∧ (sub ≠ 8 → t.dev = s.dev) ∧
          ∀ k, k ≠ s.cur → mget t.groups k = mget s.groups k))

/-- R241 to R243, R36: BATCH writes the number of the open batch and opens the next; DONE passes it at once when it holds no
command and every earlier one is complete. BWAIT of a batch that is not closed is the batch fault, cause 24; of a closed one
it waits under FA. BSTAT writes PENDING, EXPIRED or the recorded word. That the three act whatever lanes are active, none included, is
log entry 36 (DEDUCED). -/
def Obligations.BatchResult : Prop :=
  (∀ (i : Instr) (cls : Nat) (d : F7), batchOp i = some (cls, d) → ∀ s : State, Issues i s →
    let b := s.G.batch cls
    let out : List (Nat × Word) := [(d.toNat, BitVec.ofNat 32 b.openN.toNat)]
    UniWritable s.G out → (b.openN - b.doneN).toNat < 2 ^ 15 - 1 →
    ∃ t, exec i s = .next t ∧ GroupOnly s t ∧ ClauseMoved i s t ∧ PendsKept s t ∧ Holds s.G t.G { unis := out } ∧
      t.G = { s.G with
        s := t.G.s, splits := t.G.splits, batches := t.G.batches, xfer := t.G.xfer, clause := t.G.clause, pends := t.G.pends,
        hidden := t.G.hidden } ∧ HiddenKept s t ∧
      (t.G.batch cls).openN = b.openN + 1 ∧ (∀ k, k ≠ cls → t.G.batch k = s.G.batch k) ∧
      (b.doneN = b.openN → openLeft s.G cls = 0 → (t.G.batch cls).doneN = b.openN + 1 ∧
        t.G.xfer = s.G.xfer - openTotal s.G cls ∧
        mgetD (t.G.batch cls).status b.openN.toNat 0 =
          BitVec.ofNat 32 ((mgetD b.status b.openN.toNat 0).toNat % 32 + 256 * min (openTotal s.G cls) 255)) ∧
      (b.doneN = b.openN → openLeft s.G cls ≠ 0 → (t.G.batch cls).doneN = b.doneN ∧ t.G.xfer = s.G.xfer)) ∧
  (∀ (i : Instr) (cls : Nat) (a : F7), bwaitOp i = some (cls, a) → ∀ s : State, Issues i s →
    let n := batchNo s.G a
    (notClosed (s.G.batch cls) n → ∃ sh, i.shape = some sh ∧
      exec i s = .next (takePrecise s sh { Trap.of 24 with lanes := s.G.split.mask })) ∧
    (¬notClosed (s.G.batch cls) n → 
      ∃ t p, exec i s = .next t ∧ GroupSeqOnly s t ∧ Appended i s t s.G p ∧ p.body = .bwait cls n)) ∧
  (∀ (i : Instr) (cls : Nat) (d a : F7), bstatOp i = some (cls, d, a) → ∀ s : State, Issues i s →
    let b := s.G.batch cls
    let n := batchNo s.G a
    (∀ w : Word, (¬isComplete b n → w = 0x80000000) → (isComplete b n → isExpired b n → w = 0x40000000) →
      (isComplete b n → ¬isExpired b n → w = mgetD b.status n 0) → UniWritable s.G [(d.toNat, w)] →
      ∃ t, exec i s = .next t ∧ Written i s t { unis := [(d.toNat, w)] }))

/-- R239, R241, R261, R325: the first waiting command of an engine with room is accepted and its flag falls; a finished command leaves the
engine; a command whose page the walker has filled goes on, one whose walk failed stops with FAULT and the engine-fault trap. The cause
that a stopped command reports is log entry 30. -/
def Sys2Proof.Claims.EngineEvents : Prop :=
  ∀ (s : State) (id : Nat) (c : Cmd), Command s id c →
    (c.queued = true → (∀ x ∈ s.cmds, x.queued = true → x.queueKey = c.queueKey → c.id ≤ x.id) →
      (s.cmds.filter (fun x => !x.queued && x.queueKey == c.queueKey)).length < queueRoom c.cls →
      ∃ t, exec (.engineAccept id) s = .next t ∧ OtherGroups s t c.gid ∧ t.group c.gid = (s.group c.gid).flagDown c.flag ∧
        { t with groups := s.groups, cmds := s.cmds } = s ∧
        t.cmds = s.cmds.map (fun x => if x.id = id then { c with queued := false, flag := none } else x)) ∧
    (c.units = unitsOf c → c.part = none → c.owed = 0 →
      ∃ t, exec (.engineCommandComplete id) s = .next t ∧ OtherGroups s t c.gid ∧ Retired s t c c.status ∧
        { t with groups := s.groups, cmds := s.cmds, collIn := s.collIn } = s ∧ (c.sub ≠ 8 → t.collIn = s.collIn)) ∧
    (∀ page, c.missed = some page → stillMissed s (c.core / 8) c.asid page = false →
      (c.walkFail = false → ∃ t, exec (.engineResume id) s = .next t ∧ { t with cmds := s.cmds } = s ∧
        t.cmds = s.cmds.map (fun x => if x.id = id then { c with missed := none } else x)) ∧
      (c.walkFail = true → ∃ t, exec (.engineResume id) s = .next t ∧ Stopped s t c 23))

/-- R226, R240, R247: BO_ARRIVAL moves the next row of a CPY, between memory and the scratch area in any of the four directions, permuted
under SWZ, and its bytes arrive at the barrier object. -/
def Sys2Proof.Claims.CpyUnit : Prop :=
  ∀ (s : State) (id : Nat) (c : Cmd) (spa dpa : Nat), Command s id c → c.sub = 0 → PlainUnit s c →
    let ctl := wordOf c.desc 5
    let rb := (wordOf c.desc 4).toNat
    let sp := ctl.getLsbD 16
    let dp := ctl.getLsbD 17
    let src := cpyRow c sp 0 6 c.units
    let dst := cpyRow c dp 2 7 c.units
    (ctl.getLsbD 18 = true → rb % 256 = 0) → PlaceReached s c .read sp src rb spa → PlaceReached s c .write dp dst rb dpa →
    (sp = dp → RowsApart c sp) →
    ∃ t, exec (.boArrival id) s = .next t ∧ UnitDone s t c (fun x => x) ∧
      PlaceTakes s t c dp dst dpa rb (fun k => placeByte s c sp src spa (swzPlace (ctl.getLsbD 18) c.units k))

/-- R248, R249, R329: the first unit of a GATHER or SCATTER reads the index list. Each later one of a GATHER brings one part of a row, a
line's, to its slot, of those still to come, or zeroes and RANGE for an index at or beyond NROWS; each later one of a SCATTER writes the row of the next slot to
the table, or nothing and sets RANGE. -/
def Sys2Proof.Claims.RowUnits : Prop :=
  ∀ (s : State) (id : Nat) (c : Cmd), Command s id c → PlainUnit s c →
    let ctl := wordOf c.desc 7
    let rb := (wordOf c.desc 2).toNat
    let n := fieldBits ctl 0 4
    let list := placeAt c (ctl.getLsbD 5) 4
    (∀ pa, (c.sub = 1 ∨ c.sub = 2) → c.units = 0 → PlaceReached s c .read (ctl.getLsbD 5) list (4 * n) pa →
      let indices := (List.range n).map (fun j => wordOfBytes (fun b => placeByte s c (ctl.getLsbD 5) list pa (4 * j + b)) 4 0)
      ∃ t, exec (.boArrival id) s = .next t ∧ MemoryKept s t ∧ PoolSame s t c ∧
        UnitDone s t c (fun x => { x with desc := c.desc ++ indices })) ∧
    (∀ pa : Nat → Nat, c.sub = 1 → 0 < c.units → 8 < c.desc.length → RowsLegal s c → NoRival s c →
      (∃ k, k < (rowParts c).length ∧ k ∉ c.rows) →
      (∀ j, j < n → rowIndex c j < (wordOf c.desc 3).toNat → EngineRange s c .read (tableRow c j) rb (pa j)) →
      ∃ t k j off len, exec (.boArrival id) s = .next t ∧ MemoryKept s t ∧ (rowParts c)[k]? = some (j, off, len) ∧ k ∉ c.rows ∧
        UnitDone s t c (fun x => withStatus 1 ((wordOf c.desc 3).toNat ≤ rowIndex c j) { x with rows := k :: c.rows }) ∧
        (∀ y, off ≤ y → y < off + len → let d := slotOff c j + swzPlace (ctl.getLsbD 4) (slotNo c j) y
          OutsideObject c d → scratchByte t c d = if rowIndex c j < (wordOf c.desc 3).toNat then bget s.mem (pa j + y) else 0) ∧
        (∀ x, x < 65536 * (cmdBanks s c).length → OutsideObject c x →
          (∀ y, off ≤ y → y < off + len → x ≠ slotOff c j + swzPlace (ctl.getLsbD 4) (slotNo c j) y) → scratchByte t c x = scratchByte s c x) ∧
        ArrivesBeside s t c (slotOff c j) rb len) ∧
    (∀ pa, c.sub = 2 → 0 < c.units → RowsLegal s c → let j := c.units - 1
      (rowIndex c j < (wordOf c.desc 3).toNat → EngineRange s c .write (tableRow c j) rb pa) →
      ∃ t, exec (.boArrival id) s = .next t ∧ UnitDone s t c (withStatus 1 ((wordOf c.desc 3).toNat ≤ rowIndex c j)) ∧ PoolKept s t c ∧
        BytesArrived s t c rb ∧
        if rowIndex c j < (wordOf c.desc 3).toNat then
          MemoryTakes s t pa rb (fun k => scratchByte s c (slotOff c j + swzPlace (ctl.getLsbD 4) (slotNo c j) k))
        else MemoryKept s t)

/-- R116, R250 to R253, R331: a unit of MMA forms the sixteen rows of its row group, on both cores of the pair under PAIR, from the operand rows that
the load pipes read, at the home slices or through the cluster cache; no other byte of accumulator memory changes, and no byte is counted. -/
def Sys2Proof.Claims.MmaUnit : Prop :=
  ∀ (s : State) (id : Nat) (c : Cmd) (m : MmaDesc) (pa pb psa psb : Nat → Nat), Command s id c → c.sub = 3 → PlainUnit s c →
    mmaDesc c.desc c.fmts = some m → m.a.k = m.b.k → let u := c.units
    (∀ r, 16 * u ≤ r → r < 16 * u + 16 → RowReached s c m.a 0 4 8 r (pa r) (psa r)) →
    (∀ r, r < (if m.pair then 128 else 64) → RowReached s c m.b 2 5 10 r (pb r) (psb r)) →
    let a := fun (r : Nat) => elementOf m.a (fun k => bget s.mem (pa r + k)) (fun k => bget s.mem (psa r + k)) (c.scales.getD m.fa 0)
    let b := fun (r : Nat) => elementOf m.b (fun k => bget s.mem (pb r + k)) (fun k => bget s.mem (psb r + k)) (c.scales.getD m.fb 0)
    ∃ t, exec (.boArrival id) s = .next t ∧ UnitDone s t c (fun x => x) ∧ (c.piped s = false → MemoryKept s t) ∧ PoolSame s t c ∧
      (∀ core, core = c.core ∨ (m.pair = true ∧ core = c.core + 1) →
        (∀ r n, 16 * u ≤ r → r < 16 * u + 16 → n < 64 → accGet t c.team core m.acc r n =
          accumulated (fun k => (a r k).mul (b (n + 64 * (core - c.core)) k))
            (if m.zero then 0 else accGet s c.team core m.acc r n) (m.a.k / 16)) ∧
        AccKept s t c core m.acc (16 * u) 16) ∧
      ∀ core, core ≠ c.core → (m.pair = true → core ≠ c.core + 1) → (t.core core).acc = (s.core core).acc

/-- R255, R256: a unit of MMADRAIN writes an output row: each element scaled, the residual added, dropped or not, rounded once; the block scales
behind it. Under CLEAR the row's elements become +0.0. Its element and scale bytes are counted. -/
def Sys2Proof.Claims.DrainUnit : Prop :=
  ∀ (s : State) (id : Nat) (c : Cmd) (e : ElemType) (pd pr : Nat), Command s id c → c.sub = 4 → PlainUnit s c →
    let ctl := wordOf c.desc 3
    let m := c.units
    let ns := if ctl.getLsbD 11 then 128 else 64
    let tile := fieldBits ctl 0 4
    let re : ElemType := if ctl.getLsbD 12 then .bf16 else .fp32
    let len := e.bytes ns + (if e.scaled then ns / 32 else 0)
    outType c.fmts (fieldBits ctl 4 2) (fieldBits ctl 6 2) = some e →
    EngineRange s c .write (operandRow c 0 2 m) len pd → (ctl.getLsbD 8 = true → EngineRange s c .read (operandRow c 5 7 m) (re.bytes ns) pr) →
    let x := fun (n : Nat) => drained s c m n (elementOf re (fun k => bget s.mem (pr + k)) (fun _ => 0) 0 n)
    ∃ t, exec (.boArrival id) s = .next t ∧ UnitDone s t c (fun x => x) ∧
      (∀ k, k < len → bget t.mem (pd + k) = drainByte e (drainRnd c m) (c.scales.getD (fieldBits ctl 6 2) 0) ns x k) ∧
      (ctl.getLsbD 8 = false ∨ c.piped s = false → ∀ x, x < pd ∨ pd + len ≤ x → bget t.mem x = bget s.mem x) ∧ PoolKept s t c ∧
      BytesArrived s t c len ∧
      (∀ core n, n < ns → core = c.core + n / 64 → accGet t c.team core tile m (n % 64) =
        if ctl.getLsbD 10 then 0 else accGet s c.team core tile m (n % 64)) ∧
      ∀ core, AccKept s t c core tile m 1 ∧
        (ctl.getLsbD 10 = false ∨ (core ≠ c.core ∧ (ctl.getLsbD 11 = true → core ≠ c.core + 1)) → (t.core core).acc = (s.core core).acc)

/-- R257, R258: IDXWALK writes the count and then an entry for each set element of its mask, in the visiting order, at most CAP of them, each
with its place among the mask's set bits; OVERFLOW says that some are left out. It counts what it writes. -/
def Sys2Proof.Claims.WalkUnit : Prop :=
  ∀ (s : State) (id : Nat) (c : Cmd) (pa : Nat) (pm : Nat → Nat), Command s id c → c.sub = 5 → PlainUnit s c →
    let ncols := fieldBits (wordOf c.desc 2) 16 16
    let total := fieldBits (wordOf c.desc 2) 0 16 * ncols
    let list := (wordOf c.desc 3).toNat
    let cap := (wordOf c.desc 4).toNat
    let table := fun (p : Nat) => bget s.mem (pa + p)
    let has := maskHas s pa pm total
    let count := ((List.range total).filter has).length
    let rank := fun (e : Nat) => ((List.range total).filter (fun x => has x && decide (visitNo ncols x < visitNo ncols e))).length
    let put := min count cap
    let entry := fun (i : Nat) => (List.range total).find? (fun e => has e && rank e == i)
    let word := fun (i h : Nat) => match entry i with
      | some e => if h = 0 then e / ncols + 65536 * (e % ncols) else ((List.range e).filter has).length
      | none => 0
    EngineRange s c .read (addrOf c.desc 0) (4 + 4 * chunkCount total) pa →
    (∀ j, j < chunkCount total → chunkLost table (chunkCount total) j = false →
      EngineRange s c .read (addrOf c.desc 0 + BitVec.ofNat 64 (numAt table (j + 1))) 16 (pm j)) →
    list + 8 + 8 * cap ≤ 65536 * (cmdBanks s c).length →
    ∃ t, exec (.boArrival id) s = .next t ∧ UnitDone s t c (withStatus 2 (cap < count)) ∧ MemoryKept s t ∧
      PoolTakes s t c list (8 + 8 * put) (fun p =>
        BitVec.ofNat 8 ((if p < 4 then put else if p < 8 then 0 else word ((p - 8) / 8) (p % 8 / 4)) / 256 ^ (p % 4))) ∧
      ArrivesBeside s t c list (8 + 8 * put) (8 + 8 * put)

/-- R257, R259: CSTORE writes the table first, then each chunk that its table gives a place, then the header with their number, and OVERFLOW
when some chunk has none; the table's bytes are counted with the header, and each chunk's with the chunk. -/
def Sys2Proof.Claims.StoreUnits : Prop :=
  ∀ (s : State) (id : Nat) (c : Cmd), Command s id c → c.sub = 6 → PlainUnit s c →
    let e := (wordOf c.desc 2).toNat
    let z := (wordOf c.desc 3).toNat
    let n := chunkCount e
    let pool := (wordOf c.desc 7).getLsbD 0
    let src := placeAt c pool 0
    let buf := addrOf c.desc 4
    let given := (List.range n).filter (fun k => wordOf c.desc (8 + k) != 0xFFFFFFFF)
    z = 1 ∨ z = 2 ∨ z = 4 →
    (∀ spa pa, c.units = 0 → PlaceReached s c .read pool src (e * z) spa → EngineRange s c .write (buf + 4) (tablePad n - 4) pa →
      let word := tableWord (placeByte s c pool src spa) z e (wordOf c.desc 6).toNat
      ∃ t, exec (.boArrival id) s = .next t ∧ PoolSame s t c ∧
        UnitDone s t c (fun x => { x with desc := c.desc.take 8 ++ (List.range n).map word }) ∧
        MemoryTakes s t pa (tablePad n - 4) (fun p => if p < 4 * n then BitVec.ofNat 8 ((word (p / 4)).toNat / 256 ^ (p % 4)) else 0)) ∧
    (∀ k spa pa, c.units = k + 1 → k < n → let off := wordOf c.desc (8 + k)
      let from_ := src + BitVec.ofNat 64 (128 * k * z)
      (off = 0xFFFFFFFF → ∃ t, exec (.boArrival id) s = .next t ∧ UnitDone s t c (fun x => x) ∧ MemoryKept s t ∧ PoolSame s t c) ∧
      (off ≠ 0xFFFFFFFF → PlaceReached s c .read pool from_ (chunkElems e k * z) spa →
        let bytes := placeByte s c pool from_ spa
        let len := chunkSize bytes z (chunkElems e k)
        EngineRange s c .write (buf + off.zeroExtend 64) len pa →
        ∃ t, exec (.boArrival id) s = .next t ∧ UnitDone s t c (fun x => x) ∧ PoolKept s t c ∧ BytesArrived s t c len ∧
          MemoryTakes s t pa len (chunkByte bytes z (chunkElems e k)))) ∧
    (∀ pa, c.units = n + 1 → c.desc.length = 8 + n → EngineRange s c .write buf 4 pa →
      ∃ t, exec (.boArrival id) s = .next t ∧ UnitDone s t c (withStatus 2 (given.length < n)) ∧ PoolKept s t c ∧
        BytesArrived s t c (tablePad n) ∧ MemoryTakes s t pa 4 (fun p => BitVec.ofNat 8 (given.length / 256 ^ p)))

/-- R257, R259: CLOAD writes the elements of the next chunk, zero for every clear bit; all zero, with PARTIAL, for a chunk that is missing or
malformed. Its bytes are counted. -/
def Sys2Proof.Claims.LoadUnit : Prop :=
  ∀ (s : State) (id : Nat) (c : Cmd) (ph pw pm pv pd : Nat), Command s id c → c.sub = 7 → PlainUnit s c →
    let e := (wordOf c.desc 2).toNat
    let z := (wordOf c.desc 3).toNat
    let k := c.units
    let n := chunkCount e
    let len := chunkElems e k
    let pool := (wordOf c.desc 7).getLsbD 1
    let buf := addrOf c.desc 0
    let off := (wordOfBytes (fun j => bget s.mem (pw + j)) 4 0)
    let lost := decide (min (wordOfBytes (fun j => bget s.mem (ph + j)) 4 0).toNat n ≤ k ∨ off = 0xFFFFFFFF ∨ off.toNat % 16 ≠ 0 ∨
      off.toNat < tablePad n)
    let at_ := buf + off.zeroExtend 64
    let bits := bitsSet (fun b => bget s.mem (pm + b)) 128
    let dst := placeAt c pool 4 + BitVec.ofNat 64 (128 * k * z)
    z = 1 ∨ z = 2 ∨ z = 4 → EngineRange s c .read buf 4 ph → EngineRange s c .read (buf + BitVec.ofNat 64 (4 * (k + 1))) 4 pw →
    (lost = false → EngineRange s c .read at_ 16 pm ∧ EngineRange s c .read (at_ + 16) (z * bits.length) pv) →
    PlaceReached s c .write pool dst (len * z) pd →
    ∃ t, exec (.boArrival id) s = .next t ∧ UnitDone s t c (withStatus 8 (lost = true)) ∧
      PlaceTakes s t c pool dst pd (len * z) (fun p =>
        if lost = false ∧ p / z ∈ bits then bget s.mem (pv + z * bits.idxOf (p / z) + p % z) else 0)

/-- R116, R226, R239 to R241, R247 to R261, R325: how a command starts, goes on after its page's walk and ends, and what a unit of work of each kind
writes and counts, outside ordered phases. That a unit is done in one step is log entry 10. -/
def Obligations.EngineRuns : Prop :=
  EngineEvents ∧ CpyUnit ∧ RowUnits ∧ MmaUnit ∧ DrainUnit ∧ WalkUnit ∧ StoreUnits ∧ LoadUnit

/-- R119, R241, R260: the first unit of a COLL brings this package's elements to the others. When all ranks have arrived in time with their COLL of
the same number: one whose ranks differ in COUNT or OP is refused and its bytes still arrive; one of one element replaces it by the
fold in ascending rank. One some of whose ranks did not arrive in time is refused. How the ranks' data travel, in class 5, is log entry 21, the address
of the rank list log entry 22. -/
def Obligations.CollectiveResult : Prop :=
  ∀ (s : State) (id : Nat) (c : Cmd), Command s id c → c.sub = 8 →
    let comm := (wordOf c.desc 4).toNat
    let n := (wordOf c.desc 2).toNat
    let op := (wordOf c.desc 3).toNat
    let size := (rankList s comm).length
    let own := (rankList s comm).idxOf s.dev.pkg
    let here := fun (k : Nat) (r : RankData) => r ∈ collRanks s c ∧ r.rank = k ∧ r.words.length = r.count
    (∀ pa, UnitDue s c → c.units = 0 → n = 1 → EngineWord s c (addrOf c.desc 0) pa →
      ∃ t, exec (.boArrival id) s = .next t ∧ MemoryKept s t ∧ UnitDone s t c (fun x => x) ∧
        t.collIn = collAdd s.collIn comm ⟨own, c.nth, 1, op, [wordOfBytes (fun j => bget s.mem (pa + j)) 4 0]⟩) ∧
    (c.ranks = none → s.clock.toNat < c.deadline.toNat → (∀ k, k < size → ∃ r, here k r) →
      ((∃ r ∈ collRanks s c, r.count ≠ n ∨ r.op ≠ op) →
        ∃ t, exec (.collMatch id comm) s = .next t ∧ Retired s t c (c.status ||| 16) ∧ BytesArrived s t c (4 * n) ∧
          t.mem = s.mem ∧ OtherGroups s t c.gid) ∧
      (∀ (pa : Nat) (w : Nat → Word), UnitDue s c → c.begun = true → c.units = 1 → c.bo = 0xFFFFFFFF → n = 1 → 0 < size →
        (∀ r ∈ collRanks s c, r.count = 1 ∧ r.op = op ∧ r.words = [w r.rank]) → EngineWord s c (addrOf c.desc 0) pa →
        ∃ t, exec (.collMatch id comm) s = .next t ∧ Retired s t c c.status ∧ OtherGroups s t c.gid ∧
          MemoryTakes s t pa 4 (fun j => BitVec.ofNat 8 ((combineTo op w (size - 1)).toNat / 256 ^ j)))) ∧
    (c.ranks = none → c.deadline.toNat ≤ s.clock.toNat → ∃ t, exec (.collTimeout id) s = .next t ∧ Retired s t c (c.status ||| 16) ∧
      BytesArrived s t c (4 * n) ∧ t.mem = s.mem ∧ OtherGroups s t c.gid)

/-- R262 to R264, R267, R268: KENC, KPARENT, KCHILD and KNBR write in each active lane the key that the rules give, or 0; KDEC
writes coordinates, level and DIM, or zeroes; KLEVEL the level, or 0xFFFF_FFFF. -/
def Obligations.KeyResult : Prop :=
  (∀ (i : Instr) (d : F7) (rel : Group → Nat → Nat → Prop), keyRel i = some (d, rel) → ∀ s : State, Issues i s →
    ∃ (t : State) (f : Nat → Nat), exec i s = .next t ∧ (∀ k, s.G.active.getLsbD k = true → f k < 2 ^ 64 ∧ rel s.G k (f k)) ∧
      Written i s t { rows := wordRows d f }) ∧
  (∀ (d a : F7) (s : State), Issues (.kdec d a) s → ∃ (t : State) (w : Nat → Nat → Word), exec (.kdec d a) s = .next t ∧
    Written (.kdec d a) s t { rows := (List.range 4).map (fun j => (d.toNat + j, w j)) } ∧
    ∀ i, s.G.active.getLsbD i = true → let n := keyIn s.G a i
      (¬WellFormedKey n → ∀ j, j < 4 → w j i = 0) ∧
      (WellFormedKey n → w 3 i = BitVec.ofNat 32 (kLvl n + 256 * kDim n) ∧ ∃ c, CellKey n (kDim n) (kLvl n) c ∧
        (kDim n = 1 → w 0 i = BitVec.ofNat 32 (c 0) ∧ w 1 i = BitVec.ofNat 32 (c 0 / 2 ^ 32) ∧ w 2 i = 0) ∧
        (kDim n ≠ 1 → ∀ j, j < 3 → w j i = if j < kDim n then BitVec.ofNat 32 (c j) else 0))) ∧
  (∀ (d a : F7) (s : State), Issues (.klevel d a) s → ∃ (t : State) (f : Nat → Word), exec (.klevel d a) s = .next t ∧
    Written (.klevel d a) s t { rows := [(d.toNat, f)] } ∧
    ∀ i, s.G.active.getLsbD i = true → (WellFormedKey (keyIn s.G a i) → f i = BitVec.ofNat 32 (kLvl (keyIn s.G a i))) ∧
      (¬WellFormedKey (keyIn s.G a i) → f i = 0xFFFFFFFF))

/-- R266, R269 to R273, R387: with the task's tables readable and its owners in this package, KLOCATE writes the run of R271
when no leaf migrates; a run that would name a migrating leaf is HANDLE with a handle of TMO 20, and the word waits under FA when a lane
needs a handle and the table has none; KOWNER writes the owner of the
reach and the quarter's version; KREFINE and KCOARSEN stage lane by lane in ascending order and answer in their predicate.
In a task without a keyspace they take the keyspace fault, cause 27. -/
def Obligations.LookupStagingResult : Prop :=
  (∀ (i : Instr) (s : State), ((∃ d a, i = .klocate d a ∨ i = .kowner d a ∨ i = .krefine d a ∨ i = .kcoarsen d a) ∨
      ∃ a b, i = .kcost a b) → Issues i s → NoKeyspace s → ∃ sh, i.shape = some sh ∧
      exec i s = .next (takePrecise s sh { Trap.of 27 with lanes := s.G.active })) ∧
  (∀ (d a : F7) (s : State) (t : Task) (kd : KDesc) (v : KView), Issues (.klocate d a) s → KeyTask s t kd →
    kview s t (s.G.core / 192) = some v → v.d = kd → AllLocal s v.cs → LeavesApart kd v.ls →
    ((∀ l ∈ v.ls, l.moving = false) → ∃ (u : State) (w : Nat → List Word), exec (.klocate d a) s = .next u ∧
      Written (.klocate d a) s u { rows := (List.range 4).map (fun j => (d.toNat + j, fun i => (w i).getD j 0)) } ∧
      ∀ i, s.G.active.getLsbD i = true → LocateRun kd v.cs v.ls (keyIn s.G a i) (w i)) ∧
    (∀ i l n, OnlyLane s.G i → NamedLeaf kd v.ls (keyIn s.G a i) l → l.moving = true → FreeHandle s (s.G.core / 192) n →
      s.dev.pkg < 2 ^ 20 → s.G.core / 192 < 4 →
      ∃ (u : State) (h : DWord), exec (.klocate d a) s = .next u ∧
        handleFields h s.dev.pkg (s.G.core / 192) n (s.handle (65536 * (s.G.core / 192) + n)).gen.toNat ∧
        Written (.klocate d a) s { u with handles := s.handles } { rows := [(d.toNat, fun _ => loWord h), (d.toNat + 1, fun _ => hiWord h),
          (d.toNat + 2, fun _ => 0), (d.toNat + 3, fun _ => 3)] } ∧
        NewEntry s (s.handle (65536 * (s.G.core / 192) + n)) (u.handle (65536 * (s.G.core / 192) + n)) s.G.task 20 ∧
        (u.handle (65536 * (s.G.core / 192) + n)).lookup = some (BitVec.ofNat 64 (keyIn s.G a i), s.G.core / 192)) ∧
    (∀ i l, s.G.active.getLsbD i = true → NamedLeaf kd v.ls (keyIn s.G a i) l → l.moving = true →
      NoFreeHandle s (s.G.core / 192) →
      ∃ u p, exec (.klocate d a) s = .next u ∧ GroupOnly s u ∧ Appended (.klocate d a) s u s.G p ∧ p.body = .klocate)) ∧
  (∀ (d a : F7) (s : State) (t : Task) (kd : KDesc) (cs : List Cut), Issues (.kowner d a) s → KeyTask s t kd →
    cutsOf s t kd (mgetD t.versions (s.G.core / 192) 1) = .ok cs → (∃ j, j < cs.length ∧ (cutEntry cs j).empty = false) →
    CutsRise cs → CutsHeld s (s.G.core / 192) s.G.task cs →
    ∃ (u : State) (f : Nat → Word), exec (.kowner d a) s = .next u ∧ CutsHeld u (s.G.core / 192) s.G.task cs ∧
      Written (.kowner d a) s { u with cuts := s.cuts } { rows := [(d.toNat, f), (d.toNat + 1, fun i => f (96 + i))] } ∧
      ∀ i, s.G.active.getLsbD i = true → let n := keyIn s.G a i
        (¬OfTask kd n → f i = 0xFFFFFFFF ∧ f (96 + i) = 0xFFFFFFFF) ∧
        (OfTask kd n → f (96 + i) = loWord (mgetD t.versions (s.G.core / 192) 1) ∧
          ∃ j, ReachOf cs n j ∧ f i = (cutEntry cs j).owner)) ∧
  (∀ (i : Instr) (refine : Bool) (d a : F7), stageOp i = some (refine, d, a) → ∀ (s : State) (t : Task) (kd : KDesc)
      (es : List KEnt) (tm : Team), Issues i s → KeyTask s t kd → OwnEntries s t kd es → s.team? s.G.team = some tm →
    (∀ e ∈ es, OfTask kd e.key.toNat) → ∃ (u : State) (f : Nat → Bool) (st : List (Bool × DWord)), exec i s = .next u ∧
      Staging kd es refine (fun k => BitVec.ofNat 64 (keyIn s.G a k)) (activeLanes s.G) tm.staged f st ∧
      Holds s.G u.G { preds := [(d.toNat, f)] } ∧ ClauseMoved i s u ∧ PendsKept s u ∧
      u.G = { s.G with p := u.G.p, clause := u.G.clause, pends := u.G.pends, hidden := u.G.hidden } ∧ HiddenKept s u ∧
      u.teams = mput s.teams s.G.team { tm with staged := st } ∧ { u with groups := s.groups, teams := s.teams } = s ∧
      ∀ k, k ≠ s.cur → mget u.groups k = mget s.groups k)

/-- R266, R274 to R277, R279, R394: KCOST adds to the cost of a LIVE leaf at its owner, saturating, or sends the addition to the owner's
package, and ignores what is no key of the task; KCOMMIT counts as a team barrier; KREBAL writes a handle and starts a rebalance, breaks it
with REFUSED under one of the three conditions of R276, or writes the null handle; ORDB and ORDE count as task barriers, with the faults 21, 28
and 29; ORDSTAT writes the phase word; KREBAL and ORDSTAT under a split take cause 4. That KCOMMIT, KREBAL, ORDB and ORDE act whatever
lanes are active is log entry 36 (DEDUCED); that ORDB and ORDE are judged by the phase at their issue is log entry 41 (DEDUCED); that a KCOST
ends once the other packages have taken its additions is log entry 21. -/
def Obligations.KeyspaceTaskResult : Prop :=
  (∀ (a b : F7) (s : State) (t : Task) (kd : KDesc), Issues (.kcost a b) s → KeyTask s t kd →
    s.G.xfer + laneCount s.G.active ≤ 65535 →
    ((∀ i, s.G.active.getLsbD i = true → ¬OfTask kd (keyIn s.G a i)) → ∃ u, exec (.kcost a b) s = .next u ∧
      Written (.kcost a b) s u {}) ∧
    (∀ i v cs j s1, OnlyLane s.G i → OfTask kd (keyIn s.G a i) → t.rebal = none → headVersion s t kd = .ok v →
      cutsOf s t kd v = .ok cs → CutsRise cs → ReachOf cs (keyIn s.G a i) j → (cutEntry cs j).local s = false →
      sendMsg s 6 (s.G.core / 192) (ownerPkg (cutEntry cs j).owner) (ownerQtr (cutEntry cs j).owner) .accepted 0
        (.cost s.G.task (BitVec.ofNat 64 (keyIn s.G a i)) ((s.G.row b.toNat).at i)) (some (s.cur, s.G.nextId, i)) = some s1 →
      s1.groups = s.groups → s1.cur = s.cur → ∃ u p, exec (.kcost a b) s = .next u ∧ { u with groups := s.groups } = s1 ∧
        Appended (.kcost a b) s u { s.G with xfer := s.G.xfer + 1 } p ∧ p.body = .kcost ∧ p.accs.map Acc.lane = [i] ∧
        ∀ k, k ≠ s.cur → mget u.groups k = mget s.groups k) ∧
    (∀ i v cs pre j post es n s', OnlyLane s.G i → OfTask kd (keyIn s.G a i) →
      t.rebal = none → headVersion s t kd = .ok v → cutsOf s t kd v = .ok cs → AllLocal s cs →
      (∃ j, j < cs.length ∧ (cutEntry cs j).empty = false) → List.range cs.length = pre ++ j :: post →
      (∀ x ∈ pre, ∃ fs, readIndex s t kd x = .ok fs ∧ ∀ e ∈ fs, e.key.toNat ≠ keyIn s.G a i) →
      readIndex s t kd j = .ok es → n < es.length → (es.getD n ⟨0, 0, 0, 0, 0⟩).key.toNat = keyIn s.G a i →
      (es.getD n ⟨0, 0, 0, 0, 0⟩).state < 2 → (es.map KEnt.key).Nodup →
      tput s t (indexAddr kd j + BitVec.ofNat 64 (64 + 32 * n + 16))
        (leBytes 4 (min ((es.getD n ⟨0, 0, 0, 0, 0⟩).cost.toNat + lw s.G b i) (2 ^ 32 - 1))) = .ok s' →
      s'.groups = s.groups → s'.cur = s.cur →
      ∃ u, exec (.kcost a b) s = .next u ∧ ClauseMoved (.kcost a b) s u ∧ u.G = { s.G with clause := u.G.clause } ∧
        { u with groups := s.groups } = s' ∧ ∀ k, k ≠ s.cur → mget u.groups k = mget s.groups k)) ∧
  (∀ (s : State), Issues .kcommit s →
    (s.G.split.mask ≠ s.G.live → ∃ sh, Instr.kcommit.shape = some sh ∧
      exec .kcommit s = .next (takePrecise s sh { Trap.of 21 with lanes := s.G.split.mask })) ∧
    (s.G.split.mask = s.G.live → NoKeyspace s → ∃ sh, Instr.kcommit.shape = some sh ∧
      exec .kcommit s = .next (takePrecise s sh { Trap.of 27 with lanes := s.G.active })) ∧
    (∀ t d, s.G.split.mask = s.G.live → KeyTask s t d → s.G.kind = .started → ∃ u p, exec .kcommit s = .next u ∧
      GroupSeqOnly s u ∧ Appended .kcommit s u { s.G with bars := s.G.bars + 1 } p ∧ p.body = .kcommit (s.G.bars + 1))) ∧
  (∀ (d a : F7) (s : State) (t : Task) (kd : KDesc), Issues (.krebal d a) s → KeyTask s t kd →
    let tmo := nv s.G a / 2 ^ 16 % 32
    let q := s.G.core / 192
    (s.G.split.mask ≠ s.G.live → ∃ sh, (Instr.krebal d a).shape = some sh ∧
      exec (.krebal d a) s = .next (takePrecise s sh { Trap.of 4 with lanes := s.G.split.mask })) ∧
    (s.G.split.mask = s.G.live → 20 < tmo → ∃ sh, (Instr.krebal d a).shape = some sh ∧
      exec (.krebal d a) s = .next (takePrecise s sh { Trap.of 28 with lanes := s.G.active })) ∧
    (tmo ≤ 20 → s.G.xfer < 65535 → UniWritable s.G [(d.toNat, 0), (d.toNat + 1, 0)] → NoFreeHandle s q → ∃ u, exec (.krebal d a) s = .next u ∧
      Written (.krebal d a) s u { unis := [(d.toNat, 0), (d.toNat + 1, 0)] }) ∧
    (∀ n v, tmo ≤ 20 → s.G.xfer < 65535 → s.dev.pkg < 2 ^ 20 → q < 4 → FreeHandle s q n → headVersion s t kd = .ok v →
      (∀ cs, cutsOf s t kd (mgetD t.versions q 1) = .ok cs → (cutEntry cs 0).local s = true) →
      (∀ h : DWord, handleFields h s.dev.pkg q n (s.handle (65536 * q + n)).gen.toNat →
        UniWritable s.G [(d.toNat, loWord h), (d.toNat + 1, hiWord h)]) →
      ∃ u h, exec (.krebal d a) s = .next u ∧ handleFields h s.dev.pkg q n (s.handle (65536 * q + n)).gen.toNat ∧
        Holds s.G u.G (pairOut d h) ∧ ClauseMoved (.krebal d a) s u ∧ u.G.issued = h :: s.G.issued ∧
        NewEntry s (s.handle (65536 * q + n)) (u.handle (65536 * q + n)) s.G.task tmo ∧
        (RebalanceBarred s t → Told s u h s.G.task [] 3 0 ∧ u.tasks = s.tasks) ∧
        (¬RebalanceBarred s t → u.results = s.results ∧ ∃ r, u.task? s.G.task = some { t with rebal := some r } ∧
          r.handle = h ∧ r.version = v + 1 ∧ r.moves = [] ∧ r.snap = false ∧ r.header = false ∧ r.switched = []))) ∧
  (∀ (i : Instr) (opens : Bool) (s : State) (t : Task), (i = .ordb ∧ opens = true) ∨ (i = .orde ∧ opens = false) → Issues i s →
    s.task? s.G.task = some t → ∃ sh, i.shape = some sh ∧
    (s.G.split.mask ≠ s.G.live → exec i s = .next (takePrecise s sh { Trap.of 21 with lanes := s.G.split.mask })) ∧
    (s.G.split.mask = s.G.live → s.G.kind = .service ∨ t.inPhase = opens →
      exec i s = .next (takePrecise s sh { Trap.of 29 with lanes := s.G.active })) ∧
    (s.G.split.mask = s.G.live → s.G.kind = .started → t.inPhase = !opens → ∃ u p, exec i s = .next u ∧
      GroupSeqOnly s u ∧
      Appended i s u (if opens then { s.G with ords := s.G.ords + 1 } else { s.G with ordes := s.G.ordes + 1 }) p ∧
      p.body = if opens then .ordb (s.G.ords + 1) else .orde (s.G.ordes + 1)) ∧
    (s.G.split.mask = s.G.live → s.G.kind = .spawned → t.inPhase = !opens → ∃ u p, exec i s = .next u ∧
      GroupSeqOnly s u ∧ Appended i s u s.G p ∧ p.body = if opens then .ordb (t.phaseNo + 1) else .orde (t.endNo + 1))) ∧
  (∀ (d : F7) (s : State), Issues (.ordstat d) s → s.G.split.mask ≠ s.G.live → ∃ sh, (Instr.ordstat d).shape = some sh ∧
    exec (.ordstat d) s = .next (takePrecise s sh { Trap.of 4 with lanes := s.G.split.mask })) ∧
  (∀ (d : F7) (s : State) (t : Task), Issues (.ordstat d) s → s.task? s.G.task = some t → 
    let w := BitVec.ofNat 32 (t.conflicts % 2 ^ 30 + (if t.spill then 2 ^ 30 else 0) + (if t.inPhase then 2 ^ 31 else 0))
    UniWritable s.G [(d.toNat, w)] → ∃ u, exec (.ordstat d) s = .next u ∧ Written (.ordstat d) s u { unis := [(d.toNat, w)] })

/-- R228, R229, R274, R277 to R279, R376, R390, R399, R404: the team's barrier completes once every started group has arrived, applying
the team's staged requests when a member committed, and a saved team's header holds the new count; a refined leaf gives way to its children at
cost 0, child 0 in its slot and the others in the lowest free ones, coarsened children to their parent with the saturated sum and the slot of child
0; the task's barrier opens or closes the phase once every started group has arrived, and the shared lines are rebuilt before it closes. Where
the task has owners in other packages, the barrier is first told to them and does not complete until all have said the same (DEDUCED, log
entry 50). The layout of the header is log entry 18. -/
def Obligations.BarriersComplete : Prop :=
  (∀ (s : State) (team : Nat) (tm : Team) (t : Task) (ps : Nat → Pend) (cm : Nat → Bool), s.team? team = some tm →
    s.task? tm.task = some t → (s.groups.map Prod.fst).Nodup → teamMembers s team ≠ [] →
    (∀ e ∈ teamMembers s team, AtBarrier s e.2 (tm.bars + 1) (cm e.1) (ps e.1)) →
    FirstsSettled s tm.task ∨ (∀ e ∈ teamMembers s team, cm e.1 = false) →
    ((tm.staged = [] ∨ ∀ e ∈ teamMembers s team, cm e.1 = false) → ∃ u, exec (.teamBarrierComplete team) s = .next u ∧
      u.team? team = some { tm with bars := tm.bars + 1 } ∧ (tm.saved = false → u.mem = s.mem) ∧
      (tm.saved = true → u.mem = (s.putArea tm.area 0 (leBytes 4 (tm.bars + 1) ++ leBytes 4 tm.staged.length)).mem) ∧
      (∀ e ∈ teamMembers s team, ArrivalDone s u e.1 (ps e.1)) ∧
      ∀ k, (∀ e ∈ teamMembers s team, e.1 ≠ k) → mget u.groups k = mget s.groups k) ∧
    (∀ d v cs j es s1 s2, (∃ e ∈ teamMembers s team, cm e.1 = true) → tm.staged ≠ [] → t.kdesc = some d →
      commitWaits t d tm.staged = false → headVersion s t d = .ok v → cutsOf s t d v = .ok cs → AllLocal s cs →
      teamOwner s { Group.vacant with kind := .started, core := tm.cores.headD 0 } cs = some j →
      readIndex s t d j = .ok es → let es' := (sortReqs tm.staged).foldl (applyReq d j tm.staged) es
      writeIndex s t d j es' = .ok s1 → followFirst s1 tm.task t d cs j es es' = .ok s2 → s2.teams = s.teams → s2.groups = s.groups →
      ∃ u, exec (.teamBarrierComplete team) s = .next u ∧ (tm.saved = false → u.mem = s2.mem) ∧
        u.team? team = some { tm with bars := tm.bars + 1, staged := [] } ∧
        ∀ e ∈ teamMembers s team, ∀ q ∈ (u.group e.1).pends, q.id ≠ (ps e.1).id)) ∧
  (∀ (d : KDesc) (j : Nat) (es : List KEnt) (k : DWord), OfTask d k.toNat → d.dim < 4 → (es.map KEnt.key).Nodup →
    (∀ e, e ∈ es → e.key = k → e.state = 0 → kLvl k.toNat < levelMax d.dim → (∀ x ∈ es, Below k.toNat x.key.toNat → x.key = k) →
      let es' := applyReq d j [(true, k)] es (true, k)
      (∀ x ∈ es', x.key ≠ k) ∧ (∀ x ∈ es, x.key ≠ k → x ∈ es') ∧ es'.length + 1 = es.length + 2 ^ d.dim ∧
      ∀ c, c < 2 ^ d.dim → ∃ x ∈ es', kLvl x.key.toNat = kLvl k.toNat + 1 ∧ Below k.toNat x.key.toNat ∧
        childAt x.key.toNat (kLvl k.toNat + 1) = c ∧ x.cost = 0 ∧ x.state = 0) ∧
    (∀ e, e ∈ es → e.key = k → e.state = 0 → kLvl k.toNat < levelMax d.dim → (∀ x ∈ es, Below k.toNat x.key.toNat → x.key = k) →
      SlotsLegal d j es → ∃ ns : Nat → Nat, SlotsTaken d j es ns ∧
        ∀ x ∈ applyReq d j [(true, k)] es (true, k), Below k.toNat x.key.toNat → let c := childAt x.key.toNat (kLvl k.toNat + 1)
          x.payload = if c = 0 then e.payload else payloadSlot d j (ns c)) ∧
    (∀ kids : Nat → KEnt, kLvl k.toNat < levelMax d.dim → (∀ x ∈ es, x.key ≠ k) →
      (∀ c, c < 2 ^ d.dim → kids c ∈ es ∧ (kids c).state = 0 ∧ OfTask d (kids c).key.toNat ∧
        kLvl (kids c).key.toNat = kLvl k.toNat + 1 ∧ Below k.toNat (kids c).key.toNat ∧
        childAt (kids c).key.toNat (kLvl k.toNat + 1) = c) →
      let es' := applyReq d j [(false, k)] es (false, k)
      es'.length + 2 ^ d.dim = es.length + 1 ∧ (∀ x ∈ es', ∀ c, c < 2 ^ d.dim → x.key ≠ (kids c).key) ∧
      ∃ x ∈ es', x.key = k ∧ x.state = 0 ∧ x.payload = (kids 0).payload ∧
        x.cost.toNat = min (((List.range (2 ^ d.dim)).map (fun c => (kids c).cost.toNat)).sum) (2 ^ 32 - 1))) ∧
  (∀ (s : State) (tid : Nat) (t : Task) (as : List (Nat × Pend)), s.task? tid = some t → ordArrivals s tid t = some as →
    (s.groups.map Prod.fst).Nodup → (∀ a ∈ as, refusedBefore (s.group a.1) a.2 (ordScope s t) = []) →
    (t.plan = [] ∧ ∀ e ∈ s.groups, e.2.task = tid → e.2.kind = .started → ∃ p, (e.1, p) ∈ as) ∧
    (OnePackage s t → t.notes = [] → t.inPhase = false → ∃ u, exec (.ordBarrierComplete tid) s = .next u ∧ u.mem = s.mem ∧
      u.task? tid = some (if t.begun then { t with inPhase := true, begun := false, phaseNo := t.phaseNo + 1 }
        else { t with inPhase := true, phaseNo := t.phaseNo + 1, spill := false, conflicts := 0, lines := [] }) ∧
      ∀ a ∈ as, ArrivalDone s u a.1 a.2) ∧
    (OnePackage s t → t.notes = [] → t.wrote = [] → t.inPhase = true → (∀ e ∈ t.lines, e.2.shared = false) →
      ∃ u, exec (.ordBarrierComplete tid) s = .next u ∧ u.mem = s.mem ∧
      u.task? tid = some { t with
        inPhase := false, begun := false, endNo := t.endNo + 1, lines := [], spilled := 0, conflicts := min (2 ^ 30 - 1) t.conflicts } ∧
      ∀ a ∈ as, ArrivalDone s u a.1 a.2) ∧
    (ordMembers s t ≠ [] → (t.said s.dev.pkg false = false → ∃ u, exec (.ordBarrierComplete tid) s = .next u ∧ u.groups = s.groups ∧
        u.mem = s.mem ∧ u.task? tid = some { t with notes := t.notes ++
          [⟨s.dev.pkg, t.phaseNo + t.endNo + 1, false, t.wrote, t.conflicts, t.spill⟩] }) ∧
      (t.said s.dev.pkg false = true → (∃ c ∈ ordMembers s t, t.said (ownerPkg c.owner) false = false) →
        exec (.ordBarrierComplete tid) s = .next s)) ∧
    (OnePackage s t → t.inPhase = true → (∃ e ∈ t.lines, e.2.shared = true) → (t.lines.map Prod.fst).Nodup →
      (∀ c ∈ s.clusters, c.2.cache = []) → ∃ u, exec (.weirRebuildComplete tid) s = .next u ∧ u.groups = s.groups ∧
      u.task? tid = some { t with lines := t.lines.filter (fun e => !e.2.shared), spilled := 0 } ∧
      (∀ e ∈ t.lines, e.2.shared = true → ∀ j, j < 128 → bget u.mem (128 * e.1 + j) = (rebuildLine e.2).getD j 0) ∧
      ∀ x, (∀ e ∈ t.lines, e.2.shared = true → x / 128 ≠ e.1) → bget u.mem x = bget s.mem x))

/-- R276, R392, R393: a snapshot of costs that sum to zero ends the rebalance with the current version; else leaf l goes to
owner floor(P(l) n / T), at most the last (the model's choice for leaves after the last cost); a copy begins with the entry
LEAVING and its new one ARRIVING, ends with the payload in the new slot, and the quarter of the new owner switches it to
FORWARDED and LIVE.
The corners of the assignment and of a copy that a commit overtakes are log entry 27. -/
def Obligations.RebalanceRuns : Prop :=
  (∀ (s : State) (tid : Nat) (t : Task) (d : KDesc) (r : Rebal), s.task? tid = some t → t.kdesc = some d → t.rebal = some r →
    (∀ cs ls s1, r.snap = false → cutsOf s t d (r.version - 1) = .ok cs → AllLocal s cs → AllLocal s1 cs →
      snapshotCosts s t d (List.range cs.length) = .ok (ls, s1) → (∀ e ∈ ls, e.1.leaf = true → e.1.cost = 0) →
      (∀ e ∈ r.leaves, e.2.2 = 0) → s1.results = s.results → s1.dev = s.dev → s1.tasks = s.tasks → handlePkg r.handle = s.dev.pkg →
      ∃ u, exec (.rebalanceSnapshotComplete tid) s = .next u ∧ u.mem = s1.mem ∧
        u.task? tid = some { t with rebal := none } ∧
        Told s u r.handle tid [loWord (r.version - 1), hiWord (r.version - 1), 0, 0, 0, 0, 0, 0] 0 0) ∧
    (∀ key m cs es fs s1 s2, r.moves.find? (fun x => x.key == key && x.stage == 0) = some m → serviceOn s tid key = false →
      cutsOf s t d r.version = .ok cs → (cutEntry cs m.src).local s = true →
      readIndex s t d m.src = .ok es → (∃ e ∈ es, e.key = key ∧ e.state = 0) →
      writeIndex s t d m.src (es.map (fun e => if e.key = key then { e with state := 1 } else e)) = .ok s1 →
      (cutEntry cs m.dst).local s1 = true → readIndex s1 t d m.dst = .ok fs →
      writeIndex s1 t d m.dst (insertEnt ⟨key, slotAddr d m.dst m.slot, 0, 3, 0⟩ fs) = .ok s2 → s2.tasks = s.tasks →
      ∃ u, exec (.migrationCopyStart tid key) s = .next u ∧ { u with tasks := s2.tasks } = s2 ∧
        u.task? tid = some { t with rebal := some { r with
          moves := r.moves.map (fun x => if x.key = m.key then { m with stage := 1 } else x) } }) ∧
    (∀ key m cs es e bs s1, r.moves.find? (fun x => x.key == key && x.stage == 1) = some m →
      cutsOf s t d r.version = .ok cs → (cutEntry cs m.src).local s = true →
      readIndex s t d m.src = .ok es → es.find? (fun x => x.key == key) = some e →
      (cutEntry cs m.dst).local s = true → tget s t e.payload d.psize = .ok bs →
      tput s t (slotAddr d m.dst m.slot) bs = .ok s1 → s1.tasks = s.tasks →
      let ms := r.moves.map (fun x => if x.key = m.key then { m with stage := 2 } else x)
      ((∃ x ∈ ms, x.stage < 2) →
        ∃ u, exec (.migrationCopyComplete tid key) s = .next u ∧ { u with tasks := s1.tasks } = s1 ∧
          u.task? tid = some { t with rebal := some { r with moves := ms } }) ∧
      (∀ s2, r.snap = true → r.header = false → (∀ x ∈ ms, 2 ≤ x.stage) → cutsOf s1 t d r.version = .ok cs → AllLocal s1 cs →
        r.leadPkg = s1.dev.pkg → tput s1 t d.cuts (leBytes 8 r.version.toNat) = .ok s2 →
        ∃ u, exec (.migrationCopyComplete tid key) s = .next u ∧ u.mem = s2.mem ∧
          u.task? tid = some { t with rebal := some { r with moves := ms, header := true } })) ∧
    (∀ q m cs es fs s1 s2, q < 4 → r.header = true → q ∉ r.switched → r.switched.length < 3 → r.moves = [m] → m.stage = 2 →
      cutsOf s t d r.version = .ok cs → (cutEntry cs m.src).local s = true → (cutEntry cs m.dst).local s = true → (cutEntry cs m.dst).local s1 = true →
      ownerQtr (cutEntry cs m.dst).owner = q →
      readIndex s t d m.src = .ok es →
      writeIndex s t d m.src (es.map (fun e => if e.key = m.key then
        { e with state := 2, fwd := (cutEntry cs m.dst).owner } else e)) = .ok s1 →
      readIndex s1 t d m.dst = .ok fs →
      writeIndex s1 t d m.dst (fs.map (fun e => if e.key = m.key then
        { e with state := 0, cost := BitVec.ofNat 32 (min (e.cost.toNat + m.held.toNat) (2 ^ 32 - 1)) } else e)) = .ok s2 →
      s2.handles = s.handles → s2.invs = s.invs → (∀ e ∈ s.handles, e.2.lookup = none) → (cutEntry cs m.dst).local s2 = true →
      ∃ u, exec (.quarterSwitch tid q) s = .next u ∧ u.mem = s2.mem ∧ (∀ e ∈ (u.cutTables q).cache, e.task ≠ tid) ∧
        (∀ e ∈ (u.cutTables q).loc, e.task = tid → e ∈ reachEnts tid cs ∧ ownerQtr e.owner = q) ∧
        u.task? tid = some { t with
          versions := mput t.versions q r.version,
          rebal := some ({ r with moves := [{ m with stage := 3 }], switched := q :: r.switched }) })) ∧
  (∀ (ls : List Costed) (n k : Nat), 0 < n → k < ls.length → 0 < costTotal ls →
    (newOwners n (costTotal ls) ls 0)[k]? =
      (ls[k]?).map (fun e => (e.1, e.2.1, min (costBefore ls k * n / costTotal ls) (n - 1))))

/-- R266, R282, R283, R287: RINV takes the faults 4, 27 and 28; with no free handle entry it writes the null handle; else it
writes a new handle at once and waits under FA to be sent with its eight words; one addressed to a handle that is BROKEN
breaks its own with one more hop. -/
def Obligations.InvocationIssued : Prop :=
  ∀ (i : Instr) (d a b : F7) (bad : Word → Word → Prop) (target : Word → Word → InvTarget),
    rinvOp i = some (d, a, b, bad, target) → ∀ s : State, Issues i s →
    let x := uniWordAt s.G b 0
    let y := uniWordAt s.G b 1
    let tmo := (uniWordAt s.G b 2).toNat / 2 ^ 16 % 32
    let q := s.G.core / 192
    let keyed := ∃ d a b, i = .rinvKey d a b
    ∃ sh, i.shape = some sh ∧
    (s.G.split.mask ≠ s.G.live → exec i s = .next (takePrecise s sh { Trap.of 4 with lanes := s.G.split.mask })) ∧
    (s.G.split.mask = s.G.live → keyed → NoKeyspace s →
      exec i s = .next (takePrecise s sh { Trap.of 27 with lanes := s.G.active })) ∧
    (s.G.split.mask = s.G.live → (keyed → ¬NoKeyspace s) → 20 < tmo ∨ bad x y →
      exec i s = .next (takePrecise s sh { Trap.of 28 with lanes := s.G.active })) ∧
    ((keyed → ¬NoKeyspace s) → tmo ≤ 20 → ¬bad x y → s.G.xfer < 65535 → NoFreeHandle s q →
      UniWritable s.G [(d.toNat, 0), (d.toNat + 1, 0)] →
      ∃ t, exec i s = .next t ∧ Written i s t { unis := [(d.toNat, 0), (d.toNat + 1, 0)] }) ∧
    (∀ n, (keyed → ¬NoKeyspace s) → tmo ≤ 20 → ¬bad x y → s.G.xfer < 65535 → FreeHandle s q n → s.dev.pkg < 2 ^ 20 → q < 4 →
      (∀ h : DWord, handleFields h s.dev.pkg q n (s.handle (65536 * q + n)).gen.toNat →
        UniWritable s.G [(d.toNat, loWord h), (d.toNat + 1, hiWord h)]) →
      ∃ t h, exec i s = .next t ∧ handleFields h s.dev.pkg q n (s.handle (65536 * q + n)).gen.toNat ∧
        Holds s.G t.G (pairOut d h) ∧ ClauseMoved i s t ∧ t.G.issued = h :: s.G.issued ∧
        NewEntry s (s.handle (65536 * q + n)) (t.handle (65536 * q + n)) s.G.task tmo ∧
        (∀ k, k ≠ 65536 * q + n → t.handle k = s.handle k) ∧ (∀ k, k ≠ s.cur → mget t.groups k = mget s.groups k) ∧
        ((∀ c u, target x y = .hdl u → ¬BrokenNow s u s.G.task c) → t.results = s.results ∧
          ∃ p inv, t.G.pends.map unmarked = s.G.pends.map unmarked ++ [unmarked p] ∧ p.body = .rinv inv ∧
            p.flag = s.G.fa ∧ inv.target = target x y ∧ inv.service = (uniWordAt s.G b 2).toNat % 256 ∧
            inv.args = (List.range 8).map (uniWordAt s.G a) ∧ inv.handle = h ∧ inv.task = s.G.task ∧
            t.G = { s.G.flagUp s.G.fa with
              s := t.G.s, splits := t.G.splits, issued := t.G.issued, pends := t.G.pends, nextId := s.G.nextId + 1,
              clause := t.G.clause, hidden := t.G.hidden } ∧ HiddenKept s t) ∧
        (∀ c u, target x y = .hdl u → BrokenNow s u s.G.task c → Told s t h s.G.task [] (nextHop c.toNat) 0 ∧
          PendsKept s t))

/-- R266, R281, R287 to R289: RAWAIT of a BROKEN handle writes its cause word, RAWAIT.TRAP of one takes the broken-handle fault,
cause 30, with the cause word logged; of another handle of this package they wait under FA, and complete with the result. RPOLL says whether the handle is resolved. A test that something issued before holds back (R265) waits under FA too, and is made
when that is performed. RDROP makes the handle stale, and frees the entry, with GEN advanced, once it is resolved, nothing is addressed to it
and what was sent on from it has started. -/
def Obligations.HandleUse : Prop :=
  (∀ (i : Instr) (d a : F7) (pb : Option F7), (∃ b, i = .rawait d a b ∧ pb = some b) ∨ (i = .rawaitTrap d a ∧ pb = none) →
    ∀ s : State, Issues i s → let h := handleIn s.G a
    ∃ sh, i.shape = some sh ∧
    (s.G.split.mask ≠ s.G.live → exec i s = .next (takePrecise s sh { Trap.of 4 with lanes := s.G.split.mask })) ∧
    (∀ c b, pb = some b → TestsAtOnce s i (.rawait h false) → BrokenNow s h s.G.task c → let w := fun k => if k = 0 then c else (0 : Word)
      UniWritable s.G (awaitOut d b w false).unis → ∃ t, exec i s = .next t ∧ Written i s t (awaitOut d b w false)) ∧
    (∀ c, pb = none → s.G.split.mask = s.G.live → TestsAtOnce s i (.rawait h true) → BrokenNow s h s.G.task c →
      exec i s = .next (takePrecise s sh { Trap.of 30 with lanes := s.G.active, words := [c] })) ∧
    (s.G.split.mask = s.G.live → (∃ e, Names s h s.G.task e ∧ e.state ≠ .broken) ∨ ¬TestsAtOnce s i (.rawait h (pb = none)) →
      ∃ t p, exec i s = .next t ∧ GroupOnly s t ∧ Appended i s t (if pb = none then { s.G with off := true } else s.G) p ∧
        p.body = .rawait h (pb = none))) ∧
  (∀ (s : State) (gid id : Nat) (p : Pend) (d b : F7) (h : DWord) (e : HandleEntry), Outstanding s gid id p →
    p.body = .rawait h false → p.dst = (List.range 8).map (fun k => .s (d.toNat + k)) ++ [.p b.toNat] → d.toNat + 8 ≤ 60 →
    MayGo s gid p → Names s h (s.group gid).task e →
    (e.state = .ready → ∃ t, exec (.memoryAccessComplete gid id) s = .next t ∧ OtherGroups s t gid ∧
      Completed (s.group gid) (t.group gid) p (awaitDone p d b (fun k => e.result.getD k 0) true) 0 ∧
      (t.core (s.group gid).core).l1 = []) ∧
    (e.state = .broken → ∃ t, exec (.memoryAccessComplete gid id) s = .next t ∧ OtherGroups s t gid ∧
      Completed (s.group gid) (t.group gid) p (awaitDone p d b (fun k => if k = 0 then e.cause else 0) false) 0)) ∧
  (∀ (d a : F7) (s : State), Issues (.rpoll d a) s → let h := handleIn s.G a
    (¬TestsAtOnce s (.rpoll d a) (.rpoll h) → ∃ t p, exec (.rpoll d a) s = .next t ∧ GroupOnly s t ∧ Appended (.rpoll d a) s t s.G p ∧
      p.body = .rpoll h ∧ p.dst = [.p d.toNat]) ∧
    (∀ c, TestsAtOnce s (.rpoll d a) (.rpoll h) → BrokenNow s h s.G.task c → ∃ t, exec (.rpoll d a) s = .next t ∧
      Written (.rpoll d a) s t { preds := [(d.toNat, fun _ => true)] }) ∧
    (∀ e, TestsAtOnce s (.rpoll d a) (.rpoll h) → Names s h s.G.task e → e.state ≠ .broken → ∃ t, exec (.rpoll d a) s = .next t ∧
      Written (.rpoll d a) s t { preds := [(d.toNat, fun _ => decide (e.state = .ready))] })) ∧
  (∀ (s : State) (gid id : Nat) (p : Pend) (d : F7) (h : DWord) (e : HandleEntry), Outstanding s gid id p → MayGo s gid p →
    p.body = .rpoll h → p.dst = [.p d.toNat] → Names s h (s.group gid).task e →
    ∃ t, exec (.memoryAccessComplete gid id) s = .next t ∧ OtherGroups s t gid ∧ Completed (s.group gid) (t.group gid) p
      [⟨.p d.toNat, mkRow (fun _ => if e.state = .ready ∨ e.state = .broken then 1 else 0), p.lanes⟩] 0) ∧
  (∀ (a : F7) (s : State), Issues (.rdrop a) s → let h := handleIn s.G a
    (h = 0 ∨ (h.toNat / 2 ^ 44 = s.dev.pkg ∧ ∀ e, ¬Names s h s.G.task e) → ∃ t, exec (.rdrop a) s = .next t ∧
      Written (.rdrop a) s t {}) ∧
    (∀ e, Names s h s.G.task e → ∃ t, exec (.rdrop a) s = .next t ∧ ClauseMoved (.rdrop a) s t ∧
      t.G = { s.G with clause := t.G.clause } ∧ (∀ k, k ≠ s.cur → mget t.groups k = mget s.groups k) ∧
      { t with groups := s.groups, handles := s.handles } = s ∧ (∀ k, k ≠ entryNo h → t.handle k = s.handle k) ∧
      (addressedTo s h = false → e.sentOn = 0 → e.state = .ready ∨ e.state = .broken → Freed e (t.handle (entryNo h))) ∧
      (addressedTo s h = true ∨ e.sentOn ≠ 0 ∨ e.state = .pending ∨ e.state = .forwarded → t.handle (entryNo h) = { e with dropped := true })))

/-- R283 to R285, R394, R403, R420, R421: an invocation of a package service starts a service group with the registers of
R284 where it has room; without a service it breaks NO_SERVICE; an outcome settles a PENDING handle READY, BROKEN or
FORWARDED, and no settled one; a PENDING handle breaks TIMEOUT at its deadline; a retiring service group's s24 to s31 become
its result, unless s14:s15 name another handle it has issued. The address space of a package service, that its table stands at a physical
address and that its text starts at its entry are log entry 24 (DESIGN CHOICE). -/
def Obligations.ServicesAndHandles : Prop :=
  (∀ (s : State) (id core q p : Nat) (r : InvRec), s.invs.find? (fun x => x.inv.id == id && (match x.place with
      | .running _ => false
      | _ => true)) = some r →
    r.place = .ready q → r.inv.target = .pkg p q → r.inv.via = [] → (∀ x ∈ s.invs, x.place = r.place → r.order ≤ x.order) →
    (∀ v, packageService s r.inv.service = some v → core ∈ coresFor s r → s.roomOn core 32 v.budget = true →
      groupArea 32 v.budget ≤ s.ctxFree v.region → ∃ t h, exec (.serviceStart id core) s = .next t ∧
      mget t.groups s.newGid = some h ∧ ServiceGroup r v core 0 0 h ∧ (t.core core).l1 = [] ∧
      (∀ k, k ≠ s.newGid → mget t.groups k = mget s.groups k) ∧
      t.invs = s.invs.map (fun x => if x.inv.id = id ∧ x.order = r.order then
        { x with inv := { r.inv with key := 0, payload := 0 }, place := .running s.newGid } else x)) ∧
    (packageService s r.inv.service = none → handlePkg r.inv.handle = s.dev.pkg → ∃ t, exec (.serviceStart id core) s = .next t ∧
      t.groups = s.groups ∧ t.invs = s.invs.filter (fun x => x.order != r.order) ∧
      Told s t r.inv.handle r.inv.task [] 7 0)) ∧
  (∀ (s : State) (msg : Nat) (m : ResultMsg), s.results.find? (fun x => x.id == msg) = some m →
    let rest := s.results.filter (fun x => x.id != msg)
    let e := s.handle (entryNo m.h)
    (¬Counts e m →
      ∃ t, exec (.handleResultArrive msg) s = .next t ∧ { t with results := s.results } = s ∧ t.results = rest) ∧
    (Counts e m → m.fwd = 0 →
      Alone s (entryNo m.h) → ∃ t, exec (.handleResultArrive msg) s = .next t ∧
        { t with handles := s.handles, results := s.results } = s ∧ t.results = rest ∧
        (∀ k, k ≠ entryNo m.h → t.handle k = s.handle k) ∧
        t.handle (entryNo m.h) = (if m.cause = 0 then { e with state := .ready, result := m.words, waiting := 0 }
          else { e with state := .broken, cause := m.cause, waiting := 0 })) ∧
    (Counts e m → m.fwd ≠ 0 → e.depth < 64 →
      Alone s (entryNo m.h) → handlePkg m.fwd ≠ s.dev.pkg → ∃ t, exec (.handleResultArrive msg) s = .next t ∧
        t.handle (entryNo m.h) = { e with state := .forwarded, fwdh := m.fwd, waiting := 0 })) ∧
  (∀ (s : State) (q n : Nat), n < 65536 → let k := 65536 * q + n
    (s.handle k).state = .pending → (s.handle k).deadline.toNat ≤ s.clock.toNat → Alone s k →
    let h := entryHandle s k (s.handle k)
    (∀ r ∈ s.invs, r.inv.handle = h → ∀ x ∈ r.inv.via, entryNo x ≠ k) →
    ∃ t, exec (.handleTimeout q n) s = .next t ∧ t.groups = s.groups ∧
      (∀ j, j ≠ k → (s.handle j).dropped = false →
        t.handle j = { s.handle j with waiting := (t.handle j).waiting, sentOn := (t.handle j).sentOn } ∧
        ((∀ r ∈ heldAt s j, r.inv.handle ≠ h) → (t.handle j).waiting = (s.handle j).waiting) ∧
        ((∀ r ∈ s.invs, r.inv.handle = h → ∀ x ∈ r.inv.via, entryNo x ≠ j) → (t.handle j).sentOn = (s.handle j).sentOn)) ∧
      t.handle k = { s.handle k with state := .broken, cause := 4, waiting := 0 } ∧
      ∀ r ∈ t.invs, r.inv.handle = h → ∃ gid, r.place = .running gid) ∧
  (∀ (s : State) (gid : Nat) (r : InvRec), (s.group gid).kind = .service → (s.group gid).live = 0 → (s.group gid).clause = none →
    (s.group gid).xfer = 0 → (s.group gid).pends = [] → cmdsQueued s gid = false → runningInv s gid = some r →
    handlePkg r.inv.handle = s.dev.pkg → let h := pair ((s.group gid).uni 14) ((s.group gid).uni 15)
    ∃ t, exec (.groupRetire gid) s = .next t ∧ mget t.groups gid = none ∧
      t.invs = s.invs.filter (fun x => x.place != .running gid) ∧
      (h ≠ 0 → h ∈ (s.group gid).issued → Told s t r.inv.handle r.inv.task [] 0 h.toNat) ∧
      (h = 0 ∨ h ∉ (s.group gid).issued →
        Told s t r.inv.handle r.inv.task ((List.range 8).map (fun k => (s.group gid).uni (24 + k))) 0 0))

/-- R290, R291, R293 to R296: SYSRD and SYSWR with an active lane: an unlisted number is the system-register fault, cause 32;
then a level too low the privileged-instruction fault, cause 31; then a read-only register or a malformed value cause 32;
else the register is read, or written at once, a BANKROLE write when its bank takes the role.
That a word with no active lane does nothing is log entry 36, that a walker and a service of the package have a THAND of their own
log entry 47. -/
def Obligations.SystemRegisters : Prop :=
  (∀ (d a : F7) (s : State), Issues (.sysrd d a) s → let n := nv s.G a
    ∃ sh, (Instr.sysrd d a).shape = some sh ∧
    (s.G.active = 0 → ∃ t, exec (.sysrd d a) s = .next t ∧ Written (.sysrd d a) s t {}) ∧
    (s.G.active ≠ 0 → sysValue s n = none →
      exec (.sysrd d a) s = .next (takePrecise s sh { Trap.of 32 with lanes := s.G.active })) ∧
    (∀ l w, s.G.active ≠ 0 → sysValue s n = some (l, w) →
      (s.G.level < l → exec (.sysrd d a) s = .next (takePrecise s sh { Trap.of 31 with lanes := s.G.active })) ∧
      (l ≤ s.G.level → UniWritable s.G [(d.toNat, w)] →
        ∃ t, exec (.sysrd d a) s = .next t ∧ Written (.sysrd d a) s t { unis := [(d.toNat, w)] }))) ∧
  (∀ (a b : F7) (s : State), Issues (.syswr a b) s → let n := nv s.G a
    let w := s.G.uni b.toNat
    ∃ sh, (Instr.syswr a b).shape = some sh ∧
    (s.G.active = 0 → ∃ t, exec (.syswr a b) s = .next t ∧ Written (.syswr a b) s t {}) ∧
    (s.G.active ≠ 0 → sysValue s n = none →
      exec (.syswr a b) s = .next (takePrecise s sh { Trap.of 32 with lanes := s.G.active })) ∧
    (∀ l x, s.G.active ≠ 0 → sysValue s n = some (l, x) → let need := (sysWriteLevel n).getD l
      (s.G.level < need → exec (.syswr a b) s = .next (takePrecise s sh { Trap.of 31 with lanes := s.G.active })) ∧
      (need ≤ s.G.level → sysWriteLevel n = none ∨ SysMalformed n w →
        exec (.syswr a b) s = .next (takePrecise s sh { Trap.of 32 with lanes := s.G.active })) ∧
      (need ≤ s.G.level → sysWriteLevel n ≠ none → ¬SysMalformed n w → 
        (¬(0x10000 ≤ n ∧ n < 0x10040) → ∃ t, exec (.syswr a b) s = .next t ∧ ClauseMoved (.syswr a b) s t ∧
          { t with groups := s.groups } = { sysStored s n w with groups := s.groups } ∧
          t.G = { (sysStored s n w).G with clause := t.G.clause } ∧ ∀ k, k ≠ s.cur → mget t.groups k = mget s.groups k) ∧
        (0x10000 ≤ n → n < 0x10040 → ∃ t p, exec (.syswr a b) s = .next t ∧ GroupSeqOnly s t ∧ Appended (.syswr a b) s t s.G p ∧
          p.body = .bankrole (n - 0x10000) (w.toNat % 4)))))

/-- R290, R291, R293, R297 to R299, R304: TLBFILL and TLBINV need level 2 and LOGRD level 1 (cause 31), malformed operands are
cause 32; TLBFILL of an uncorrectable leaf takes the memory-error fault, cause 22 (R317), and else installs a valid leaf in place of any other of its page and lets the waiting accesses go; TLBINV removes
translations and the L1 lines under them; LOGRD reads a log entry; CLOCK reads the counter; TIMEWAIT waits for it.
That such a word with no active lane does nothing is log entry 36, what a TLBFILL outside the walker lets go log entry
40. -/
def Obligations.TranslationLogTime : Prop :=
  (∀ (a b : F7) (s : State), Issues (.tlbfill a b) s → let x := pv s.G a
    let pa := pv s.G b
    let asid := x % 65536
    let page := x / 2 ^ 21
    let c := s.G.core / 8
    let e : TlbEntry := ⟨asid, page, leafBits s pa⟩
    ∃ sh, (Instr.tlbfill a b).shape = some sh ∧
    (s.G.level < 2 → exec (.tlbfill a b) s = .next (takePrecise s sh { Trap.of 31 with lanes := s.G.active })) ∧
    (2 ≤ s.G.level → s.G.active ≠ 0 → 2 ^ 57 ≤ x ∨ x / 2 ^ 16 % 32 ≠ 0 ∨ pa % 16 ≠ 0 →
      exec (.tlbfill a b) s = .next (takePrecise s sh { Trap.of 32 with lanes := s.G.active })) ∧
    (2 ≤ s.G.level → s.G.active ≠ 0 → x < 2 ^ 57 → x / 2 ^ 16 % 32 = 0 → pa % 16 = 0 → pa < 768 * 2 ^ 30 → pa / 128 ∉ s.bad →
      (s.cluster c).walk = none → s.G.kind ≠ .walker →
      ((leafOf e.leaf).valid s.dev.pkg = true → ∃ t, exec (.tlbfill a b) s = .next t ∧ ClauseMoved (.tlbfill a b) s t ∧
        t.G = { s.G with clause := t.G.clause } ∧ (∀ k, k ≠ s.cur → mget t.groups k = mget s.groups k) ∧
        e ∈ (t.cluster c).tlb ∧ (∀ y ∈ (t.cluster c).tlb, y ≠ e → y ∈ (s.cluster c).tlb ∧ ¬(y.asid = asid ∧ y.page = page)) ∧
        ¬waits t c asid page ∧ (∀ k, k ≠ c → mget t.clusters k = mget s.clusters k) ∧ t.mem = s.mem) ∧
      ((leafOf e.leaf).valid s.dev.pkg = false → ∃ t, exec (.tlbfill a b) s = .next t ∧
        (t.cluster c).tlb = (s.cluster c).tlb ∧ ¬waits t c asid page ∧ ∀ gid, PageFails s t c asid page gid)) ∧
    (2 ≤ s.G.level → s.G.active ≠ 0 → x < 2 ^ 57 → x / 2 ^ 16 % 32 = 0 → pa % 16 = 0 → pa < 768 * 2 ^ 30 → pa / 128 ∈ s.bad →
      exec (.tlbfill a b) s = .next (takePrecise s sh { Trap.of 22 with
        lanes := s.G.active, addr := BitVec.ofNat 64 pa })) ∧
    (∀ m till, 2 ≤ s.G.level → s.G.active ≠ 0 → x < 2 ^ 57 → x / 2 ^ 16 % 32 = 0 → pa % 16 = 0 → pa < 768 * 2 ^ 30 →
      pa / 128 ∉ s.bad → s.G.kind = .walker → (s.cluster c).walk = some (m, till) →
      (s.cluster c).walker = some s.cur → m.asid = asid → m.page = page → (leafOf e.leaf).valid s.dev.pkg = true →
      ∃ t, exec (.tlbfill a b) s = .next t ∧ e ∈ (t.cluster c).tlb ∧ (t.cluster c).walk = none ∧ mget t.groups s.cur = none)) ∧
  (∀ (a : F7) (s : State), Issues (.tlbinv a) s → let x := pv s.G a
    let scope := x / 2 ^ 16 % 4
    let c := s.G.core / 8
    ∃ sh, (Instr.tlbinv a).shape = some sh ∧
    (s.G.level < 2 → exec (.tlbinv a) s = .next (takePrecise s sh { Trap.of 31 with lanes := s.G.active })) ∧
    (2 ≤ s.G.level → s.G.active ≠ 0 → 2 ^ 57 ≤ x ∨ x / 2 ^ 18 % 8 ≠ 0 ∨ scope = 3 →
      exec (.tlbinv a) s = .next (takePrecise s sh { Trap.of 32 with lanes := s.G.active })) ∧
    (2 ≤ s.G.level → s.G.active ≠ 0 → x < 2 ^ 57 → x / 2 ^ 18 % 8 = 0 → scope ≠ 3 → 
      ∃ t p, exec (.tlbinv a) s = .next t ∧ Appended (.tlbinv a) s t s.G p ∧
        (∀ k, k ≠ s.cur → mget t.groups k = mget s.groups k) ∧
        (∀ y, y ∈ (t.cluster c).tlb ↔ y ∈ (s.cluster c).tlb ∧ ¬InvTakes scope (x % 65536) (x / 2 ^ 21) y.asid y.page) ∧
        (∀ k, k ≠ c → mget t.clusters k = mget s.clusters k) ∧
        (∀ k y, k / 8 = c → (y ∈ (t.core k).l1 ↔ y ∈ (s.core k).l1 ∧
          ¬InvTakes scope (x % 65536) (x / 2 ^ 21) y.asid (y.vline / 16384))) ∧
        { t with groups := s.groups, clusters := s.clusters, cores := s.cores, seq := s.seq } = s)) ∧
  (∀ (d a : F7) (s : State), Issues (.logrd d a) s → let w := nv s.G a
    let ok := w < 2 ^ 10 ∧ w / 8 % 2 = 0
    ∃ sh, (Instr.logrd d a).shape = some sh ∧
    (s.G.level < 1 → exec (.logrd d a) s = .next (takePrecise s sh { Trap.of 31 with lanes := s.G.active })) ∧
    (1 ≤ s.G.level → ¬ok ∨ mget s.G.log (w % 8) = none →
      exec (.logrd d a) s = .next (takePrecise s sh { Trap.of 32 with lanes := s.G.active })) ∧
    (∀ e, 1 ≤ s.G.level → ok → mget s.G.log (w % 8) = some e → 
      ∃ t, exec (.logrd d a) s = .next t ∧ Written (.logrd d a) s t { rows := [(d.toNat, logPick e (w / 16 % 64))] })) ∧
  (∀ (d : F7) (s : State), Issues (.clock d) s →
    (s.G.active = 0 → ∃ t, exec (.clock d) s = .next t ∧ Written (.clock d) s t {}) ∧
    (s.G.active ≠ 0 → UniWritable s.G (pairOut d s.clock).unis →
      ∃ t, exec (.clock d) s = .next t ∧ Written (.clock d) s t (pairOut d s.clock))) ∧
  (∀ (a : F7) (s : State), Issues (.timewait a) s →
    (s.G.active = 0 → ∃ t, exec (.timewait a) s = .next t ∧ Written (.timewait a) s t {}) ∧
    (s.G.active ≠ 0 → ∃ t p, exec (.timewait a) s = .next t ∧ GroupOnly s t ∧ ClauseMoved (.timewait a) s t ∧
      p.body = .timewait (BitVec.ofNat 64 (pv s.G a)) ∧ p.flag = none ∧ p.id = s.G.nextId ∧ p.done = false ∧
      t.G = { s.G with pends := s.G.pends ++ [p], nextId := s.G.nextId + 1, clause := t.G.clause }))

/-- R291, R302, R305: ERET outside a handler is the privileged-instruction fault, cause 31; in a handler with nothing
outstanding it restores what entry saved and the level, and resumes as TRET says; a TRET that is not allowed, or a TEPC
outside the text, is a double fault. That TRET 3 also frees the entries of words that were being issued again, and that a
clause of another split which the fault interrupted goes on, is log entry 47. -/
def Obligations.TrapReturn : Prop :=
  ∀ s : State, Issues .eret s →
    (s.G.frame = none → ∃ sh, Instr.eret.shape = some sh ∧
      exec .eret s = .next (takePrecise s sh { Trap.of 31 with lanes := s.G.active })) ∧
    (∀ f, s.G.frame = some f → handlerBusy s s.G f = false →
      (∀ k e, s.G.tret = 0 → f.entry = some k → mget s.G.log k = some e →
        ∃ t, exec .eret s = .next t ∧ GroupOnly s t ∧ Restored s.G t.G f ∧ FaultedBack s.G t.G f none ∧
          t.G.t = e.temps ∧ t.G.ovr = some k ∧ t.G.log = s.G.log ∧ Resumes s.G t.G f e.tw) ∧
      (s.G.tret = 1 → f.atWord = true →
        ∃ t, exec .eret s = .next t ∧ GroupOnly s t ∧ Restored s.G t.G f ∧ FaultedBack s.G t.G f none ∧
          t.G.t = f.temps ∧ Resumes s.G t.G f f.tw ∧ (f.entry = none → t.G.ovr = s.G.ovr ∧ t.G.log = s.G.log) ∧
          (∀ k e, f.entry = some k → mget s.G.log k = some e → t.G.ovr = some k ∧
            ∃ e', mget t.G.log k = some e' ∧ e'.regs = [] ∧ e'.affs = [] ∧ e'.word = e.word)) ∧
      (s.G.tret = 2 → f.atWord = true →
        ∃ t, exec .eret s = .next t ∧ GroupOnly s t ∧ Restored s.G t.G f ∧ FaultedBack s.G t.G f none ∧
          t.G.t = f.temps ∧ GoesOn t.G f ∧ LogWithout s.G t.G [f.entry]) ∧
      (s.G.tret = 3 → inText s s.G s.G.tepc = true →
        ∃ t, exec .eret s = .next t ∧ GroupOnly s t ∧ Restored s.G t.G f ∧ FaultedBack s.G t.G f (some s.G.tepc) ∧
          t.G.t = f.temps ∧ Afresh s.G t.G f) ∧
      ((s.G.tret = 0 ∧ ∀ k e, f.entry = some k → mget s.G.log k ≠ some e) ∨ (s.G.tret = 1 ∧ f.atWord = false) ∨ (s.G.tret = 2 ∧ f.atWord = false) ∨
        (s.G.tret = 3 ∧ inText s s.G s.G.tepc = false) ∨ 3 < s.G.tret.toNat →
        exec .eret s = .next (s.setG s.G.doubleFault)))

/-- R295, R321, R322, R324: the walker serves the oldest miss in a group of its own, with the registers of R322 (its budget is
log entry 25); a walk past its time, or with no routine installed, fails the waiting accesses; an access whose pages have
been filled is issued again from the log, one whose walk failed takes the translation fault; a bank takes its new role when
everything issued to it before has been performed. -/
def Obligations.WalkerAndBanks : Prop :=
  (∀ (s : State) (c : Nat) (m : Miss) (rest : List Miss), (s.cluster c).walk = none → (s.cluster c).misses = m :: rest →
    (mgetD s.dev.walkers c 0 ≠ 0 → ∃ t h, exec (.walkerStart c) s = .next t ∧ (t.cluster c).misses = rest ∧
      (t.cluster c).walk = some (m, addNs s.clock 64000) ∧ (t.cluster c).walker = some s.newGid ∧
      mget t.groups s.newGid = some h ∧ h.kind = .walker ∧ h.level = 2 ∧ h.core = 8 * c ∧ h.width = 32 ∧
      h.split.pc = mgetD s.dev.walkers c 0 ∧ h.split.mask = widthMask 32 ∧
      pair (h.uni 0) (h.uni 1) = BitVec.ofNat 64 (m.page * 2 ^ 21) ∧ h.uni 2 = BitVec.ofNat 32 m.asid ∧
      h.uni 3 = BitVec.ofNat 32 m.kind ∧ h.uni 6 = BitVec.ofNat 32 m.core ∧
      pair (h.uni 4) (h.uni 5) = (match spaceRoot s m.asid with | some (r, _) => BitVec.ofNat 64 r | none => 0) ∧
      ∀ k, k ≠ s.newGid → mget t.groups k = mget s.groups k) ∧
    (mgetD s.dev.walkers c 0 = 0 → ∃ t, exec (.walkerStart c) s = .next t ∧ (t.cluster c).misses = rest ∧
      ∀ gid, PageFails s t c m.asid m.page gid)) ∧
  (∀ (s : State) (c : Nat) (m : Miss) (till : DWord), (s.cluster c).walk = some (m, till) → till.toNat ≤ s.clock.toNat →
    ∃ t, exec (.walkerTimeout c) s = .next t ∧ (t.cluster c).walk = none ∧ (t.cluster c).walker = none ∧
      (∀ gid, (s.cluster c).walker = some gid → mget t.groups gid = none) ∧
      ∀ gid, (s.cluster c).walker ≠ some gid → PageFails s t c m.asid m.page gid) ∧
  (∀ (s : State) (gid id : Nat) (p : Pend), Outstanding s gid id p → p.missed = true →
    (∀ a ∈ p.accs, stillMissed s ((s.group gid).core / 8) (s.group gid).asid (pageOf a.va) = false) →
    (p.failed = [] → s.bad = [] →
      (∀ a ∈ p.accs, ∃ pa rem home, translate s (s.group gid).who p.kind a.va = .hit pa rem home) →
      ∃ t q, exec (.logReissue gid id) s = .next t ∧ OtherGroups s t gid ∧ (t.group gid).findPend id = some q ∧
        q.missed = false ∧ q.accs.length = p.accs.length ∧
        ∀ (n : Nat) (a : Acc), p.accs[n]? = some a → ∃ b : Acc, q.accs[n]? = some b ∧ b.va = a.va ∧ b.lane = a.lane ∧
          translate s (s.group gid).who p.kind a.va = .hit b.pa b.rem b.home) ∧
    (p.accs ≠ [] → (∀ a ∈ p.accs, pageOf a.va ∈ p.failed ∧ a.lane < 96) → (s.group gid).frame = none →
      s.thand (s.group gid) ≠ 0 → (s.group gid).kind ≠ .walker →
      ∃ t f, exec (.logReissue gid id) s = .next t ∧ OtherGroups s t gid ∧ (t.group gid).frame = some f ∧
        (t.group gid).tcause.toNat = 65536 + 23 ∧ (∀ q ∈ (t.group gid).pends, q.id ≠ id))) ∧
  (∀ (s : State) (c bank gid role : Nat) (p : Pend), firstMark (roleWrites s c bank) = some (gid, p, role) →
    bankQuiet s c bank p.mark = true → (s.groups.map Prod.fst).Nodup → role < 3 →
    let old := mgetD (s.cluster c).banks bank Bank.empty
    ∃ t, exec (.bankroleSwitch c bank) s = .next t ∧ OtherGroups s t gid ∧ Completed (s.group gid) (t.group gid) p [] 0 ∧
      (mgetD (t.cluster c).banks bank Bank.empty).role = role ∧ (mgetD (t.cluster c).banks bank Bank.empty).owner = old.owner ∧
      (old.role ≠ role → role = 1 → ∀ x, x / 65536 = bank → bget (t.pool c) x = 0) ∧
      (old.role ≠ role → role = 2 → (mgetD (t.cluster c).banks bank Bank.empty).fifo = []) ∧
      ∀ k, k ≠ bank → mgetD (t.cluster c).banks k Bank.empty = mgetD (s.cluster c).banks k Bank.empty)

/-! ### The dealer (18) -/

/-- R423, R424, R428, R429: a host master's write to a mailbox, a counter or a function's configuration space that its access rules deny is
dropped, and event 5 goes to its log; while the link is down none arrives, nor one that no window of the master reaches. A read that they deny
posts event 5 too. -/
def Sys2Proof.Claims.WritesDenied : Prop :=
  (∀ (s : State) (rest : List Turn) (m f off : Nat), s.sched = .configWrite m f off :: rest → s.dev.linkUp = true → m ≤ 64 →
    ¬Granted s.dev m 3 f false true → ∃ t, step s = settled s (.next t) ∧ LogsOnly { s with sched := rest } t ∧
      Posted s t m ⟨s.clock, 5, m, 1, BitVec.ofNat 64 off⟩) ∧
  (∀ (s : State) (rest : List Turn) (m : Nat) (w : HostWindow) (off n cls unit a : Nat), s.sched = .hostRead m w off n :: rest →
    s.dev.linkUp = true → m ≤ 64 → hostReads off w = some (cls, unit, a) → ¬(InWindow m cls unit ∧ Granted s.dev m cls unit true false) →
    ∃ t, step s = settled s (.next t) ∧ LogsOnly { s with sched := rest } t ∧ Posted s t m ⟨s.clock, 5, m, 0, BitVec.ofNat 64 a⟩) ∧
  ∀ (i : Instr) (m cls unit a : Nat), hostStore i = some (m, cls, unit, a) → ∀ s : State,
    (¬InWindow m cls unit → exec i s = .next s) ∧
    (s.dev.linkUp = true → InWindow m cls unit → ¬Granted s.dev m cls unit false true → ∃ t, exec i s = .next t ∧ LogsOnly s t ∧
      Posted s t m ⟨s.clock, 5, m, 1, BitVec.ofNat 64 a⟩) ∧
    (s.dev.linkUp = false → exec i s = .next s)

/-- R359: a slot write changes those bytes of the mailbox alone; a KILL write by the mailbox's own function with GO
set kills every group of the started task of that slot, and nothing more of that task is placed. -/
def Sys2Proof.Claims.MailboxWritten : Prop :=
  (∀ (m b off : Nat) (data : List Byte) (s : State), HostAllowed (.mailboxSlotWrite m b off data) s m → ∃ t,
    exec (.mailboxSlotWrite m b off data) s = .next t ∧ { t with mailboxes := s.mailboxes } = s ∧
    { t.mailbox b with slots := (s.mailbox b).slots } = s.mailbox b ∧ (∀ k, k ≠ b → t.mailbox k = s.mailbox k) ∧
    ∀ a, bget (t.mailbox b).slots a =
      if off ≤ a ∧ a < off + data.length ∧ a < 0x2000 then data.getD (a - off) 0 else bget (s.mailbox b).slots a) ∧
  (∀ (m b : Nat) (v : Word) (s : State), HostAllowed (.mailboxKill m b v) s m →
    (v.toNat < 2 ^ 31 ∨
      (∀ e ∈ s.tasks, ¬(e.2.mailbox = b ∧ e.2.slot = v.toNat % 32 ∧ e.2.stage = .started)) →
      exec (.mailboxKill m b v) s = .next s) ∧
    (∀ tid t0, 2 ^ 31 ≤ v.toNat → KeysOnce s.tasks → s.task? tid = some t0 →
      (∀ k x, s.task? k = some x → (x.mailbox = b ∧ x.slot = v.toNat % 32 ∧ x.stage = .started ↔ k = tid)) →
      (∃ gid g, mget s.groups gid = some g ∧ g.task = tid ∧ (g.kind = .started ∨ g.kind = .spawned)) →
      ∃ t, exec (.mailboxKill m b v) s = .next t ∧ { t with tasks := s.tasks, groups := s.groups } = s ∧
        t.task? tid = some { t0 with killed := true, anyKill := true, plan := [] } ∧
        (∀ k, k ≠ tid → t.task? k = s.task? k) ∧
        ∀ gid g, mget s.groups gid = some g → mget t.groups gid = some
          (if g.task = tid ∧ (g.kind = .started ∨ g.kind = .spawned ∨ g.kind = .service) then g.request (.kill false) else g)))

/-- R360, R362, R363, R388: the dealer takes the record of slot CONSUMED mod 32 when its SEQ is CONSUMED + 1 and not zero; it refuses
one that fails a check, with the lowest offset in DETAIL, and else holds a task for it, and its reaches in the local cut
tables of their quarters. -/
def Sys2Proof.Claims.RecordTaken : Prop :=
  ∀ (m : Nat) (s : State), let b := s.mailbox m
    let slot := b.consumed.toNat % 32
    let bs := slotBytes b slot
    let s1 := s.setMailbox m { b with consumed := b.consumed + 1 }
    (¬Listening s m ∨ fieldAt bs 0xFC 4 ≠ (b.consumed + 1).toNat ∨ b.consumed + 1 = 0 →
      exec (.mailboxAccept m) s = .next s) ∧
    (Listening s m → fieldAt bs 0xFC 4 = (b.consumed + 1).toNat → b.consumed + 1 ≠ 0 →
      (∀ d, RecordFails s1 m bs d → (∀ e, e < d → ¬RecordFails s1 m bs e) → ∃ t, exec (.mailboxAccept m) s = .next t ∧
        StatusWritten s1 t m slot (2 + 16 * 15 + 256 * d) ∧ { t with mailboxes := s.mailboxes } = s) ∧
      ((∀ d, ¬RecordFails s1 m bs d) → ∃ t x, exec (.mailboxAccept m) s = .next t ∧ t.mailboxes = s1.mailboxes ∧
        { t with mailboxes := s.mailboxes, tasks := s.tasks, cuts := s.cuts, seq := s.seq } = s ∧ t.task? s.seq = some x ∧
        (bitsAt bs 0 14 1 = 0 → t.cuts = s.cuts ∧ x.kdesc = none) ∧
        (∀ d cs v, bitsAt bs 0 14 1 = 1 → checkKeyspace s1 m (parseRecord bs) = some (d, cs, v) → x.kdesc = some d ∧
          ∀ q, q < 4 → mgetD x.versions q 1 = v ∧ (∀ e ∈ (t.cutTables q).cache, e.task ≠ s.seq) ∧
            ∀ e, (e ∈ (t.cutTables q).loc ∧ e.task = s.seq) ↔
              (e ∈ reachEnts s.seq cs ∧ ownerPkg e.owner = s.dev.pkg ∧ ownerQtr e.owner = q)) ∧
        x.record = parseRecord bs ∧ x.mailbox = m ∧ x.slot = slot ∧ x.succOf = none ∧ x.killed = false ∧ x.placed = 0 ∧
        (x.stage = .ready ↔ WaitsMet s x.record) ∧ (x.stage = .waiting ↔ ¬WaitsMet s x.record) ∧
        (bitsAt bs 0 12 1 = 0 → x.plan = List.replicate (fieldAt bs 4 4) none) ∧
        TasksMoved s t (fun k => k = s.seq)))

/-- R359, R360, R362, R363, R423, R429: mailboxes as the host writes them and the dealer reads them.
The record checks at a WIDTH of 11 and GROUPS above 16 are log entry 12; that the link must be up, and what a reset of
the function does to the slots, log entry 29. -/
def Obligations.MailboxResult : Prop := WritesDenied ∧ MailboxWritten ∧ RecordTaken

/-- R364 to R367: SET, ADD and RESET of a timeline counter; waiting records become ready once their waits are met; a RESET drops
the accepted records that wait on the counter and have not started, with STATUS 0xF3 in their slot.
That a host write reaches the counters with master 0 too is log entry 9, that the local cut tables lose the entries of the dropped tasks
then log entry 17. -/
def Obligations.CounterResult : Prop :=
  (∀ (m c : Nat) (v : DWord) (s : State), HostAllowed (.counterSet m c v) s m → let k := s.counter c
    (v.toNat < k.value.toNat → ∃ t, exec (.counterSet m c v) s = .next t ∧ (t.counter c).value = k.value ∧
      CounterFails s t c 1 m ∧ CounterOnly s t c ∧ t.tasks = s.tasks) ∧
    (k.value.toNat ≤ v.toNat → ∃ t, exec (.counterSet m c v) s = .next t ∧ t.counter c = { k with value := v } ∧
      CounterOnly s t c ∧ t.dev = s.dev ∧ TasksMoved s t (fun _ => False))) ∧
  (∀ (m c : Nat) (v : DWord) (s : State), HostAllowed (.counterAdd m c v) s m → let k := s.counter c
    (2 ^ 64 ≤ k.value.toNat + v.toNat → ∃ t, exec (.counterAdd m c v) s = .next t ∧
      (t.counter c).value.toNat = 2 ^ 64 - 1 ∧ CounterFails s t c 2 m ∧ CounterOnly s t c ∧ TasksMoved s t (fun _ => False)) ∧
    (k.value.toNat + v.toNat < 2 ^ 64 → ∃ t, exec (.counterAdd m c v) s = .next t ∧
      (t.counter c).value.toNat = k.value.toNat + v.toNat ∧ (t.counter c).errs = k.errs ∧ (t.counter c).last = k.last ∧
      CounterOnly s t c ∧ t.dev = s.dev ∧ TasksMoved s t (fun _ => False))) ∧
  (∀ (m c : Nat) (v : DWord) (s : State), HostAllowed (.counterReset m c v) s m → KeysOnce s.tasks →
    (∀ e ∈ s.tasks, e.2.succOf = none) →
    let gone := fun (k : Nat) => ∃ x, s.task? k = some x ∧ x.stage ≠ .started ∧
      ∃ e ∈ x.record.waits, e.w0.getLsbD 31 = true ∧ e.w0.toNat % 4096 = c
    ∃ t, exec (.counterReset m c v) s = .next t ∧ t.counter c = { s.counter c with value := v } ∧
      (∀ k, k ≠ c → t.counter k = s.counter k) ∧
      { t with counters := s.counters, tasks := s.tasks, cuts := s.cuts, seq := s.seq, mailboxes := s.mailboxes } = s ∧
      (∀ q e, e ∈ (t.cutTables q).loc ↔ e ∈ (s.cutTables q).loc ∧ ¬gone e.task) ∧
      TasksMoved s t gone ∧ (∀ k, gone k → t.task? k = none) ∧
      (∀ k x, gone k → s.task? k = some x → wordAt (slotBytes (t.mailbox x.mailbox) x.slot) 0xF8 = 0xF3) ∧
      (∀ b, (∀ k x, gone k → s.task? k = some x → x.mailbox ≠ b) → t.mailbox b = s.mailbox b))

/-- R43, R370 to R373, R376, R377, R380: a dealer starts the next team of a task where it fits, as a gang with its banks and
cleared accumulator share; it changes the quarter's point first where the task asks for a faster one; a saved team stands again
with what was saved; where no place is free, teams are saved in the order of R377, as many as it takes.
The layout of the team area's header, which gives the barrier count and each FIFO bank's head and tail, is log entry 18, as is that staged
requests stay beside it. -/
def Obligations.Placement : Prop :=
  (∀ (tid core : Nat) (t : Task) (s : State) (w : Work) (spot : Spot), s.task? tid = some t → workOf s tid t = some w →
    passedOver s tid t = false → spotFor s t w core = some spot → let q := core / 192
    let cl := core / 8
    (∀ m, max t.record.opp (minPoint s.dev q) < oppOf s.dev q → LowestOpp s q [t.record.opp] m → let p := max m (minPoint s.dev q)
      ((∀ x, mget s.dev.oppNext q = some x → p < x) →
        exec (.teamPlace tid core) s = .next { s with dev := { s.dev with oppNext := mput s.dev.oppNext q p } }) ∧
      (∀ x, mget s.dev.oppNext q = some x → x ≤ p → exec (.teamPlace tid core) s = .next s)) ∧
    (∀ o, w = .fresh o → oppOf s.dev q ≤ max t.record.opp (minPoint s.dev q) →
      ∃ u tm t', exec (.teamPlace tid core) s = .next u ∧ mget u.teams s.newTeam = some tm ∧ tm.task = tid ∧
        tm.index = (o.map (fun x => x.1)).getD t.placed ∧ tm.cores = spot.cores ∧ tm.scratch = spot.scratch ∧
        tm.fifo = spot.fifo ∧ tm.cache = spot.cache ∧ tm.bars = 0 ∧ tm.staged = [] ∧ tm.saved = false ∧ tm.saving = false ∧
        (∀ k, k ≠ s.newTeam → mget u.teams k = mget s.teams k) ∧
        u.task? tid = some t' ∧ t'.stage = .started ∧ t'.placed = t.placed + 1 ∧ t'.plan = t.plan.drop 1 ∧
        t'.text = (if t.stage = .started ∨ t.text ≠ [] then t.text else u.mem) ∧ (∀ k, k ≠ tid → u.task? k = s.task? k) ∧
        (∀ k e, memberAt t.record k e → ∃ g, mget u.groups (s.newGid + k) = some g ∧
          StartedGroup t tid s.newTeam spot.cores tm.index ((o.map (fun x => x.2.2)).getD 0) k e g) ∧
        (∀ k, k < s.newGid → mget u.groups k = mget s.groups k) ∧
        (∀ b ∈ spot.scratch, bankOf u cl b = ⟨1, some s.newTeam, []⟩) ∧
        (∀ b ∈ spot.fifo, bankOf u cl b = ⟨2, some s.newTeam, []⟩) ∧
        (∀ b ∈ spot.cache, bankOf u cl b = ⟨0, some s.newTeam, []⟩) ∧
        (∀ k b, (bankOf s k b).owner ≠ none → bankOf u k b = bankOf s k b) ∧
        (∀ k c x, spot.cores[k]? = some c → x / 16384 ∈ spot.tiles.getD k [] → bget (u.core c).acc x = 0) ∧
        ∀ c ∈ spot.cores, (u.core c).l1 = []) ∧
    (∀ team tm, w = .resume team → s.team? team = some tm → KeysOnce s.groups → AreasOf s team tm →
      Memory.wf (s.pool cl) = true → (∀ c, Memory.wf (s.core c).acc = true) →
      oppOf s.dev q ≤ max t.record.opp (minPoint s.dev q) →
      ∃ u tm', exec (.teamPlace tid core) s = .next u ∧ u.team? team = some tm' ∧ tm'.saved = false ∧ tm'.cores = spot.cores ∧
        tm'.index = tm.index ∧ tm'.staged = tm.staged ∧ (∀ k, k ≠ team → mget u.teams k = mget s.teams k) ∧
        tm'.bars = fieldAt (areaGet tm.area u.mem 0 4) 0 4 ∧
        u.tasks = s.tasks ∧ (∀ gid g, mget s.groups gid = some g → ¬MemberOf s gid team g → mget u.groups gid = some g) ∧
        (∀ gid g, MemberOf s gid team g → ∃ h, mget u.groups gid = some h ∧
          h.core = spot.cores.getD (tm.cores.idxOf g.core) 0 ∧ (u.core h.core).l1 = [] ∧
          h = { restoreGroup g (areaGet g.area u.mem 0 (saveSize g)) with
            core := h.core, seat := h.seat, ctx := h.ctx, pends := h.pends, flags := h.flags } ∧
          h.pends.map Pend.id = g.pends.map Pend.id) ∧
        (∀ k b, (spot.scratch ++ spot.fifo ++ spot.cache)[k]? = some b →
          (bankOf u cl b).owner = some team ∧ (bankOf u cl b).role = tm.saveRoles.getD k 0 ∧
          (k < tm.scratch.length ∨ tm.scratch.length + tm.fifo.length ≤ k ∨ tm.saveRoles.getD k 0 ≠ 2 → (bankOf u cl b).fifo = [])) ∧
        ((s.cluster cl).cache = [] → u.mem = s.mem ∧
          (∀ k b x, spot.scratch[k]? = some b → tm.saveRoles.getD k 0 = 1 → x < 65536 →
            bget (u.pool cl) (65536 * b + x) = areaByte tm.area s.mem (256 + 65536 * k + x)) ∧
          ∀ k b n, spot.fifo[k]? = some b → tm.saveRoles.getD (tm.scratch.length + k) 0 = 2 →
            (let x := leNat ((areaGet tm.area s.mem 0 256).drop 8) / 2 ^ (29 * k); x % 2 ^ 14 = 0 ∧ x / 2 ^ 14 % 2 ^ 15 = n) →
            n ≤ 16384 → (bankOf u cl b).fifo.length = n ∧ ∀ j i, j < n → i < 4 →
              byteOf ((bankOf u cl b).fifo.getD j 0) i =
                areaByte tm.area s.mem (256 + 65536 * (tm.scratch.length + k) + 4 * j + i)) ∧
        ∀ k c j tile x, spot.cores[k]? = some c → (spot.tiles.getD k [])[j]? = some tile → x < 16384 →
          bget (u.core c).acc (16384 * tile + x) =
            areaByte tm.area u.mem (256 + 65536 * (tm.scratch.length + tm.fifo.length) + 16384 * (tm.accUnits * k + j) + x))) ∧
  (∀ (tid core : Nat) (t : Task) (s : State) (w : Work), s.task? tid = some t → workOf s tid t = some w →
    passedOver s tid t = false → placeable s t w = false → KeysOnce s.teams → KeysOnce s.groups →
    (∀ k tm, (k, tm) ∈ s.teams → tm.saving = false ∧ (tm.task = tid → teamAtOrd s k t = false)) →
    let lower := fun (k : Nat) (tm : Team) => Takeable s t k tm ∧
      ∃ u, s.task? tm.task = some u ∧ t.record.prio < u.record.prio
    let rank := fun (tm : Team) => ((s.task? tm.task).map (fun u => u.record.prio)).getD 0
    ((∀ k tm, ¬lower k tm) → exec (.teamPlace tid core) s = .next s) ∧
    (∀ vs : List Nat, takeVictims s t w (victimsOf s t (fun _ _ u => decide (t.record.prio < u.record.prio))) [] = some vs →
      ∃ u, exec (.teamPlace tid core) s = .next u ∧ placeable (withoutTeams s vs) t w = true ∧
        (∀ k ∈ vs, ∃ tm, lower k tm) ∧
        (∀ k tm, k ∈ vs → (k, tm) ∈ s.teams → ∀ j tn, lower j tn → j ∉ vs →
          rank tn < rank tm ∨ (rank tn = rank tm ∧ tn.startNo ≤ tm.startNo)) ∧
        (∀ n, 0 < n → n < vs.length → placeable (withoutTeams s (vs.take n)) t w = false) ∧
        { u with teams := s.teams, groups := s.groups } = s ∧
        (∀ k tm, (k, tm) ∈ s.teams → u.team? k = some (if k ∈ vs then { tm with saving := true } else tm)) ∧
        ∀ gid g, mget s.groups gid = some g → mget u.groups gid = some
          (if g.team ∈ vs ∧ (g.kind = .started ∨ g.kind = .spawned) then (g.request .swap).withdrawAll else g)))

/-- R141, R326, R347, R368 to R370, R376 to R378: a kill, swap or shrink takes effect once nothing of the group is under way: a
shrink takes the banks and the last accumulator tiles back, a swap sends what the core's buffer holds and waits for it. What is
under way, and when a save is at rest, is log entry 26, the order of a saved FIFO log entry 18. A save ends
with the team's banks free and the areas written in the layout of R376; a group retires, its team's banks return with its last group, and the last
group of a task completes it with STATUS and the signals; a quarter's point changes. -/
def Obligations.HeldAndRetired : Prop :=
  (∀ (s : State) (gid : Nat) (g : Group) (h : Held), mget s.groups gid = some g → g.kind ≠ .vacant → g.held = some h →
    inFlight s gid = 0 → (∀ c ∈ s.cmds, c.gid = gid → c.queued = false) →
    (∀ banks units tm, h = .shrink banks units → s.team? g.team = some tm → let cl := tm.cores.headD 0 / 8
      ∃ u tm', exec (.heldRequestEffect gid) s = .next u ∧ u.team? g.team = some tm' ∧
        (∀ b, (b ∈ tm'.scratch ↔ b ∈ tm.scratch ∧ b ∉ banks) ∧ (b ∈ tm'.fifo ↔ b ∈ tm.fifo ∧ b ∉ banks) ∧
          (b ∈ tm'.cache ↔ b ∈ tm.cache ∧ b ∉ banks)) ∧
        (∀ b, b ∈ banks → b ∈ tm.scratch ++ tm.fifo ++ tm.cache → (bankOf u cl b).owner = none) ∧
        (∀ b, b ∉ banks ∨ b ∉ tm.scratch ++ tm.fifo ++ tm.cache → bankOf u cl b = bankOf s cl b) ∧
        tm'.accUnits = tm.accUnits - units ∧ (∀ k, tm'.accTiles.getD k [] = (tm.accTiles.getD k []).take (tm.accUnits - units)) ∧
        mget u.groups gid = some { g with held := g.waitHeld.head?, waitHeld := g.waitHeld.tail } ∧ OtherGroups s u gid) ∧
    (h = .swap → atRest s g = true → g.tpend = [] ∨ g.frame ≠ none → g.saveMark = 0 →
      ∃ u, exec (.heldRequestEffect gid) s = .next u ∧ mget u.groups gid = some { g with saveMark := s.seq } ∧
        OtherGroups s u gid ∧ (∀ e ∈ (u.core g.core).sgb, e.sent = true) ∧ { u with groups := s.groups, cores := s.cores } = s) ∧
    (h = .swap → atRest s g = true → g.tpend = [] ∨ g.frame ≠ none → g.saveMark ≠ 0 →
      bufferClear s g.core g.saveMark = true → allClear s g.saveMark .package = true →
      refusedBefore g g.saveFence .package = [] →
      ∃ u x, exec (.heldRequestEffect gid) s = .next u ∧ mget u.groups gid = some x ∧ OtherGroups s u gid ∧
        x = { g with held := g.waitHeld.head?, waitHeld := g.waitHeld.tail, pends := x.pends, flags := x.flags, saveMark := 0 } ∧
        (∀ p ∈ x.pends, p.waiting = true → p.done = false → p.flag = none) ∧ x.pends.map Pend.id = g.pends.map Pend.id ∧
        { u with groups := s.groups, cmds := s.cmds } = s) ∧
    (∀ b t, h = .kill b → g.kind = .started ∨ g.kind = .spawned → s.task? g.task = some t →
      (∃ k x, k ≠ gid ∧ MemberOf s k g.team x ∧ x.task = g.task) → runningInv s gid = none →
      ∃ u, exec (.heldRequestEffect gid) s = .next u ∧ mget u.groups gid = none ∧ OtherGroups s u gid ∧
        Posted s u (g.vf + 1) ⟨s.clock, 7, g.vf + 1, 0, 0⟩ ∧ u.cmds = s.cmds.filter (fun c => c.gid != gid) ∧
        u.task? g.task = some { t with anyKill := true } ∧ u.teams = s.teams ∧ u.clusters = s.clusters)) ∧
  (∀ (s : State) (team : Nat) (tm : Team), s.team? team = some tm → tm.saving = true → (∃ gid g, MemberOf s gid team g) →
    (∀ e ∈ s.groups, e.2.team = team → e.2.kind = .started ∨ e.2.kind = .spawned → e.2.held = none ∧ atRest s e.2 = true) →
    AreasOf s team tm → KeysOnce s.groups → Memory.wf s.mem = true → let cl : Nat := tm.cores.headD 0 / 8
    let bs : List Nat := tm.scratch ++ tm.fifo ++ tm.cache
    let at' : Nat → Nat := fun k => 256 + 65536 * k
    Memory.wf (s.pool cl) = true → (∀ c, Memory.wf (s.core c).acc = true) → (s.cluster cl).cache = [] →
    ∃ u tm', exec (.teamSaveDone team) s = .next u ∧ u.team? team = some tm' ∧ tm'.saved = true ∧ tm'.saving = false ∧
      tm'.cores = tm.cores ∧ tm'.index = tm.index ∧ tm'.startNo = tm.startNo ∧ tm'.bars = tm.bars ∧ tm'.staged = tm.staged ∧
      u.groups = s.groups ∧ u.tasks = s.tasks ∧
      (∀ b ∈ bs, (bankOf u cl b).owner = none) ∧
      tm'.area = tm.area ∧ (∀ (k b : Nat), (tm.scratch ++ tm.fifo ++ tm.cache)[k]? = some b → tm'.saveRoles[k]? = some (bankOf s cl b).role) ∧
      (∀ (k b x : Nat), tm.scratch[k]? = some b → (bankOf s cl b).role = 1 → x < 65536 →
        areaByte tm.area u.mem (at' k + x) = bget (s.pool cl) (65536 * b + x)) ∧
      (∀ (k b j i : Nat), tm.fifo[k]? = some b → (bankOf s cl b).role = 2 → j < (bankOf s cl b).fifo.length → j < 16384 → i < 4 →
        areaByte tm.area u.mem (at' (tm.scratch.length + k) + 4 * j + i) = byteOf ((bankOf s cl b).fifo.getD j 0) i) ∧
      (∀ (k c j tile x : Nat), tm.cores[k]? = some c → (tm.accTiles.getD k [])[j]? = some tile → x < 16384 →
        (∀ i, i < tm.cores.length → (tm.accTiles.getD i []).length = tm.accUnits) →
        areaByte tm.area u.mem (at' (tm.scratch.length + tm.fifo.length) + 16384 * (tm.accUnits * k + j) + x) =
          bget (s.core c).acc (16384 * tile + x)) ∧
      (∀ gid g, MemberOf s gid team g → (∀ n j, n < 64 → j < 4 → areaByte g.area u.mem (4 * n + j) = byteOf (g.uni n) j) ∧
        (∀ n j, n < 16 → j < 8 → areaByte g.area u.mem (256 + 16 * n + j) =
          BitVec.ofNat 8 ((mgetD g.a n ⟨0, 0⟩).base.toNat / 256 ^ j)) ∧
        ∀ i n j, i < g.width → n < g.budget → j < 4 →
          areaByte g.area u.mem (1024 + i * (4 * g.budget + 32) + 4 * n + j) = byteOf ((mgetD g.v n []).at i) j) ∧
      ∀ x, (∀ p ∈ tm.area, ¬(p.1 ≤ x ∧ x < p.1 + p.2)) →
        (∀ gid g, MemberOf s gid team g → ∀ p ∈ g.area, ¬(p.1 ≤ x ∧ x < p.1 + p.2)) → bget u.mem x = bget s.mem x) ∧
  (∀ (s : State) (gid : Nat) (g : Group), MayRetire s gid g → runningInv s gid = none → let s1 := dropGroup s gid
    ((∃ k x, k ≠ gid ∧ MemberOf s k g.team x ∧ x.task = g.task) → ∃ u, exec (.groupRetire gid) s = .next u ∧
      mget u.groups gid = none ∧ OtherGroups s u gid ∧ u.teams = s.teams ∧ u.tasks = s.tasks ∧ u.clusters = s.clusters) ∧
    (∀ t, s.task? g.task = some t → t.plan = [] → t.stage = .started → t.flr = false → t.succOf = none →
      (∀ e ∈ s.groups, e.1 = gid ∨ ¬(e.2.task = g.task ∧ (e.2.kind = .started ∨ e.2.kind = .spawned))) →
      let r := t.record
      let res := if r.result = 0 then 0 else match hwRead s1 r.asid (t.mailbox / 8 + 1) r.result 4 with
        | some bs => leNat bs
        | none => 0
      let out := if t.anyKill then 4 else 1
      (r.nsucc ≤ res → (∀ e ∈ r.sigs, e.w0.getLsbD 31 = false) → ∃ u, exec (.groupRetire gid) s = .next u ∧
        u.task? g.task = none ∧ (∀ k, k ≠ g.task → u.task? k = s.task? k) ∧ mget u.groups gid = none ∧ OtherGroups s u gid ∧
        StatusWritten s u t.mailbox t.slot (out + 16 * 15) ∧ u.counters = s.counters) ∧
      (∀ e rest, r.nsucc ≤ res → r.sigs = e :: rest → (∀ x ∈ rest, x.w0.getLsbD 31 = false) → e.w0.getLsbD 31 = true →
        e.w0.toNat / 2 ^ 28 % 4 = 1 → (s.counter (e.w0.toNat % 4096)).value.toNat + e.value.toNat < 2 ^ 64 →
        ∃ u, exec (.groupRetire gid) s = .next u ∧ u.task? g.task = none ∧
          StatusWritten s u t.mailbox t.slot (out + 16 * 15) ∧
          (u.counter (e.w0.toNat % 4096)).value.toNat = (s.counter (e.w0.toNat % 4096)).value.toNat + e.value.toNat ∧
          ∀ k, k ≠ e.w0.toNat % 4096 → u.counter k = s.counter k) ∧
      (res < r.nsucc → res ≠ 15 → (∀ e ∈ r.sigs, e.w0.getLsbD 31 = false) →
        hwRead s1 r.asid (t.mailbox / 8 + 1) (r.succ + BitVec.ofNat 64 (256 * res)) 256 = none →
        ∃ u, exec (.groupRetire gid) s = .next u ∧ u.task? g.task = none ∧
          StatusWritten s u t.mailbox t.slot (out + 16 * res) ∧
          Posted s u (t.mailbox / 8 + 1) ⟨s.clock, 11, t.mailbox / 8 + 1, 0, r.succ + BitVec.ofNat 64 (256 * res)⟩) ∧
      (∀ bs, res < r.nsucc → res ≠ 15 → (∀ e ∈ r.sigs, e.w0.getLsbD 31 = false) →
        hwRead s1 r.asid (t.mailbox / 8 + 1) (r.succ + BitVec.ofNat 64 (256 * res)) 256 = some bs → bitsAt bs 0 14 1 = 0 →
        (∀ d, ¬RecordFails s t.mailbox bs d) →
        ∃ u k x, exec (.groupRetire gid) s = .next u ∧ StatusWritten s u t.mailbox t.slot (out + 16 * res) ∧
          u.task? k = some x ∧ x.record = parseRecord bs ∧ x.mailbox = t.mailbox ∧ x.slot = t.slot ∧
          x.succOf = some (r.succ + BitVec.ofNat 64 (256 * res), r.asid)))) ∧
  (∀ (s : State) (q p : Nat), mget s.dev.oppNext q = some p → KeysOnce s.dev.oppNext →
    let s1 := { s with dev := { s.dev with opp := mput s.dev.opp q p, oppNext := mdel s.dev.oppNext q } }
    ∃ u, exec (.oppStable q) s = .next u ∧ u = { s1 with dev := { s1.dev with oppNext := u.dev.oppNext } } ∧ oppOf u.dev q = p ∧
      (∀ k, k ≠ q → mget u.dev.oppNext k = mget s.dev.oppNext k) ∧
      ∀ m, LowestOpp s1 q (waitingOpps s1 q) m → mget u.dev.oppNext q =
        if max m (minPoint s.dev q) = p then none else some (max m (minPoint s.dev q)))

/-! ### Management space and the package (23) -/

/-- R426 to R428, R431, R437: management space as host masters write it: CLAIM, GIVE and TAKE, MINPT, FTMO, HTMO, the tables,
and the attestation slots; what is the owner's to write is denied to another, with event 5.
That a host's write needs the link up is log entry 29. -/
def Obligations.ManagementSpace : Prop :=
  (∀ (i : Instr) (m off : Nat) (s : State), mgmtStore i = some (m, off) → m ≤ 64 →
    (s.dev.linkUp = false → exec i s = .next s) ∧
    (s.dev.linkUp = true → m ≠ s.dev.owner → ¬OpenTo m off → ∃ t, exec i s = .next t ∧ LogsOnly s t ∧
      Posted s t m ⟨s.clock, 5, m, 1, BitVec.ofNat 64 (11 * 2 ^ 48 + off)⟩)) ∧
  (∀ (m : Nat) (v : Word) (s : State), s.dev.linkUp = true → m ≤ 64 →
    let mine := { s with dev := { s.dev with owner := m, offer := 0xFF } }
    (v = 1 → s.dev.owner = 0xFF → s.dev.powered = true → s.dev.recovery = false → exec (.claim m v) s = .next mine) ∧
    (v ≠ 1 ∨ s.dev.owner ≠ 0xFF ∨ s.dev.recovery = true → exec (.claim m v) s = .next s) ∧
    (v = 1 → s.dev.offer = m → exec (.take m v) s = .next mine) ∧
    (v ≠ 1 ∨ s.dev.offer ≠ m → exec (.take m v) s = .next s) ∧
    (m = s.dev.owner → exec (.give m v) s = .next { s with dev := { s.dev with offer := v.toNat % 256 } }) ∧
    (m = s.dev.owner → ∃ t, exec (.minptWrite m v) s = .next t ∧ MinptIs s t (v &&& 0x7777))) ∧
  (∀ (m : Nat) (v : Word) (s : State), s.dev.linkUp = true → m ≤ 64 → m = s.dev.owner →
    exec (.mgmtRegisterWrite m 0x10 (leBytes 4 v.toNat)) s = .next { s with dev := { s.dev with ftmo := v.toNat % 16 } } ∧
    exec (.mgmtRegisterWrite m 0x18 (leBytes 4 v.toNat)) s = .next { s with dev := { s.dev with htmo := v.toNat % 16 } }) ∧
  (∀ (m : Nat) (u : Unit_) (bs : List Byte) (s : State), s.dev.linkUp = true → m ≤ 64 → m = s.dev.owner → unitInRange u →
    bs.length = (unitOffset u).2 → exec (.mgmtRegisterWrite m (unitOffset u).1 bs) s = .next (match u with
      | .mailbox b => killSlot (unitSet s bs u) b (wordAt bs 0x28)
      | _ => unitSet s bs u)) ∧
  (∀ (m : Nat) (nonce : List Byte) (s : State), s.dev.linkUp = true → m ≤ 64 → nonce.length = 32 →
    exec (.attestRequest m nonce) s = .next { s with dev := { s.dev with
      attreq := mput s.dev.attreq m nonce, attrep := mput s.dev.attrep m [] } }) ∧
  (∀ (m : Nat) (nonce : List Byte) (s : State), mget s.dev.attreq m = some nonce → mgetD s.dev.attrep m [] = [] →
    nonce.length = 32 → ∃ t rep, exec (.attestReportReady m) s = .next t ∧ mget t.dev.attrep m = some rep ∧
      rep.length = 256 ∧ leNat (rep.take 4) = 1 ∧ leNat ((rep.drop 4).take 4) = s.dev.fwSvn.toNat ∧
      leNat ((rep.drop 8).take 48) = s.dev.fwHash.toNat ∧ (rep.drop 104).take 32 = nonce ∧
      leNat ((rep.drop 136).take 4) = s.dev.owner % 2 ^ 32 ∧ (rep.drop 140).take 20 = List.replicate 20 0 ∧
      { t with dev := { t.dev with attrep := s.dev.attrep } } = s ∧ ∀ k, k ≠ m → mget t.dev.attrep k = mget s.dev.attrep k)

/-- R423, R430, R433 to R438: power-on and package reset with the firmware check, the host link, a function-level reset, the
fused minimum, the lifetime counters, spot tests, and what the management controller does about heat and power.
A thermal trip is recorded in the lifetime counters, in the bin of its temperature.
What memory holds after a reset is log entry 1, what other state of the package the reset leaves where the spec is silent log entries 4 and 5,
the numbers and samples of the lifetime counters log entry 16, by how much the cap
raises MINPT log entry 28, the order of a function-level reset log entry 29, and its tasks' handles log entry 39. -/
def Obligations.PackageEvents : Prop :=
  (∀ (fw : Firmware) (s : State), (∃ t, exec (.powerOn fw) s = .next t ∧ BroughtUp s t fw ∧ t.dev.linkUp = false ∧
      t.dev.lifetime = s.dev.lifetime) ∧
    (∃ t, exec (.packageReset fw) s = .next t ∧ BroughtUp s t fw ∧ t.dev.linkUp = s.dev.linkUp ∧
      t.dev.lifetime = s.dev.lifetime)) ∧
  (∀ (b : Bool) (s : State), exec (.hostLinkTrain b) s = .next { s with dev := { s.dev with linkUp := b } }) ∧
  (∀ (vf : Nat) (s : State), vf < 64 → (∀ k x, s.task? k = some x → x.mailbox / 8 ≠ vf) → KeysOnce s.tasks →
    ∃ t, exec (.functionLevelReset vf) s = .next t ∧
      (∀ m, m / 8 = vf → (t.mailbox m).consumed = 0 ∧ ∀ slot, slot < 32 → fieldAt (slotBytes (t.mailbox m) slot) 0xFC 4 = 0) ∧
      (∀ m, m / 8 ≠ vf → t.mailbox m = s.mailbox m) ∧ mget t.dev.logs (vf + 1) = none ∧
      (∀ k, k ≠ vf + 1 → mget t.dev.logs k = mget s.dev.logs k) ∧
      { t with mailboxes := s.mailboxes, dev := { t.dev with logs := s.dev.logs } } = s) ∧
  (∀ (vf : Nat) (s : State), vf < 64 → KeysOnce s.tasks → KeysOnce s.handles →
    (∃ k x, s.task? k = some x ∧ x.mailbox / 8 = vf) →
    (∀ k x, s.task? k = some x → x.mailbox / 8 = vf →
      ∃ gid g, mget s.groups gid = some g ∧ g.task = k ∧ (g.kind = .started ∨ g.kind = .spawned)) →
    ∃ t, exec (.functionLevelReset vf) s = .next t ∧ t.counters = s.counters ∧ t.dev.logs = s.dev.logs ∧
      (∀ m, m / 8 = vf → (t.mailbox m).consumed = (s.mailbox m).consumed ∧
        ∀ slot, slot < 32 → fieldAt (slotBytes (t.mailbox m) slot) 0xFC 4 = 0) ∧
      (∀ m, m / 8 ≠ vf → t.mailbox m = s.mailbox m) ∧
      (∀ k x, s.task? k = some x → t.task? k = some (if x.mailbox / 8 = vf
        then { x with killed := true, anyKill := true, flr := true, plan := [] } else x)) ∧
      (∀ gid g x, mget s.groups gid = some g → s.task? g.task = some x → x.mailbox / 8 = vf →
        g.kind = .started ∨ g.kind = .spawned ∨ g.kind = .service → mget t.groups gid = some (g.request (.kill false))) ∧
      ∀ k e x, mget s.handles k = some e → e.state = .pending → e.dropped = false → s.task? e.task = some x →
        x.mailbox / 8 = vf → (t.handle k).state = .broken ∧ (t.handle k).cause.toNat % 65536 = 2) ∧
  (∀ (signed : Bool) (svn : Word) (s : State), exec (.svnRaise signed svn) s = .next (if signed = true ∧
    s.dev.fusedSvn.toNat < svn.toNat then { s with dev := { s.dev with fusedSvn := svn } } else s)) ∧
  (∀ (signed : Bool) (s : State), exec (.lifetimeClear signed) s = .next (if signed = true
    then { s with dev := { s.dev with lifetime := [] } } else s)) ∧
  (∀ (part : PartKind) (index : Nat) (corrected lasting : Bool) (addr : DWord) (s : State),
    let used := sparesUsed s.dev part index
    ∃ t, exec (.spotTestComplete part index ⟨corrected, lasting⟩ addr) s = .next t ∧
      { t with dev := { t.dev with lifetime := s.dev.lifetime, spares := s.dev.spares, logs := s.dev.logs } } = s ∧
      sparesUsed t.dev part index = (if lasting = true ∧ used < sparesOf part then used + 1 else used) ∧
      (lasting = true → sparesOf part ≤ used → s.dev.owner ≤ 64 →
        Posted s t s.dev.owner ⟨s.clock, 6, s.dev.owner, 0, addr⟩) ∧
      (lasting = false ∨ used < sparesOf part ∨ 64 < s.dev.owner → t.dev.logs = s.dev.logs) ∧
      Counted s.dev t.dev (errorNo s part corrected addr) ∧ Counted s.dev t.dev 12 ∧
      (lasting = true → used < sparesOf part → Counted s.dev t.dev 13)) ∧
  (∀ (q : Nat) (s : State), q < 4 →
    (∃ t, exec (.thermalThrottle q) s = .next t ∧ Counted s.dev t.dev 28 ∧
      ∃ w : Word, MinptIs { s with dev := { s.dev with lifetime := t.dev.lifetime } } t w ∧ w.toNat / 16 ^ q % 8 = 7 ∧
      ∀ k, k < 4 → k ≠ q → w.toNat / 16 ^ k % 8 = s.dev.minpt.toNat / 16 ^ k % 8) ∧
    (∃ t, exec (.thermalTrip q) s = .next t ∧
      BroughtUp s t ⟨!s.dev.recovery, s.dev.fwSvn, s.dev.fwHash⟩ ∧ t.dev.linkUp = s.dev.linkUp ∧ Sampled s.dev t.dev [110])) ∧
  (∀ (ps cs : List Nat) (s : State),
    (ps.foldl (· + ·) 0 ≤ 2400 → ∃ t, exec (.powerCapLimit ⟨ps, cs⟩) s = .next t ∧ Sampled s.dev t.dev (cs.take 4) ∧
      { t with dev := { t.dev with lifetime := s.dev.lifetime } } = s) ∧
    (∀ q, 2400 < ps.foldl (· + ·) 0 → q < 4 → minPoint s.dev q < 7 →
      (∀ k, k < 4 → minPoint s.dev k < 7 → ps.getD k 0 < ps.getD q 0 ∨ (ps.getD k 0 = ps.getD q 0 ∧ q ≤ k)) →
      ∃ t, exec (.powerCapLimit ⟨ps, cs⟩) s = .next t ∧ Sampled s.dev t.dev (cs.take 4) ∧
        ∃ w : Word, MinptIs { s with dev := { s.dev with lifetime := t.dev.lifetime } } t w ∧
        w.toNat / 16 ^ q % 8 = min 7 (max (oppOf s.dev q) (minPoint s.dev q) + 1) ∧
        ∀ k, k < 4 → k ≠ q → w.toNat / 16 ^ k % 8 = s.dev.minpt.toNat / 16 ^ k % 8))

/-! ### The fabric (22) -/

/-- R407 to R409, R413: a port takes a flit with a good CHECK and the next SEQ once, and discards every other with one NAK; an
acknowledgement drops the kept flits up to its SEQ; a NAK or 2 µs without one sends the kept flits again; a flit sent again 16
times takes the port down, and its streams go another way or wait for one; a retrained port numbers its flits as after bring-up
(log entry 20, which also gives the order in which waiting flits go out). -/
def Obligations.FabricPorts : Prop :=
  (∀ (p : Nat) (f : List Byte) (s : State), p < 16 → (s.port p).up = true → Numbered (s.port p) → let x := s.port p
    ∃ t, exec (.flitReceive p f) s = .next t ∧ (∀ k, k ≠ p → t.port k = s.port k) ∧
      { t with ports := s.ports, streams := s.streams, dev := { t.dev with lifetime := s.dev.lifetime } } = s ∧
      (∀ k st, mget s.streams k = some st → st.cls ≠ 3 → st.cls ≠ 4 → mget t.streams k = some st) ∧ let y := t.port p
      let plain := leNat ((f.drop 2).take 2) < 2 ^ 15 ∧ (f.getD 4 0).toNat < 128
      let kind := (f.getD 5 0).toNat
      (flitGood f = false ∨ (flitGood f = true ∧ plain ∧ kind ≠ 0 ∧ flitNo f ≠ (x.lastSeq + 1) % 4096) →
        (x.nakSent = true → y = x) ∧
        (x.nakSent = false → ∃ g, IsFlit g ((x.nextSeq + 4095) % 4096) x.lastSeq 0 0 true [] ∧
          y = { x with nakSent := true, outbox := x.outbox ++ [g] })) ∧
      (flitGood f = true → plain → kind ≠ 0 → flitNo f = (x.lastSeq + 1) % 4096 →
        ∃ g, IsFlit g ((x.nextSeq + 4095) % 4096) (flitNo f) 0 0 false [] ∧
          y = { x with lastSeq := flitNo f, nakSent := false, inbox := x.inbox ++ [f], outbox := x.outbox ++ [g] }) ∧
      (∀ k a, flitGood f = true → kind = 0 → leNat ((f.drop 2).take 2) = 2 ^ 15 + a → a < 4096 → k < 512 →
        (x.kept[k]?).map flitNo = some a → let left := x.kept.drop (k + 1)
        (x.queue = [] → (f.getD 4 0).toNat < 128 →
          y = { x with kept := left, refs := x.refs.drop (k + 1), resends := 0, since := s.clock }) ∧
        (x.queue = [] → 128 ≤ (f.getD 4 0).toNat → left ≠ [] →
          y = { x with kept := left, refs := x.refs.drop (k + 1), resends := 1, retries := x.retries + 1, since := s.clock,
                       outbox := x.outbox ++ left }) ∧
        y.kept.take left.length = left ∧ y.kept.length = min 512 (left.length + x.queue.length) ∧ load y = left.length + x.queue.length)) ∧
  (∀ (p : Nat) (s : State), let x := s.port p
    x.up = true → x.kept ≠ [] → x.resends < 16 → (s.clock.toNat < x.since.toNat + 2000 → s.clock.toNat < 2 ^ 64 - 1 →
      exec (.flitResendTimeout p) s = .next s) ∧
    (x.since.toNat + 2000 ≤ s.clock.toNat → ∃ t, exec (.flitResendTimeout p) s = .next t ∧
      t.port p = { x with outbox := x.outbox ++ x.kept, resends := x.resends + 1, retries := x.retries + 1, since := s.clock } ∧
      (∀ k, k ≠ p → t.port k = s.port k) ∧ { t with ports := s.ports, dev := { t.dev with lifetime := s.dev.lifetime } } = s)) ∧
  (∀ (p : Nat) (s : State), let x := s.port p
    x.up = true → x.kept ≠ [] → 16 ≤ x.resends → KeysOnce s.streams → ∃ t, exec (.portDown p) s = .next t ∧
      (t.port p).up = false ∧ (t.port p).kept = [] ∧ (t.port p).inbox = x.inbox ∧
      { t with ports := s.ports, streams := s.streams, free := s.free,
               dev := { t.dev with lifetime := s.dev.lifetime } } = s ∧
      (∀ k st, mget s.streams k = some st → st.route = some p →
        ((∀ q, (mgetD s.dev.routes st.dstPkg 0).getLsbD q = true → q < 16 → q = p ∨ (s.port q).up = false) →
          mget t.streams k = some { st with route := none }) ∧
        (∀ q, q < 16 → q ≠ p → (mgetD s.dev.routes st.dstPkg 0).getLsbD q = true → (s.port q).up = true →
          ∃ r st', mget t.streams k = some st' ∧ st' = { st with route := some r, kept := st'.kept } ∧
            st'.kept.map (fun e => (e.1, e.2.1)) = st.kept.map (fun e => (e.1, e.2.1)) ∧ r ≠ p ∧ (s.port r).up = true ∧
            (mgetD s.dev.routes st.dstPkg 0).getLsbD r = true ∧
            (st.kept ≠ [] → st.backoff = 0 → load (s.port r) < load (t.port r)))) ∧
      ∀ k st, mget s.streams k = some st → st.route ≠ some p → mget t.streams k = some st) ∧
  (∀ (p : Nat) (s : State), p < 16 → (s.port p).up = false → KeysOnce s.streams → ∃ t, exec (.portRetrainComplete p) s = .next t ∧
    { t with ports := s.ports, streams := s.streams, free := s.free } = s ∧ (t.port p).up = true ∧ (t.port p).lastSeq = 4095 ∧
    (t.port p).resends = 0 ∧ (t.port p).retries = (s.port p).retries ∧ (t.port p).downs = (s.port p).downs ∧
    (∀ k st, mget s.streams k = some st → st.route ≠ none → mget t.streams k = some st) ∧
    (∀ k st, mget s.streams k = some st → st.route = none → (mgetD s.dev.routes st.dstPkg 0).getLsbD p = true →
      ∃ r st', mget t.streams k = some st' ∧ st'.route = some r ∧ (t.port r).up = true ∧
        st'.kept.map (fun e => (e.1, e.2.1)) = st.kept.map (fun e => (e.1, e.2.1))) ∧
    ((∀ k st, mget s.streams k = some st → st.route ≠ none) → (∀ k, k ≠ p → t.port k = s.port k) ∧ t.streams = s.streams ∧
      (t.port p).kept = [] ∧ (t.port p).nextSeq = 0))

/-- R327, R411 to R416: a message is performed at its destination once, in its stream's order, and answered, and with DOWN while the package or the quarter is in reset; a full queue
answers RETRY, and the sender tries again after 1 µs, 2 µs and so on up to 64 µs; a request ends with its final response, or
as refused at its timeout, and so does a host access.
A store of an ordered phase of a task without a record here is kept with its writer (R278, R397; log entry 50).
What a message's body holds and when it is one message is log entry 21. -/
def Obligations.MessagesAndTimeouts : Prop :=
  (∀ (m : Message) (room : Bool) (s : State), m.dstPkg = s.dev.pkg → m.cls < 8 → m.cls ≠ 4 → let n := wanted s m
    let reply := fun (t : State) (st : MsgStat) => m.cls ≠ 3 → (routePort s m.srcPkg).isSome = true → KeysOnce s.streams → Answered t m st
    (s.dev.powered = false ∨ m.dstQtr ∈ s.dev.down → ∃ t, exec (.messageReceive m room) s = .next t ∧ SendsOnly s t ∧ t.recvs = s.recvs ∧
      reply t (.refused 5)) ∧ (s.dev.powered = true → m.dstQtr ∉ s.dev.down →
    ((n - m.msgno).toNat < 2 ^ 31 → n ≠ m.msgno → ∃ t, exec (.messageReceive m room) s = .next t ∧ SendsOnly s t ∧
      t.recvs = s.recvs ∧ ∀ a d k, ((recvOf s m).answers.find? (fun x => x.1 == m.msgno)) = some a → a.2.body = .answer d k →
        reply t a.2.stat) ∧
    (2 ^ 31 ≤ (n - m.msgno).toNat → exec (.messageReceive m room) s = .next s) ∧
    (n = m.msgno → room = false → m.cls ≠ 3 → ∃ t, exec (.messageReceive m room) s = .next t ∧ SendsOnly s t ∧
      t.recvs = s.recvs ∧ reply t .retry) ∧
    (∀ asid va pa data x home, n = m.msgno → room = true → m.cls = 1 → m.body = .store asid va pa data x →
      destXlat s asid x.level va pa .write = .ok (pa.toNat, home) → pa.toNat < 768 * 2 ^ 30 → data ≠ [] →
      (∀ b ∈ data, b.2 = 0xFF) → pa.toNat % 128 + data.length ≤ 128 →
      homeOf s home = none → s.task? x.phase = none → mget s.guests x.phase = none → (∀ e ∈ s.clusters, cacheLine e.2 (pa.toNat / 128) = none) →
      ∃ t, exec (.messageReceive m room) s = .next t ∧ wanted t m = n + 1 ∧
        (∀ a, bget t.mem a = if pa.toNat ≤ a ∧ a < pa.toNat + data.length then (data.getD (a - pa.toNat) (0, 0)).1 else bget s.mem a) ∧
        t.groups = s.groups ∧ t.tasks = s.tasks ∧ reply t .accepted ∧
        (x.phase ≠ 0 → ∃ l, mget (mgetD t.guests x.phase []) (pa.toNat / 128) = some l ∧ l.writer = (x.key, x.group) ∧ l.cells = [x.key] ∧
          l.shared = false)) ∧
    (∀ asid va pa size x c, n = m.msgno → room = true → m.cls = 0 → m.body = .load asid va pa size x →
      destXlat s asid x.level va pa .read = .error c → ∃ t, exec (.messageReceive m room) s = .next t ∧ wanted t m = n + 1 ∧
        reply t (.refused c) ∧ t.mem = s.mem ∧ t.groups = s.groups ∧ ∃ e, e.code = 4 ∧ e.addr = va ∧ e.time = s.clock ∧ e.source = m.srcPkg % 65536 ∧
          e.detail.toNat % 256 = c % 256 ∧
          Posted s t ((match spaceRoot s asid with | some r => r.2 | none => 0) + 1) e) ∧
    (∀ h task words, n = m.msgno → m.cls = 3 → m.body = .result h task words 0 → h.toNat / 2 ^ 44 = s.dev.pkg →
      ∃ t, exec (.messageReceive m room) s = .next t ∧ wanted t m = n + 1 ∧ Told s t h task words 0 0 ∧
        t.groups = s.groups))) ∧
  (∀ (m : Message) (s : State) (k : Nat) (st : Stream) (req : Message) (w : Option (Nat × Nat × Nat)) (till : DWord),
    m.dstPkg = s.dev.pkg → m.cls = 4 → m.msgno = wanted s m → Kept s k st req w till → m.tag = req.tag → KeysOnce s.streams →
    let wait := if st.backoff = 0 then 1000 else min 64000 (2 * st.backoff)
    (m.stat = .retry → ∃ t, exec (.responseReceive m) s = .next t ∧ wanted t m = m.msgno + 1 ∧
      t.streams = mput s.streams k { st with backoff := wait, resendAt := addNs s.clock wait } ∧
      { t with streams := s.streams, recvs := s.recvs } = s) ∧
    (m.stat ≠ .retry → ∃ t st', exec (.responseReceive m) s = .next t ∧ wanted t m = m.msgno + 1 ∧
      mget t.streams k = some st' ∧ st'.backoff = 0 ∧
      st'.kept.map (fun e => (e.1, e.2.1)) = (st.kept.filter (fun e => e.1.tag != req.tag)).map (fun e => (e.1, e.2.1))) ∧
    (∀ gid id lane a v pa data x p, m.stat = .accepted → w = some (gid, id, lane) → gid ≠ 0 → id ≠ 0 →
      req.body = .store a v pa data x → Outstanding s gid id p → (s.group gid).kind ≠ .vacant →
      ∃ t, exec (.responseReceive m) s = .next t ∧ (t.group gid).xfer = (s.group gid).xfer - 1 ∧ OtherGroups s t gid ∧
        t.dev = s.dev) ∧
    (∀ gid id lane a v pa data x p c, m.stat = .refused c → w = some (gid, id, lane) → gid ≠ 0 → id ≠ 0 →
      req.body = .store a v pa data x → Outstanding s gid id p → (s.group gid).kind ≠ .vacant →
      ∃ t q, exec (.responseReceive m) s = .next t ∧ (t.group gid).xfer = (s.group gid).xfer - 1 ∧ OtherGroups s t gid ∧
        (t.group gid).findPend id = some q ∧ q.refused = some (p.refused.getD v) ∧
        Posted s t ((s.group gid).vf + 1) ⟨s.clock, 3, (s.group gid).vf + 1, BitVec.ofNat 32 c, v⟩)) ∧
  (∀ (k : Nat) (st : Stream) (s : State) (e : Message × Option (Nat × Nat × Nat) × DWord) (rest : List (Message × Option (Nat × Nat × Nat) × DWord)),
    mget s.streams k = some st → st.kept = e :: rest → st.backoff ≠ 0 → st.resendAt.toNat ≤ s.clock.toNat →
    (∀ p, streamPort s st = some p → ∃ t, exec (.messageRetryResend k) s = .next t ∧
      t.streams = mput s.streams k { st with resendAt := BitVec.allOnes 64, route := some p } ∧
      load (s.port p) < load (t.port p) ∧ (∀ j, j ≠ p → t.port j = s.port j) ∧
      { t with streams := s.streams, ports := s.ports, free := s.free } = s) ∧
    (streamPort s st = none → exec (.messageRetryResend k) s = .next s)) ∧
  (∀ (k : Nat) (st : Stream) (s : State) (req : Message) (till : DWord) (gid id lane : Nat) (p : Pend),
    KeysOnce s.streams → Kept s k st req (some (gid, id, lane)) till → till.toNat ≤ s.clock.toNat → till ≠ BitVec.allOnes 64 →
    (∀ e ∈ st.kept, e.1.tag ≠ req.tag → s.clock.toNat < e.2.2.toNat) →
    gid ≠ 0 → id ≠ 0 → Outstanding s gid id p → (s.group gid).kind ≠ .vacant →
    (∀ a v pa data x, req.body = .store a v pa data x →
      ∃ t q, exec (.fabricTimeout k) s = .next t ∧ (t.group gid).xfer = (s.group gid).xfer - 1 ∧ OtherGroups s t gid ∧
        (t.group gid).findPend id = some q ∧ q.refused = some (p.refused.getD v) ∧
        Posted s t ((s.group gid).vf + 1) ⟨s.clock, 3, (s.group gid).vf + 1, 6, v⟩)) ∧
  (∀ (s : State) (gid id : Nat) (p : Pend) (a : Acc), Outstanding s gid id p → p.missed = false → hostWaits p = some a →
    p.born.toNat + 64000 * 2 ^ s.dev.htmo ≤ s.clock.toNat → a.lane < 96 →
    (p.body = .store → p.done = true → ∃ t q, exec (.hostAccessTimeout gid id) s = .next t ∧ OtherGroups s t gid ∧
      (t.group gid).xfer = (s.group gid).xfer - 1 ∧ (t.group gid).findPend id = some q ∧
      q.refused = some (p.refused.getD a.va) ∧
      Posted s t ((s.group gid).vf + 1) ⟨s.clock, 9, (s.group gid).vf + 1, 0, a.va⟩) ∧
    ((∃ w b, p.body = .load w b) → (s.group gid).frame = none → s.thand (s.group gid) ≠ 0 → (s.group gid).kind ≠ .walker →
      ∃ t f, exec (.hostAccessTimeout gid id) s = .next t ∧ OtherGroups s t gid ∧ (t.group gid).frame = some f ∧
        (t.group gid).tcause.toNat = 65536 + 33 ∧ (t.group gid).taddr = a.va ∧ (t.group gid).findPend id = none ∧
        Posted s t ((s.group gid).vf + 1) ⟨s.clock, 9, (s.group gid).vf + 1, 0, a.va⟩))

/-! ### The machine as a whole -/

/-- R75, R77, R79, R121: a turn of a group with a clause in progress runs the instruction that its next words encode; with every word
done it is CLAUSE_BOUNDARY, and with no clause, when the seat has chosen the group, CLAUSE_START; a turn of another agent
runs its event. After the turn the package brings up to date what it keeps by itself. A group that has left its seat inside a clause
does not go on while another clause is in progress there. -/
def Obligations.StepRunsDecoded : Prop :=
  (∀ (s : State) (gid : Nat) (rest : List Turn) (c : Clause) (more : List Word) (i : Instr),
    s.sched = .issue gid :: rest → WordsAhead s gid c more (encode i) → decode (encode i) = .ok (i, []) →
    step s = settled s (exec i (fetchedState { s with sched := rest } gid c more))) ∧
  (∀ (s : State) (gid : Nat) (rest : List Turn) (c : Clause), s.sched = .issue gid :: rest → (s.group gid).clause = some c →
    c.len ≤ c.pos → (s.group gid).off = false → step s = settled s (exec .clauseBoundary { s with sched := rest, cur := gid })) ∧
  (∀ (s : State) (gid k : Nat) (rest : List Turn) (c : Clause) (g : Group), s.sched = .issue gid :: rest →
    (s.group gid).clause = some c → (s.group gid).off = true → mget s.groups k = some g → k ≠ gid → g.core = (s.group gid).core →
    g.seat = (s.group gid).seat → g.kind ≠ .vacant → g.clause.isSome = true → g.off = false →
    step s = settled s (.next { s with sched := rest, cur := gid })) ∧
  (∀ (s : State) (gid : Nat) (rest : List Turn), s.sched = .issue gid :: rest → (s.group gid).clause = none →
    let s0 := { s with sched := rest, cur := gid }
    step s = settled s (if s0.chosen gid then exec .clauseStart s0 else exec .clauseBoundary s0)) ∧
  (∀ (s : State) (i : Instr) (rest : List Turn), s.sched = .event i :: rest →
    step s = settled s (exec i { s with sched := rest })) ∧
  (∀ s t : State, (s.groups.map Prod.fst).Nodup → (t.groups.map Prod.fst).Nodup → (t.tasks.map Prod.fst).Nodup →
    ∃ u, settled s (.next t) = .next u ∧ Settles t u)

/-- R24, R77, R78, R80, R81, R84, R94, R302: a word that names no cell of the opcode map, or that sets a field its row leaves unused, is
the illegal-instruction trap, cause 1 with detail 2 or 3, TINFO the word, and makes no log entry (log entry 7); a word of an assigned
cell whose operands are ready takes the trap with the lowest detail that it earns: 4 to 6 for its fields, 7 for a temporary not yet
written, 8 for its place in the clause. -/
def Obligations.IllegalWordTraps : Prop :=
  (∀ (i : Instr) (sh : Shape) (s : State) (c : Clause) (d : Nat), i.shape = some sh → s.G.clause = some c → s.G.blocked = false →
    s.G.notReady sh = false → EarnsDetail s.G c sh d →
    exec i s = .next (takePrecise s sh { Trap.of 1 with detail := d, info := sh.word })) ∧
  ∀ (s : State) (gid : Nat) (rest : List Turn) (c : Clause) (more ws : List Word) (r : Reject), s.sched = .issue gid :: rest →
    WordsAhead s gid c more ws → decode (ws ++ [0, 0]) = .error r → (s.group gid).frame = none → s.thand (s.group gid) ≠ 0 →
    (s.group gid).kind ≠ .walker → (s.group gid).blocked = false → (∀ sh, cellShape ws = some sh → (s.group gid).notReady sh = false) →
    ∃ t, step s = settled s (.next t) ∧ (∀ k, k ≠ gid → mget t.groups k = mget s.groups k) ∧ { t with groups := s.groups, sched := s.sched, cur := s.cur } = s ∧
      ∃ d, (r = .reservedCell → d = 2) ∧ (r = .unusedField → d = 3) ∧
        Entered { s.group gid with clause := some { c with words := c.words ++ more } } (t.group gid) (s.thand (s.group gid))
          (BitVec.ofNat 32 (65536 + 256 * d + 1)) (ws.headD 0) (c.start + 4 * BitVec.ofNat 64 (c.pos + 1)) 0 1 ∧
        (t.group gid).log = (s.group gid).log

/-- R38, R300 to R303, R322: a precise fault saves what R302 lists and starts the handler at its text offset; a fault from code 4 on
fills a log entry and resumes with TRET 0, a trap below it with TRET 1 (log entry 7); in a handler, or with no handler, it is
a double fault, as it is in a walker (R322). The lowest pending boundary cause is taken at a clause boundary, with its own details and TRET 3. -/
def Obligations.ExceptionEntry : Prop :=
  (∀ (s : State) (sh : Shape) (x : Trap), let t := takePrecise s sh x
    let cause := BitVec.ofNat 32 (65536 + 256 * x.detail + x.cause)
    (s.G.frame = none → s.thand s.G ≠ 0 → s.G.kind ≠ .walker → (∀ k, k ≠ s.cur → mget t.groups k = mget s.groups k) ∧ { t with groups := s.groups } = s ∧
      (x.cause < 4 → Entered s.G t.G (s.thand s.G) cause x.info s.G.wordPc x.addr 1 ∧ t.G.log = s.G.log) ∧
      (∀ k, 4 ≤ x.cause → s.G.ovr = none → k < 8 → mget s.G.log k = none → (∀ j, j < k → (mget s.G.log j).isSome = true) →
        Entered s.G t.G (s.thand s.G) cause x.info s.G.wordPc x.addr 0 ∧
        ∃ e f, mget t.G.log k = some e ∧ t.G.frame = some f ∧ f.entry = some k ∧ e.pc = s.G.wordPc ∧ e.word = sh.word ∧
          e.cause = cause ∧ e.lanes = x.lanes ∧ e.addr = x.addr ∧ ∀ j, j ≠ k → mget t.G.log j = mget s.G.log j)) ∧
    (s.G.frame ≠ none ∨ s.thand s.G = 0 ∨ s.G.kind = .walker → DoubleFaulted s.G t.G ∧ ∀ k, k ≠ s.cur → mget t.groups k = mget s.groups k)) ∧
  (∀ (s : State) (c : Clause) (sp : Split) (x : TrapPend), s.G.clause = some c → s.G.after = [] → c.len ≤ c.pos →
    s.G.splits = [(s.G.cur, sp)] → s.G.cur < 4 → s.G.parked = [] → sp.mask ≠ 0 → s.G.live ≠ 0 → s.G.mayEnd = true → s.G.frame = none →
    s.thand s.G ≠ 0 → s.G.kind ≠ .walker → x ∈ s.G.tpend → (∀ y ∈ s.G.tpend, y = x ∨ x.code < y.code) →
    let pc := if c.taken then sp.pc else nextPc s.G
    ∃ t, exec .clauseBoundary s = .next t ∧ GroupOnly s t ∧
      Entered { s.G with clause := none, splits := [(s.G.cur, { sp with pc := pc })] } t.G (s.thand s.G)
        (BitVec.ofNat 32 x.code) x.info pc x.addr 3 ∧ ∀ y, y ≠ x → (y ∈ t.G.tpend ↔ y ∈ s.G.tpend))

/-- R55, R71, R72, R80, R81: the decoder reads every encoded instruction back, with every operand, and only from its own
words. -/
def Sys2Proof.Claims.WordsRoundTrip : Prop :=
  (∀ (i : Instr) (rest : List Word), i.shape ≠ none → decode (encode i ++ rest) = .ok (i, rest)) ∧
  (∀ (ws rest : List Word) (i : Instr), decode ws = .ok (i, rest) → i.shape ≠ none ∧ ws = encode i ++ rest)

/-- R73: a header that is laid out from fields in range reads back, and a word that reads as a header has reserved bits of zero,
LEN 1 to 24 and FA and FB not 12 to 14. -/
def Sys2Proof.Claims.HeaderFields : Prop :=
  (∀ h : Header, 1 ≤ h.len → h.len ≤ 24 → (h.fa < 12 ∨ h.fa = 15) → (h.fb < 12 ∨ h.fb = 15) →
    decodeHeader (encodeHeader h) = some h) ∧
  (∀ (w : Word) (h : Header), decodeHeader w = some h → w = encodeHeader h ∧ 1 ≤ h.len ∧ h.len ≤ 24 ∧
    (h.fa < 12 ∨ h.fa = 15) ∧ (h.fb < 12 ∨ h.fb = 15))

/-- R55, R71 to R73, R80, R81: words and headers read back as they were encoded, and nothing else reads as one. -/
def Obligations.DecodeEncode : Prop := WordsRoundTrip ∧ HeaderFields

/-- Words written out from the encodings in chapters 03 to 12, 15 and 21 decode to their instructions: BRA.NEG p5, SADD.I32,
SLIT, UTOA, UTOV, VCMP.EQ, FFMA, IMAD, VXWR, SHFL.XOR.W32, LD.B32.BYP, ST.B64, FENCE.FULL.FABRIC, GATHER, BSTAT.COPY, KREBAL,
RDROP, SYSRD and EXIT.
The sample VXWR follows the field layout of R71 where the chapter's printed sum does not: log entry 11. -/
def Obligations.DecodeSamples : Prop :=
  decode [0x0400D003, 6] = .ok (.bra 13 6, []) ∧
  decode [0x20680180] = .ok (.sadd 13 0 12, []) ∧
  decode [0x2C600000, 7] = .ok (.slit 12 7, []) ∧
  decode [0x48082000] = .ok (.utoa 1 2, []) ∧
  decode [0x4800D001] = .ok (.utov 0 13, []) ∧
  decode [0x68092260] = .ok (.vcmpEq 1 18 19, []) ∧
  decode [0xE0804103] = .ok (.ffma 4 1 2 3, []) ∧
  decode [0xF0804103] = .ok (.imad 4 1 2 3, []) ∧
  decode [0x6E289001] = .ok (.vxwr 69 9, []) ∧
  decode [0x7430212D] = .ok (.shflXor 6 2 9 .w32, []) ∧
  decode [0xA040328A] = .ok (.ld 8 3 20 .b32 true, []) ∧
  decode [0xA4A0238C] = .ok (.st 20 2 28 .b64, []) ∧
  decode [0xBC000017] = .ok (.fence .full .fabric, []) ∧
  decode [0xC0010501] = .ok (.gather 16 40, []) ∧
  decode [0xC0B9501A] = .ok (.bstatCopy 23 21, []) ∧
  decode [0xC470C014] = .ok (.krebal 14 12, []) ∧
  decode [0xCC00E006] = .ok (.rdrop 14, []) ∧
  decode [0xD0AB8000] = .ok (.sysrd 21 56, []) ∧
  decode [0x10000001] = .ok (.exit, [])

/-- R290, R294, R295, R321: no word of a group below level 2 changes a bank's role, a cluster's translations, the package service
table, the communicators, or THAND of a task or group (of a task that has its number: numbers are log entry 34). -/
def Obligations.LevelGuards : Prop :=
  ∀ (i : Instr) (s t : State), i.shape ≠ none → s.G.level < 2 → exec i s = .next t →
    t.dev.svctab = s.dev.svctab ∧ t.dev.comms = s.dev.comms ∧ t.dev.owner = s.dev.owner ∧ t.dev.access = s.dev.access ∧
    t.dev.minpt = s.dev.minpt ∧ (∀ c, (t.cluster c).tlb = (s.cluster c).tlb) ∧
    (∀ c b, (bankOf t c b).role = (bankOf s c b).role) ∧
    (∀ k x y, k < s.seq → s.task? k = some x → t.task? k = some y → y.thand = x.thand) ∧
    ∀ k x y, mget s.groups k = some x → mget t.groups k = some y → y.thand = x.thand

/-- R26, R365, R426, R428, R435: what reset leaves, and that it meets the model's own invariants. That memory reads zero is log entry 1, a choice
of the model. -/
def Obligations.ResetState : Prop :=
  let s := State.reset
  Canonical s ∧ Rising s ∧ s.groups = [] ∧ s.tasks = [] ∧ s.clock = 0 ∧ s.dev.owner = 0xFF ∧ s.dev.ftmo = 4 ∧ s.dev.htmo = 4 ∧
    s.dev.minpt = 0 ∧ (∀ c, (s.counter c).value = 0) ∧ (∀ a, bget s.mem a = 0) ∧
    ∀ m cls unit rd wr, m ≤ 65 → ¬Granted s.dev m cls unit rd wr

/-- Every step keeps the canonical form of every byte memory (the model's own invariant: the form is not the spec's). -/
def Obligations.MemoryStaysCanonical : Prop :=
  ∀ s t : State, Canonical s → step s = .next t → Canonical t

/-- Every step keeps the tables of groups, tasks, teams, streams and handles listing each number once (the model's own
invariant). -/
def Obligations.TablesStayRising : Prop :=
  ∀ s t : State, Rising s → step s = .next t → Rising t
end

