-- ==== Sys2Proof/Laws/Maps.lean ====
section
/-! SUPPORT. Laws of the finite maps and of the byte memories: reading after writing, and the canonical form. -/

namespace Sys2Proof.Machine

variable {α : Type}

/-! ### Maps -/

@[simp] theorem mget_mput_same (m : List (Nat × α)) (k : Nat) (x : α) : mget (mput m k x) k = some x := by
  induction m with
  | nil => simp [mput, mget]
  | cons e t ih =>
    obtain ⟨j, y⟩ := e
    simp only [mput]
    split
    · simp [mget]
    · split
      · simp [mget]
      · have h : j ≠ k := fun h => by simp_all
        simp [mget, h, ih]

theorem mget_mput_other (m : List (Nat × α)) (k j : Nat) (x : α) (h : j ≠ k) :
    mget (mput m k x) j = mget m j := by
  induction m with
  | nil => simp [mput, mget, h.symm]
  | cons e t ih =>
    obtain ⟨i, y⟩ := e
    simp only [mput]
    split
    · simp [mget, h.symm]
    · split
      · rename_i _ hk; subst hk; simp [mget, h.symm]
      · simp only [mget]; split
        · rfl
        · exact ih

theorem mget_mput (m : List (Nat × α)) (k j : Nat) (x : α) :
    mget (mput m k x) j = if j = k then some x else mget m j := by
  split
  · rename_i h; rw [h]; exact mget_mput_same m k x
  · rename_i h; exact mget_mput_other m k j x h

@[simp] theorem mgetD_mput_same (m : List (Nat × α)) (k : Nat) (x d : α) : mgetD (mput m k x) k d = x := by
  simp [mgetD]

theorem mgetD_mput (m : List (Nat × α)) (k j : Nat) (x d : α) :
    mgetD (mput m k x) j d = if j = k then x else mgetD m j d := by
  simp only [mgetD, mget_mput]; split <;> simp

theorem mget_mdel (m : List (Nat × α)) (k j : Nat) : mget (mdel m k) j = if j = k then none else mget m j := by
  induction m with
  | nil => simp [mdel, mget]
  | cons e t ih =>
    obtain ⟨i, y⟩ := e
    simp only [mdel, List.filter] at *
    by_cases hi : i = k
    · subst hi
      by_cases hj : j = i
      · subst hj; simpa using ih
      · simpa [mget, Ne.symm hj] using ih
    · have : (i != k) = true := by simpa using hi
      simp only [this, mget]
      split
      · rename_i h; subst h; simp [hi]
      · exact ih

/-! ### Byte memories -/

/-- A byte reads as it was written, and every other byte as before. -/
theorem bget_bput (m : List Host.Cell) (a x : Nat) (b : Byte) :
    bget (bput m a b) x = if x = a then b else bget m x := by
  unfold bget bput
  split
  · rename_i h; simp only [mgetD, mget_mdel]; split <;> simp [h]
  · exact mgetD_mput m a x b unlisted

theorem bytesOk_mono : ∀ (m : List Host.Cell) (l l' : Option Nat), bytesOk l m = true →
    (∀ x, l' = some x → ∃ y, l = some y ∧ x ≤ y) → bytesOk l' m = true
  | [], _, _, _, _ => rfl
  | (a, b) :: t, l, l', h, hl => by
    simp only [bytesOk, Bool.and_eq_true] at h ⊢
    refine ⟨⟨?_, h.1.2⟩, h.2⟩
    cases l' with
    | none => rfl
    | some x =>
      obtain ⟨y, rfl, hxy⟩ := hl x rfl
      have := h.1.1
      simp only [decide_eq_true_eq] at this ⊢
      omega

/-- The bound of `bytesOk` as a test. -/
def above (l : Option Nat) (a : Nat) : Bool := match l with | none => true | some x => decide (x < a)

theorem bytesOk_cons (l : Option Nat) (a : Nat) (b : Byte) (t : List Host.Cell) :
    bytesOk l ((a, b) :: t) = (above l a && b != unlisted && bytesOk (some a) t) := rfl

theorem bytesOk_mput : ∀ (m : List Host.Cell) (l : Option Nat) (a : Nat) (b : Byte), bytesOk l m = true →
    b ≠ unlisted → (∀ x, l = some x → x < a) → bytesOk l (mput m a b) = true
  | [], l, a, b, _, hb, hl => by
    cases l with
    | none => simp [mput, bytesOk, hb]
    | some x => simp [mput, bytesOk, hb, hl x rfl]
  | (j, y) :: t, l, a, b, h, hb, hl => by
    simp only [bytesOk_cons, Bool.and_eq_true] at h
    have hlow : above l a = true := by
      cases l with
      | none => rfl
      | some x => simp [above, hl x rfl]
    simp only [mput]
    split
    · rename_i hlt
      simp only [bytesOk_cons, Bool.and_eq_true]
      refine ⟨⟨hlow, by simpa using hb⟩, ⟨by simpa [above] using hlt, h.1.2⟩, h.2⟩
    · split
      · rename_i _ he
        subst he
        simp only [bytesOk_cons, Bool.and_eq_true]
        exact ⟨⟨hlow, by simpa using hb⟩, h.2⟩
      · rename_i h1 h2
        simp only [bytesOk_cons, Bool.and_eq_true]
        refine ⟨h.1, bytesOk_mput t (some j) a b h.2 hb ?_⟩
        intro x hx
        cases hx
        omega

theorem bytesOk_filter : ∀ (m : List Host.Cell) (l : Option Nat) (f : Host.Cell → Bool), bytesOk l m = true →
    bytesOk l (m.filter f) = true
  | [], _, _, _ => rfl
  | (j, y) :: t, l, f, h => by
    have h0 := h
    simp only [bytesOk, Bool.and_eq_true] at h
    simp only [List.filter]
    split
    · simp only [bytesOk, Bool.and_eq_true]
      exact ⟨h.1, bytesOk_filter t (some j) f h.2⟩
    · refine bytesOk_filter t l f (bytesOk_mono t (some j) l h.2 ?_)
      intro x hx
      subst hx
      have := h.1.1
      simp only [decide_eq_true_eq] at this
      exact ⟨j, rfl, by omega⟩

/-- Writing a byte keeps the canonical form. -/
theorem bput_wf (m : List Host.Cell) (a : Nat) (b : Byte) (h : Memory.wf m = true) : Memory.wf (bput m a b) = true := by
  unfold bput
  split
  · exact bytesOk_filter m none _ h
  · rename_i hb; exact bytesOk_mput m none a b h hb (by simp)

/-- Removing a byte keeps it. -/
theorem filter_wf (m : List Host.Cell) (f : Host.Cell → Bool) (h : Memory.wf m = true) :
    Memory.wf (m.filter f) = true := bytesOk_filter m none f h

/-- Writing several bytes keeps it. -/
theorem bputN_wf : ∀ (bs : List Byte) (m : List Host.Cell) (a : Nat), Memory.wf m = true → Memory.wf (bputN m a bs) = true
  | [], _, _, h => h
  | b :: t, m, a, h => bputN_wf t _ (a + 1) (bput_wf m a b h)

/-- Writing several bytes: the bytes of the range read as written, all others as before. -/
theorem bget_bputN : ∀ (bs : List Byte) (m : List Host.Cell) (a x : Nat),
    bget (bputN m a bs) x = if a ≤ x ∧ x < a + bs.length then bs.getD (x - a) 0 else bget m x
  | [], m, a, x => by
    have h : ¬(a ≤ x ∧ x < a + ([] : List Byte).length) := by
      intro h
      have := h.2
      simp only [List.length_nil] at this
      omega
    rw [if_neg h]
    rfl
  | b :: t, m, a, x => by
    have e : bputN m a (b :: t) = bputN (bput m a b) (a + 1) t := rfl
    rw [e, bget_bputN t]
    simp only [List.length_cons]
    by_cases h1 : x = a
    · subst h1
      rw [if_neg (by omega), if_pos (by omega), bget_bput, if_pos rfl, Nat.sub_self, List.getD_cons_zero]
    · by_cases h2 : a + 1 ≤ x ∧ x < a + 1 + t.length
      · have h4 : x - a = (x - (a + 1)) + 1 := by omega
        rw [if_pos h2, if_pos (by omega), h4, List.getD_cons_succ]
      · rw [if_neg h2, if_neg (by omega), bget_bput, if_neg h1]

/-- Reset memory is canonical. -/
theorem reset_mem_wf : Memory.wf State.reset.mem = true := rfl

end Sys2Proof.Machine
end

