-- ==== Sys2Proof/Laws/Areas.lean ====
section
/-! SUPPORT. The areas of the context region (R376): what a write of a range or of an area can do to memory. -/

namespace Sys2Proof.Machine

/-! ### Lists of cells, one behind the other -/

theorem bytesOk_above : ∀ (m : List Host.Cell) (l : Option Nat), bytesOk none m = true → (∀ e ∈ m, above l e.1 = true) →
    bytesOk l m = true
  | [], _, _, _ => rfl
  | (a, b) :: t, l, h, hl => by
    simp only [bytesOk_cons, Bool.and_eq_true] at h ⊢
    exact ⟨⟨hl _ List.mem_cons_self, h.1.2⟩, h.2⟩

theorem bytesOk_mem : ∀ (m : List Host.Cell) (l : Option Nat), bytesOk l m = true → ∀ e ∈ m, above l e.1 = true
  | [], _, _, _, h => by cases h
  | (a, b) :: t, l, h, e, he => by
    simp only [bytesOk_cons, Bool.and_eq_true] at h
    rcases List.mem_cons.1 he with rfl | he
    · exact h.1.1
    · have h1 := bytesOk_mem t (some a) h.2 e he
      cases l with
      | none => rfl
      | some x => have h2 := h.1.1; simp only [above, decide_eq_true_eq] at h1 h2 ⊢; omega

theorem bytesOk_append : ∀ (xs ys : List Host.Cell) (l : Option Nat), bytesOk l xs = true → bytesOk none ys = true →
    (∀ e ∈ ys, above l e.1 = true) → (∀ e ∈ xs, ∀ f ∈ ys, e.1 < f.1) → bytesOk l (xs ++ ys) = true
  | [], ys, l, _, hy, hl, _ => bytesOk_above ys l hy hl
  | (a, b) :: t, ys, l, hx, hy, _, hxy => by
    simp only [bytesOk_cons, Bool.and_eq_true, List.cons_append] at hx ⊢
    refine ⟨hx.1, bytesOk_append t ys (some a) hx.2 hy ?_ (fun e he => hxy e (List.mem_cons_of_mem _ he))⟩
    intro f hf
    simpa [above] using hxy _ List.mem_cons_self f hf

theorem mget_mem : ∀ (m : List Host.Cell) (n : Nat) (y : Byte), mget m n = some y → (n, y) ∈ m
  | [], _, _, h => by simp [mget] at h
  | (i, z) :: t, n, y, h => by
    simp only [mget] at h
    split at h
    · rename_i he; cases h; exact he ▸ List.mem_cons_self
    · exact List.mem_cons_of_mem _ (mget_mem t n y h)

theorem mget_append (xs ys : List Host.Cell) (x : Nat) :
    mget (xs ++ ys) x = match mget xs x with | some b => some b | none => mget ys x := by
  induction xs with
  | nil => rfl
  | cons e t ih =>
    obtain ⟨a, b⟩ := e
    simp only [List.cons_append, mget]
    split <;> simp [*]

theorem mget_filter (m : List Host.Cell) (p : Nat → Bool) (x : Nat) :
    mget (m.filter (fun e => p e.1)) x = if p x then mget m x else none := by
  induction m with
  | nil => simp [mget]
  | cons e t ih =>
    obtain ⟨a, b⟩ := e
    by_cases hp : p a <;> by_cases hx : a = x <;> simp_all [mget, List.filter]

/-! ### A range of bytes as cells -/

/-- The cells of some bytes from an address on, the `k`-th of them first. -/
def cellsFrom (a k : Nat) (bs : List Byte) : List Host.Cell :=
  ((List.range' k bs.length).zip bs).filterMap (fun e => if e.2 = unlisted then none else some (a + e.1, e.2))

theorem cellsFrom_cons (a k : Nat) (b : Byte) (t : List Byte) :
    cellsFrom a k (b :: t) = if b = unlisted then cellsFrom a (k + 1) t else (a + k, b) :: cellsFrom a (k + 1) t := by
  simp only [cellsFrom, List.length_cons, List.range'_succ, List.zip_cons_cons, List.filterMap_cons]
  split <;> simp_all

theorem cellsFrom_mem : ∀ (bs : List Byte) (a k : Nat), ∀ e ∈ cellsFrom a k bs, a + k ≤ e.1 ∧ e.1 < a + k + bs.length
  | [], _, _, _, h => by simp [cellsFrom] at h
  | b :: t, a, k, e, h => by
    rw [cellsFrom_cons] at h
    have ih := cellsFrom_mem t a (k + 1) e
    simp only [List.length_cons]
    split at h
    · have := ih h; omega
    · rcases List.mem_cons.1 h with rfl | h
      · simp
      · have := ih h; omega

theorem cellsFrom_ok : ∀ (bs : List Byte) (a k : Nat), bytesOk none (cellsFrom a k bs) = true
  | [], _, _ => rfl
  | b :: t, a, k => by
    rw [cellsFrom_cons]
    split
    · exact cellsFrom_ok t a (k + 1)
    · rename_i hb
      simp only [bytesOk_cons, Bool.and_eq_true, above, bne_iff_ne, ne_eq, true_and]
      refine ⟨hb, bytesOk_above _ _ (cellsFrom_ok t a (k + 1)) (fun e he => ?_)⟩
      have := cellsFrom_mem t a (k + 1) e he
      simp only [above, decide_eq_true_eq]
      omega

theorem cellsFrom_get : ∀ (bs : List Byte) (a k x : Nat), a + k ≤ x → x < a + k + bs.length →
    mgetD (cellsFrom a k bs) x unlisted = bs.getD (x - (a + k)) unlisted
  | [], _, _, _, h, h' => by simp at h'; omega
  | b :: t, a, k, x, h, h' => by
    rw [cellsFrom_cons]
    by_cases hx : x = a + k
    · subst hx
      have hn : mget (cellsFrom a (k + 1) t) (a + k) = none := by
        cases hm : mget (cellsFrom a (k + 1) t) (a + k) with
        | none => rfl
        | some y =>
          have := cellsFrom_mem t a (k + 1) _ (mget_mem _ _ _ hm)
          simp only at this
          omega
      split
      · rename_i hb; simp [mgetD, hn, hb]
      · simp [mgetD, mget]
    · have e1 : x - (a + k) = (x - (a + (k + 1))) + 1 := by omega
      have ih := cellsFrom_get t a (k + 1) x (by omega) (by simp at h'; omega)
      rw [e1, List.getD_cons_succ, ← ih]
      split
      · rfl
      · simp only [mgetD, mget]; rw [if_neg (by omega)]

theorem bsplice_eq (m : List Host.Cell) (a : Nat) (bs : List Byte) :
    bsplice m a bs = m.filter (fun e => decide (e.1 < a)) ++ cellsFrom a 0 bs ++ m.filter (fun e => decide (a + bs.length ≤ e.1)) := by
  simp [bsplice, cellsFrom, List.range_eq_range']

/-- Replacing a range keeps the canonical form. -/
theorem bsplice_wf (m : List Host.Cell) (a : Nat) (bs : List Byte) (h : Memory.wf m = true) :
    Memory.wf (bsplice m a bs) = true := by
  rw [bsplice_eq]
  have lo : ∀ e ∈ m.filter (fun e => decide (e.1 < a)), e.1 < a := fun e he => by simpa using (List.mem_filter.1 he).2
  have hi : ∀ e ∈ m.filter (fun e => decide (a + bs.length ≤ e.1)), a + bs.length ≤ e.1 :=
    fun e he => by simpa using (List.mem_filter.1 he).2
  refine bytesOk_append _ _ none (bytesOk_append _ _ none (filter_wf m _ h) (cellsFrom_ok bs a 0) (fun _ _ => rfl) ?_)
    (filter_wf m _ h) (fun _ _ => rfl) ?_
  · intro e he f hf
    have := lo e he
    have := cellsFrom_mem bs a 0 f hf
    omega
  · intro e he f hf
    have := hi f hf
    rcases List.mem_append.1 he with he | he
    · have := lo e he; omega
    · have := cellsFrom_mem bs a 0 e he; omega

/-- Replacing a range: its bytes read as given, all others as before. -/
theorem bget_bsplice (m : List Host.Cell) (a : Nat) (bs : List Byte) (x : Nat) :
    bget (bsplice m a bs) x = if a ≤ x ∧ x < a + bs.length then bs.getD (x - a) unlisted else bget m x := by
  have none_ : ∀ y, ¬(a ≤ y ∧ y < a + bs.length) → mget (cellsFrom a 0 bs) y = none := by
    intro y hy
    cases hm : mget (cellsFrom a 0 bs) y with
    | none => rfl
    | some b =>
      have := cellsFrom_mem bs a 0 _ (mget_mem _ _ _ hm)
      simp only at this
      omega
  rw [bsplice_eq]
  simp only [bget, mgetD, mget_append]
  rw [mget_filter m (fun k => decide (k < a)), mget_filter m (fun k => decide (a + bs.length ≤ k))]
  by_cases hx : a ≤ x ∧ x < a + bs.length
  · have hg := cellsFrom_get bs a 0 x (by omega) (by omega)
    simp only [mgetD, Nat.add_zero] at hg
    have e1 : decide (x < a) = false := by simp; omega
    have e2 : decide (a + bs.length ≤ x) = false := by simp; omega
    simp only [e1, e2, if_pos hx]
    cases hc : mget (cellsFrom a 0 bs) x with
    | none => rw [hc] at hg; rw [← hg]; rfl
    | some y => rw [hc] at hg; rw [← hg]; rfl
  · rw [none_ x hx, if_neg hx]
    by_cases h1 : x < a
    · have e2 : decide (a + bs.length ≤ x) = false := by simp; omega
      simp only [h1, e2, decide_true, if_true]
      cases mget m x <;> simp
    · have e1 : decide (x < a) = false := by simp; omega
      have e2 : decide (a + bs.length ≤ x) = true := by simp; omega
      simp [e1, e2]

/-! ### Reading a range back -/

theorem fillBytes_get : ∀ (n a : Nat) (m : List Host.Cell) (i : Nat), bytesOk none m = true → (∀ e ∈ m, a ≤ e.1) → i < n →
    (fillBytes n a m).getD i unlisted = bget m (a + i)
  | 0, _, _, _, _, _, h => by omega
  | n + 1, a, [], 0, _, _, _ => rfl
  | n + 1, a, [], i + 1, h, hl, hi => by
    rw [fillBytes, List.getD_cons_succ, fillBytes_get n (a + 1) [] i h (by simp) (by omega)]
    rfl
  | n + 1, a, (k, b) :: t, i, h, hl, hi => by
    have hk := hl _ List.mem_cons_self
    simp only [bytesOk_cons, Bool.and_eq_true] at h
    have ht : ∀ e ∈ t, k < e.1 := fun e he => by simpa [above] using bytesOk_mem t (some k) h.2 e he
    have ok : bytesOk none t = true := bytesOk_mono t (some k) none h.2 (by simp)
    simp only [fillBytes]
    cases i with
    | zero =>
      split
      · rename_i he; simp [bget, mgetD, mget, he]
      · rename_i he
        have : mget t a = none := by
          cases hm : mget t a with
          | none => rfl
          | some y => have := ht _ (mget_mem t a y hm); simp only at this hk; omega
        simp [bget, mgetD, mget, he, this]
    | succ j =>
      have e1 : a + 1 + j = a + (j + 1) := by omega
      split
      · rename_i he
        rw [List.getD_cons_succ, fillBytes_get n (a + 1) t j ok (fun e he' => by have := ht e he'; omega) (by omega), e1]
        simp only [bget, mgetD, mget]
        rw [if_neg (by omega)]
      · rename_i he
        rw [List.getD_cons_succ, fillBytes_get n (a + 1) ((k, b) :: t) j (by simp [bytesOk_cons, above, h]) ?_ (by omega), e1]
        intro e he'
        rcases List.mem_cons.1 he' with rfl | he'
        · simp only at hk ⊢; omega
        · have := ht e he'; simp only at hk; omega

/-- Bytes read in one piece are those that memory holds. -/
theorem bslice_get (m : List Host.Cell) (a n i : Nat) (h : Memory.wf m = true) (hi : i < n) :
    (bslice m a n).getD i unlisted = bget m (a + i) := by
  rw [bslice, fillBytes_get n a _ i (filter_wf m _ h) (fun e he => by
    have := (List.mem_filter.1 he).2; simp only [Bool.and_eq_true, decide_eq_true_eq] at this; exact this.1) hi]
  simp only [bget, mgetD]
  rw [mget_filter m (fun k => decide (a ≤ k) && decide (k < a + n)), if_pos (by simp; omega)]

/-! ### Areas -/

/-- A write to an area keeps the canonical form. -/
theorem areaPut_wf : ∀ (ar : Area) (m : List Host.Cell) (off : Nat) (bs : List Byte), Memory.wf m = true →
    Memory.wf (areaPut ar m off bs) = true
  | [], _, _, _, h => h
  | p :: t, m, off, bs, h => by
    simp only [areaPut]
    split
    · exact areaPut_wf t m _ bs h
    · exact areaPut_wf t _ 0 _ (bsplice_wf m _ _ h)

/-- A write to an area leaves every byte outside its pieces as it was. -/
theorem areaPut_outside : ∀ (ar : Area) (m : List Host.Cell) (off : Nat) (bs : List Byte) (x : Nat),
    (∀ p ∈ ar, ¬(p.1 ≤ x ∧ x < p.1 + p.2)) → bget (areaPut ar m off bs) x = bget m x
  | [], _, _, _, _, _ => rfl
  | p :: t, m, off, bs, x, h => by
    have ht := fun q hq => h q (List.mem_cons_of_mem p hq)
    simp only [areaPut]
    split
    · exact areaPut_outside t m _ bs x ht
    · rw [areaPut_outside t _ 0 _ x ht, bget_bsplice, if_neg]
      have := h p List.mem_cons_self
      simp only [List.length_take]
      omega

theorem putArea_wf (s : State) (ar : Area) (off : Nat) (bs : List Byte) (h : Memory.wf s.mem = true) :
    Memory.wf (s.putArea ar off bs).mem = true := areaPut_wf ar s.mem off bs h

end Sys2Proof.Machine
end

