-- ==== Sys2Proof/Laws/Bytes.lean ====
section
/-! SUPPORT. Little-endian numbers (R3), and the flits that a port sends (R407). -/

namespace Sys2Proof.Machine

@[simp] theorem leBytes_length : ∀ (n x : Nat), (leBytes n x).length = n
  | 0, _ => rfl
  | n + 1, x => by simp [leBytes, leBytes_length n]

/-- Writing a number and reading it back gives it modulo 256^n. -/
theorem leNat_leBytes : ∀ (n x : Nat), leNat (leBytes n x) = x % 256 ^ n
  | 0, x => by simp [leBytes, leNat, Nat.mod_one]
  | n + 1, x => by
    have h : x % (256 * 256 ^ n) = x % 256 + 256 * (x / 256 % 256 ^ n) := Nat.mod_mul
    rw [leBytes, leNat, leNat_leBytes n, BitVec.toNat_ofNat]
    rw [show (256 : Nat) ^ (n + 1) = 256 * 256 ^ n by rw [Nat.pow_succ, Nat.mul_comm]]
    exact h.symm

theorem leNat_lt : ∀ bs : List Byte, leNat bs < 256 ^ bs.length
  | [] => by simp [leNat]
  | b :: t => by
    have h := leNat_lt t
    have hb := b.isLt
    simp only [leNat, List.length_cons, Nat.pow_succ]
    omega

theorem leDWord_leBytes (x : DWord) : leDWord (leBytes 8 x.toNat) = x := by
  have h := x.isLt
  apply BitVec.eq_of_toNat_eq
  rw [leDWord, leNat_leBytes, BitVec.toNat_ofNat]
  omega

theorem leWord_leBytes (x : Word) : leWord (leBytes 4 x.toNat) = x := by
  have h := x.isLt
  apply BitVec.eq_of_toNat_eq
  rw [leWord, leNat_leBytes, BitVec.toNat_ofNat]
  omega

@[simp] theorem padTo_length (n : Nat) (bs : List Byte) : (padTo n bs).length = n := by simp [padTo]; omega

/-- The 248 bytes of a flit before its CHECK. -/
def flitBody (seq ack : Nat) (f : Flit) : List Byte :=
  leBytes 2 (seq % 4096) ++ leBytes 2 (2 ^ 15 + ack % 4096) ++
    [BitVec.ofNat 8 (f.chan % 8 + if f.nak then 128 else 0), BitVec.ofNat 8 f.kind] ++
    leBytes 2 f.payload.length ++ padTo 240 f.payload

theorem flitBytes_eq (seq ack : Nat) (f : Flit) :
    flitBytes seq ack f = flitBody seq ack f ++ leBytes 8 (crc64 (flitBody seq ack f)).toNat := rfl

@[simp] theorem flitBody_length (seq ack : Nat) (f : Flit) : (flitBody seq ack f).length = 248 := by simp [flitBody]

@[simp] theorem flitBytes_length (seq ack : Nat) (f : Flit) : (flitBytes seq ack f).length = 256 := by simp [flitBytes_eq]

/-- R407: every flit that is sent carries a good CHECK. -/
theorem flitBytes_good (seq ack : Nat) (f : Flit) : flitGood (flitBytes seq ack f) = true := by
  have h1 : (flitBytes seq ack f).drop 248 = leBytes 8 (crc64 (flitBody seq ack f)).toNat := by
    rw [flitBytes_eq, List.drop_append_of_le_length (by simp), List.drop_eq_nil_of_le (by simp), List.nil_append]
  have h2 : (flitBytes seq ack f).take 248 = flitBody seq ack f := by
    rw [flitBytes_eq, List.take_append_of_le_length (by simp), List.take_of_length_le (by simp)]
  have h3 := (crc64 (flitBody seq ack f)).isLt
  simp only [flitGood, flitBytes_length, h1, h2, leNat_leBytes, beq_self_eq_true, Bool.true_and, beq_iff_eq]
  omega

/-- Its SEQ is the number it was sent under. -/
theorem flitBytes_seq (seq ack : Nat) (f : Flit) : flitSeq (flitBytes seq ack f) = seq % 4096 := by
  have h : (flitBytes seq ack f).take 2 = leBytes 2 (seq % 4096) := by
    rw [flitBytes, List.take_append_of_le_length (by simp)]
    simp only [List.append_assoc]
    rw [List.take_append_of_le_length (by simp), List.take_of_length_le (by simp)]
  rw [flitSeq, h, leNat_leBytes]
  omega

/-- Its ACK is the number it acknowledges. -/
theorem flitBytes_ack (seq ack : Nat) (f : Flit) : flitAck (flitBytes seq ack f) = 2 ^ 15 + ack % 4096 := by
  have h : ((flitBytes seq ack f).drop 2).take 2 = leBytes 2 (2 ^ 15 + ack % 4096) := by
    rw [flitBytes]
    simp only [List.append_assoc]
    rw [List.drop_append_of_le_length (by simp), List.drop_eq_nil_of_le (by simp), List.nil_append,
      List.take_append_of_le_length (by simp), List.take_of_length_le (by simp)]
  rw [flitAck, h, leNat_leBytes]
  omega

end Sys2Proof.Machine
end

