-- ==== Sys2Proof/Laws/State.lean ====
section
/-! SUPPORT. One lemma per field of an update of the state or of a group, so that no proof unfolds a record update. -/

namespace Sys2Proof.Machine

/-! ### Reading back what an update set -/

@[simp] theorem State.setG_G (s : State) (g : Group) : (s.setG g).G = g := by
  simp [State.setG, State.setGroup, State.G, State.group]

@[simp] theorem State.setG_cur (s : State) (g : Group) : (s.setG g).cur = s.cur := rfl
@[simp] theorem State.setG_mem (s : State) (g : Group) : (s.setG g).mem = s.mem := rfl
@[simp] theorem State.setG_cores (s : State) (g : Group) : (s.setG g).cores = s.cores := rfl
@[simp] theorem State.setG_clusters (s : State) (g : Group) : (s.setG g).clusters = s.clusters := rfl
@[simp] theorem State.setG_teams (s : State) (g : Group) : (s.setG g).teams = s.teams := rfl
@[simp] theorem State.setG_tasks (s : State) (g : Group) : (s.setG g).tasks = s.tasks := rfl
@[simp] theorem State.setG_dev (s : State) (g : Group) : (s.setG g).dev = s.dev := rfl
@[simp] theorem State.setG_clock (s : State) (g : Group) : (s.setG g).clock = s.clock := rfl
@[simp] theorem State.setG_seq (s : State) (g : Group) : (s.setG g).seq = s.seq := rfl
@[simp] theorem State.setG_free (s : State) (g : Group) : (s.setG g).free = s.free := rfl
@[simp] theorem State.setG_cmds (s : State) (g : Group) : (s.setG g).cmds = s.cmds := rfl
@[simp] theorem State.setG_bad (s : State) (g : Group) : (s.setG g).bad = s.bad := rfl
@[simp] theorem State.setG_mailboxes (s : State) (g : Group) : (s.setG g).mailboxes = s.mailboxes := rfl
@[simp] theorem State.setG_counters (s : State) (g : Group) : (s.setG g).counters = s.counters := rfl
@[simp] theorem State.setG_handles (s : State) (g : Group) : (s.setG g).handles = s.handles := rfl
@[simp] theorem State.setG_texts (s : State) (g : Group) : (s.setG g).texts = s.texts := rfl
@[simp] theorem State.setG_sched (s : State) (g : Group) : (s.setG g).sched = s.sched := rfl
@[simp] theorem State.setG_cuts (s : State) (g : Group) : (s.setG g).cuts = s.cuts := rfl
@[simp] theorem State.setG_guests (s : State) (g : Group) : (s.setG g).guests = s.guests := rfl
@[simp] theorem State.setG_collIn (s : State) (g : Group) : (s.setG g).collIn = s.collIn := rfl
@[simp] theorem State.setG_slices (s : State) (g : Group) : (s.setG g).slices = s.slices := rfl
@[simp] theorem State.setG_invs (s : State) (g : Group) : (s.setG g).invs = s.invs := rfl
@[simp] theorem State.setG_results (s : State) (g : Group) : (s.setG g).results = s.results := rfl
@[simp] theorem State.setG_ports (s : State) (g : Group) : (s.setG g).ports = s.ports := rfl
@[simp] theorem State.setG_streams (s : State) (g : Group) : (s.setG g).streams = s.streams := rfl
@[simp] theorem State.setG_recvs (s : State) (g : Group) : (s.setG g).recvs = s.recvs := rfl
@[simp] theorem State.setG_turns (s : State) (g : Group) : (s.setG g).turns = s.turns := rfl

@[simp] theorem State.setGroup_same (s : State) (k : Nat) (g : Group) : (s.setGroup k g).group k = g := by
  simp [State.setGroup, State.group]

theorem State.setGroup_other (s : State) (k j : Nat) (g : Group) (h : j ≠ k) : (s.setGroup k g).group j = s.group j := by
  simp [State.setGroup, State.group, mgetD_mput, h]

theorem State.setG_other (s : State) (g : Group) (k : Nat) (h : k ≠ s.cur) : mget (s.setG g).groups k = mget s.groups k :=
  mget_mput_other _ _ _ _ h

@[simp] theorem State.setG_groups (s : State) (g : Group) : (s.setG g).groups = mput s.groups s.cur g := rfl

@[simp] theorem State.setG_rest (s : State) (g : Group) : { s.setG g with groups := s.groups } = s := rfl

/-- Setting the current group twice is setting it once. -/
@[simp] theorem State.setG_setG (s : State) (g h : Group) : (s.setG g).setG h = s.setG h := by
  simp only [State.setG, State.setGroup]
  congr 1
  generalize s.groups = m
  induction m with
  | nil => simp [mput]
  | cons e t ih =>
    obtain ⟨j, y⟩ := e
    simp only [mput]
    split
    · simp [mput]
    · split
      · simp [mput]
      · rename_i h1 h2
        simp [mput, h1, h2, ih]

/-! ### The updates of one table: every other field stays -/

@[simp] theorem State.setTask_mem (s : State) (t : Nat) (k : Task) : (s.setTask t k).mem = s.mem := rfl
@[simp] theorem State.setTask_bad (s : State) (t : Nat) (k : Task) : (s.setTask t k).bad = s.bad := rfl
@[simp] theorem State.setTask_groups (s : State) (t : Nat) (k : Task) : (s.setTask t k).groups = s.groups := rfl
@[simp] theorem State.setTask_cur (s : State) (t : Nat) (k : Task) : (s.setTask t k).cur = s.cur := rfl
@[simp] theorem State.setTask_teams (s : State) (t : Nat) (k : Task) : (s.setTask t k).teams = s.teams := rfl
@[simp] theorem State.setTask_tasks (s : State) (t : Nat) (k : Task) : (s.setTask t k).tasks = mput s.tasks t k := rfl
@[simp] theorem State.setTask_cores (s : State) (t : Nat) (k : Task) : (s.setTask t k).cores = s.cores := rfl
@[simp] theorem State.setTask_clusters (s : State) (t : Nat) (k : Task) : (s.setTask t k).clusters = s.clusters := rfl
@[simp] theorem State.setTask_cmds (s : State) (t : Nat) (k : Task) : (s.setTask t k).cmds = s.cmds := rfl
@[simp] theorem State.setTask_mailboxes (s : State) (t : Nat) (k : Task) : (s.setTask t k).mailboxes = s.mailboxes := rfl
@[simp] theorem State.setTask_counters (s : State) (t : Nat) (k : Task) : (s.setTask t k).counters = s.counters := rfl
@[simp] theorem State.setTask_handles (s : State) (t : Nat) (k : Task) : (s.setTask t k).handles = s.handles := rfl
@[simp] theorem State.setTask_cuts (s : State) (t : Nat) (k : Task) : (s.setTask t k).cuts = s.cuts := rfl
@[simp] theorem State.setTask_guests (s : State) (t : Nat) (k : Task) : (s.setTask t k).guests = s.guests := rfl
@[simp] theorem State.setTask_collIn (s : State) (t : Nat) (k : Task) : (s.setTask t k).collIn = s.collIn := rfl
@[simp] theorem State.setTask_slices (s : State) (t : Nat) (k : Task) : (s.setTask t k).slices = s.slices := rfl
@[simp] theorem State.setTask_invs (s : State) (t : Nat) (k : Task) : (s.setTask t k).invs = s.invs := rfl
@[simp] theorem State.setTask_results (s : State) (t : Nat) (k : Task) : (s.setTask t k).results = s.results := rfl
@[simp] theorem State.setTask_ports (s : State) (t : Nat) (k : Task) : (s.setTask t k).ports = s.ports := rfl
@[simp] theorem State.setTask_streams (s : State) (t : Nat) (k : Task) : (s.setTask t k).streams = s.streams := rfl
@[simp] theorem State.setTask_recvs (s : State) (t : Nat) (k : Task) : (s.setTask t k).recvs = s.recvs := rfl
@[simp] theorem State.setTask_dev (s : State) (t : Nat) (k : Task) : (s.setTask t k).dev = s.dev := rfl
@[simp] theorem State.setTask_clock (s : State) (t : Nat) (k : Task) : (s.setTask t k).clock = s.clock := rfl
@[simp] theorem State.setTask_sched (s : State) (t : Nat) (k : Task) : (s.setTask t k).sched = s.sched := rfl
@[simp] theorem State.setTask_texts (s : State) (t : Nat) (k : Task) : (s.setTask t k).texts = s.texts := rfl
@[simp] theorem State.setTask_free (s : State) (t : Nat) (k : Task) : (s.setTask t k).free = s.free := rfl
@[simp] theorem State.setTask_seq (s : State) (t : Nat) (k : Task) : (s.setTask t k).seq = s.seq := rfl
@[simp] theorem State.setTask_turns (s : State) (t : Nat) (k : Task) : (s.setTask t k).turns = s.turns := rfl

@[simp] theorem State.setTeam_mem (s : State) (t : Nat) (k : Team) : (s.setTeam t k).mem = s.mem := rfl
@[simp] theorem State.setTeam_bad (s : State) (t : Nat) (k : Team) : (s.setTeam t k).bad = s.bad := rfl
@[simp] theorem State.setTeam_groups (s : State) (t : Nat) (k : Team) : (s.setTeam t k).groups = s.groups := rfl
@[simp] theorem State.setTeam_cur (s : State) (t : Nat) (k : Team) : (s.setTeam t k).cur = s.cur := rfl
@[simp] theorem State.setTeam_teams (s : State) (t : Nat) (k : Team) : (s.setTeam t k).teams = mput s.teams t k := rfl
@[simp] theorem State.setTeam_tasks (s : State) (t : Nat) (k : Team) : (s.setTeam t k).tasks = s.tasks := rfl
@[simp] theorem State.setTeam_cores (s : State) (t : Nat) (k : Team) : (s.setTeam t k).cores = s.cores := rfl
@[simp] theorem State.setTeam_clusters (s : State) (t : Nat) (k : Team) : (s.setTeam t k).clusters = s.clusters := rfl
@[simp] theorem State.setTeam_cmds (s : State) (t : Nat) (k : Team) : (s.setTeam t k).cmds = s.cmds := rfl
@[simp] theorem State.setTeam_mailboxes (s : State) (t : Nat) (k : Team) : (s.setTeam t k).mailboxes = s.mailboxes := rfl
@[simp] theorem State.setTeam_counters (s : State) (t : Nat) (k : Team) : (s.setTeam t k).counters = s.counters := rfl
@[simp] theorem State.setTeam_handles (s : State) (t : Nat) (k : Team) : (s.setTeam t k).handles = s.handles := rfl
@[simp] theorem State.setTeam_cuts (s : State) (t : Nat) (k : Team) : (s.setTeam t k).cuts = s.cuts := rfl
@[simp] theorem State.setTeam_guests (s : State) (t : Nat) (k : Team) : (s.setTeam t k).guests = s.guests := rfl
@[simp] theorem State.setTeam_collIn (s : State) (t : Nat) (k : Team) : (s.setTeam t k).collIn = s.collIn := rfl
@[simp] theorem State.setTeam_slices (s : State) (t : Nat) (k : Team) : (s.setTeam t k).slices = s.slices := rfl
@[simp] theorem State.setTeam_invs (s : State) (t : Nat) (k : Team) : (s.setTeam t k).invs = s.invs := rfl
@[simp] theorem State.setTeam_results (s : State) (t : Nat) (k : Team) : (s.setTeam t k).results = s.results := rfl
@[simp] theorem State.setTeam_ports (s : State) (t : Nat) (k : Team) : (s.setTeam t k).ports = s.ports := rfl
@[simp] theorem State.setTeam_streams (s : State) (t : Nat) (k : Team) : (s.setTeam t k).streams = s.streams := rfl
@[simp] theorem State.setTeam_recvs (s : State) (t : Nat) (k : Team) : (s.setTeam t k).recvs = s.recvs := rfl
@[simp] theorem State.setTeam_dev (s : State) (t : Nat) (k : Team) : (s.setTeam t k).dev = s.dev := rfl
@[simp] theorem State.setTeam_clock (s : State) (t : Nat) (k : Team) : (s.setTeam t k).clock = s.clock := rfl
@[simp] theorem State.setTeam_sched (s : State) (t : Nat) (k : Team) : (s.setTeam t k).sched = s.sched := rfl
@[simp] theorem State.setTeam_texts (s : State) (t : Nat) (k : Team) : (s.setTeam t k).texts = s.texts := rfl
@[simp] theorem State.setTeam_free (s : State) (t : Nat) (k : Team) : (s.setTeam t k).free = s.free := rfl
@[simp] theorem State.setTeam_seq (s : State) (t : Nat) (k : Team) : (s.setTeam t k).seq = s.seq := rfl
@[simp] theorem State.setTeam_turns (s : State) (t : Nat) (k : Team) : (s.setTeam t k).turns = s.turns := rfl

@[simp] theorem State.setCore_mem (s : State) (c : Nat) (k : Core) : (s.setCore c k).mem = s.mem := rfl
@[simp] theorem State.setCore_bad (s : State) (c : Nat) (k : Core) : (s.setCore c k).bad = s.bad := rfl
@[simp] theorem State.setCore_groups (s : State) (c : Nat) (k : Core) : (s.setCore c k).groups = s.groups := rfl
@[simp] theorem State.setCore_cur (s : State) (c : Nat) (k : Core) : (s.setCore c k).cur = s.cur := rfl
@[simp] theorem State.setCore_teams (s : State) (c : Nat) (k : Core) : (s.setCore c k).teams = s.teams := rfl
@[simp] theorem State.setCore_tasks (s : State) (c : Nat) (k : Core) : (s.setCore c k).tasks = s.tasks := rfl
@[simp] theorem State.setCore_cores (s : State) (c : Nat) (k : Core) : (s.setCore c k).cores = mput s.cores c k := rfl
@[simp] theorem State.setCore_clusters (s : State) (c : Nat) (k : Core) : (s.setCore c k).clusters = s.clusters := rfl
@[simp] theorem State.setCore_cmds (s : State) (c : Nat) (k : Core) : (s.setCore c k).cmds = s.cmds := rfl
@[simp] theorem State.setCore_mailboxes (s : State) (c : Nat) (k : Core) : (s.setCore c k).mailboxes = s.mailboxes := rfl
@[simp] theorem State.setCore_counters (s : State) (c : Nat) (k : Core) : (s.setCore c k).counters = s.counters := rfl
@[simp] theorem State.setCore_handles (s : State) (c : Nat) (k : Core) : (s.setCore c k).handles = s.handles := rfl
@[simp] theorem State.setCore_cuts (s : State) (c : Nat) (k : Core) : (s.setCore c k).cuts = s.cuts := rfl
@[simp] theorem State.setCore_guests (s : State) (c : Nat) (k : Core) : (s.setCore c k).guests = s.guests := rfl
@[simp] theorem State.setCore_collIn (s : State) (c : Nat) (k : Core) : (s.setCore c k).collIn = s.collIn := rfl
@[simp] theorem State.setCore_slices (s : State) (c : Nat) (k : Core) : (s.setCore c k).slices = s.slices := rfl
@[simp] theorem State.setCore_invs (s : State) (c : Nat) (k : Core) : (s.setCore c k).invs = s.invs := rfl
@[simp] theorem State.setCore_results (s : State) (c : Nat) (k : Core) : (s.setCore c k).results = s.results := rfl
@[simp] theorem State.setCore_ports (s : State) (c : Nat) (k : Core) : (s.setCore c k).ports = s.ports := rfl
@[simp] theorem State.setCore_streams (s : State) (c : Nat) (k : Core) : (s.setCore c k).streams = s.streams := rfl
@[simp] theorem State.setCore_recvs (s : State) (c : Nat) (k : Core) : (s.setCore c k).recvs = s.recvs := rfl
@[simp] theorem State.setCore_dev (s : State) (c : Nat) (k : Core) : (s.setCore c k).dev = s.dev := rfl
@[simp] theorem State.setCore_clock (s : State) (c : Nat) (k : Core) : (s.setCore c k).clock = s.clock := rfl
@[simp] theorem State.setCore_sched (s : State) (c : Nat) (k : Core) : (s.setCore c k).sched = s.sched := rfl
@[simp] theorem State.setCore_texts (s : State) (c : Nat) (k : Core) : (s.setCore c k).texts = s.texts := rfl
@[simp] theorem State.setCore_free (s : State) (c : Nat) (k : Core) : (s.setCore c k).free = s.free := rfl
@[simp] theorem State.setCore_seq (s : State) (c : Nat) (k : Core) : (s.setCore c k).seq = s.seq := rfl
@[simp] theorem State.setCore_turns (s : State) (c : Nat) (k : Core) : (s.setCore c k).turns = s.turns := rfl

@[simp] theorem State.setCluster_mem (s : State) (c : Nat) (k : Cluster) : (s.setCluster c k).mem = s.mem := rfl
@[simp] theorem State.setCluster_bad (s : State) (c : Nat) (k : Cluster) : (s.setCluster c k).bad = s.bad := rfl
@[simp] theorem State.setCluster_groups (s : State) (c : Nat) (k : Cluster) : (s.setCluster c k).groups = s.groups := rfl
@[simp] theorem State.setCluster_cur (s : State) (c : Nat) (k : Cluster) : (s.setCluster c k).cur = s.cur := rfl
@[simp] theorem State.setCluster_teams (s : State) (c : Nat) (k : Cluster) : (s.setCluster c k).teams = s.teams := rfl
@[simp] theorem State.setCluster_tasks (s : State) (c : Nat) (k : Cluster) : (s.setCluster c k).tasks = s.tasks := rfl
@[simp] theorem State.setCluster_cores (s : State) (c : Nat) (k : Cluster) : (s.setCluster c k).cores = s.cores := rfl
@[simp] theorem State.setCluster_clusters (s : State) (c : Nat) (k : Cluster) : (s.setCluster c k).clusters = mput s.clusters c k := rfl
@[simp] theorem State.setCluster_cmds (s : State) (c : Nat) (k : Cluster) : (s.setCluster c k).cmds = s.cmds := rfl
@[simp] theorem State.setCluster_mailboxes (s : State) (c : Nat) (k : Cluster) : (s.setCluster c k).mailboxes = s.mailboxes := rfl
@[simp] theorem State.setCluster_counters (s : State) (c : Nat) (k : Cluster) : (s.setCluster c k).counters = s.counters := rfl
@[simp] theorem State.setCluster_handles (s : State) (c : Nat) (k : Cluster) : (s.setCluster c k).handles = s.handles := rfl
@[simp] theorem State.setCluster_cuts (s : State) (c : Nat) (k : Cluster) : (s.setCluster c k).cuts = s.cuts := rfl
@[simp] theorem State.setCluster_guests (s : State) (c : Nat) (k : Cluster) : (s.setCluster c k).guests = s.guests := rfl
@[simp] theorem State.setCluster_collIn (s : State) (c : Nat) (k : Cluster) : (s.setCluster c k).collIn = s.collIn := rfl
@[simp] theorem State.setCluster_slices (s : State) (c : Nat) (k : Cluster) : (s.setCluster c k).slices = s.slices := rfl
@[simp] theorem State.setCluster_invs (s : State) (c : Nat) (k : Cluster) : (s.setCluster c k).invs = s.invs := rfl
@[simp] theorem State.setCluster_results (s : State) (c : Nat) (k : Cluster) : (s.setCluster c k).results = s.results := rfl
@[simp] theorem State.setCluster_ports (s : State) (c : Nat) (k : Cluster) : (s.setCluster c k).ports = s.ports := rfl
@[simp] theorem State.setCluster_streams (s : State) (c : Nat) (k : Cluster) : (s.setCluster c k).streams = s.streams := rfl
@[simp] theorem State.setCluster_recvs (s : State) (c : Nat) (k : Cluster) : (s.setCluster c k).recvs = s.recvs := rfl
@[simp] theorem State.setCluster_dev (s : State) (c : Nat) (k : Cluster) : (s.setCluster c k).dev = s.dev := rfl
@[simp] theorem State.setCluster_clock (s : State) (c : Nat) (k : Cluster) : (s.setCluster c k).clock = s.clock := rfl
@[simp] theorem State.setCluster_sched (s : State) (c : Nat) (k : Cluster) : (s.setCluster c k).sched = s.sched := rfl
@[simp] theorem State.setCluster_texts (s : State) (c : Nat) (k : Cluster) : (s.setCluster c k).texts = s.texts := rfl
@[simp] theorem State.setCluster_free (s : State) (c : Nat) (k : Cluster) : (s.setCluster c k).free = s.free := rfl
@[simp] theorem State.setCluster_seq (s : State) (c : Nat) (k : Cluster) : (s.setCluster c k).seq = s.seq := rfl
@[simp] theorem State.setCluster_turns (s : State) (c : Nat) (k : Cluster) : (s.setCluster c k).turns = s.turns := rfl

@[simp] theorem State.setMailbox_mem (s : State) (m : Nat) (b : Mailbox) : (s.setMailbox m b).mem = s.mem := rfl
@[simp] theorem State.setMailbox_bad (s : State) (m : Nat) (b : Mailbox) : (s.setMailbox m b).bad = s.bad := rfl
@[simp] theorem State.setMailbox_groups (s : State) (m : Nat) (b : Mailbox) : (s.setMailbox m b).groups = s.groups := rfl
@[simp] theorem State.setMailbox_cur (s : State) (m : Nat) (b : Mailbox) : (s.setMailbox m b).cur = s.cur := rfl
@[simp] theorem State.setMailbox_teams (s : State) (m : Nat) (b : Mailbox) : (s.setMailbox m b).teams = s.teams := rfl
@[simp] theorem State.setMailbox_tasks (s : State) (m : Nat) (b : Mailbox) : (s.setMailbox m b).tasks = s.tasks := rfl
@[simp] theorem State.setMailbox_cores (s : State) (m : Nat) (b : Mailbox) : (s.setMailbox m b).cores = s.cores := rfl
@[simp] theorem State.setMailbox_clusters (s : State) (m : Nat) (b : Mailbox) : (s.setMailbox m b).clusters = s.clusters := rfl
@[simp] theorem State.setMailbox_cmds (s : State) (m : Nat) (b : Mailbox) : (s.setMailbox m b).cmds = s.cmds := rfl
@[simp] theorem State.setMailbox_mailboxes (s : State) (m : Nat) (b : Mailbox) : (s.setMailbox m b).mailboxes = mput s.mailboxes m b := rfl
@[simp] theorem State.setMailbox_counters (s : State) (m : Nat) (b : Mailbox) : (s.setMailbox m b).counters = s.counters := rfl
@[simp] theorem State.setMailbox_handles (s : State) (m : Nat) (b : Mailbox) : (s.setMailbox m b).handles = s.handles := rfl
@[simp] theorem State.setMailbox_cuts (s : State) (m : Nat) (b : Mailbox) : (s.setMailbox m b).cuts = s.cuts := rfl
@[simp] theorem State.setMailbox_guests (s : State) (m : Nat) (b : Mailbox) : (s.setMailbox m b).guests = s.guests := rfl
@[simp] theorem State.setMailbox_collIn (s : State) (m : Nat) (b : Mailbox) : (s.setMailbox m b).collIn = s.collIn := rfl
@[simp] theorem State.setMailbox_slices (s : State) (m : Nat) (b : Mailbox) : (s.setMailbox m b).slices = s.slices := rfl
@[simp] theorem State.setMailbox_invs (s : State) (m : Nat) (b : Mailbox) : (s.setMailbox m b).invs = s.invs := rfl
@[simp] theorem State.setMailbox_results (s : State) (m : Nat) (b : Mailbox) : (s.setMailbox m b).results = s.results := rfl
@[simp] theorem State.setMailbox_ports (s : State) (m : Nat) (b : Mailbox) : (s.setMailbox m b).ports = s.ports := rfl
@[simp] theorem State.setMailbox_streams (s : State) (m : Nat) (b : Mailbox) : (s.setMailbox m b).streams = s.streams := rfl
@[simp] theorem State.setMailbox_recvs (s : State) (m : Nat) (b : Mailbox) : (s.setMailbox m b).recvs = s.recvs := rfl
@[simp] theorem State.setMailbox_dev (s : State) (m : Nat) (b : Mailbox) : (s.setMailbox m b).dev = s.dev := rfl
@[simp] theorem State.setMailbox_clock (s : State) (m : Nat) (b : Mailbox) : (s.setMailbox m b).clock = s.clock := rfl
@[simp] theorem State.setMailbox_sched (s : State) (m : Nat) (b : Mailbox) : (s.setMailbox m b).sched = s.sched := rfl
@[simp] theorem State.setMailbox_texts (s : State) (m : Nat) (b : Mailbox) : (s.setMailbox m b).texts = s.texts := rfl
@[simp] theorem State.setMailbox_free (s : State) (m : Nat) (b : Mailbox) : (s.setMailbox m b).free = s.free := rfl
@[simp] theorem State.setMailbox_seq (s : State) (m : Nat) (b : Mailbox) : (s.setMailbox m b).seq = s.seq := rfl
@[simp] theorem State.setMailbox_turns (s : State) (m : Nat) (b : Mailbox) : (s.setMailbox m b).turns = s.turns := rfl

@[simp] theorem State.tick1_mem (s : State) : s.tick1.mem = s.mem := rfl
@[simp] theorem State.tick1_bad (s : State) : s.tick1.bad = s.bad := rfl
@[simp] theorem State.tick1_groups (s : State) : s.tick1.groups = s.groups := rfl
@[simp] theorem State.tick1_cur (s : State) : s.tick1.cur = s.cur := rfl
@[simp] theorem State.tick1_teams (s : State) : s.tick1.teams = s.teams := rfl
@[simp] theorem State.tick1_tasks (s : State) : s.tick1.tasks = s.tasks := rfl
@[simp] theorem State.tick1_cores (s : State) : s.tick1.cores = s.cores := rfl
@[simp] theorem State.tick1_clusters (s : State) : s.tick1.clusters = s.clusters := rfl
@[simp] theorem State.tick1_cmds (s : State) : s.tick1.cmds = s.cmds := rfl
@[simp] theorem State.tick1_mailboxes (s : State) : s.tick1.mailboxes = s.mailboxes := rfl
@[simp] theorem State.tick1_counters (s : State) : s.tick1.counters = s.counters := rfl
@[simp] theorem State.tick1_handles (s : State) : s.tick1.handles = s.handles := rfl
@[simp] theorem State.tick1_cuts (s : State) : s.tick1.cuts = s.cuts := rfl
@[simp] theorem State.tick1_guests (s : State) : s.tick1.guests = s.guests := rfl
@[simp] theorem State.tick1_collIn (s : State) : s.tick1.collIn = s.collIn := rfl
@[simp] theorem State.tick1_slices (s : State) : s.tick1.slices = s.slices := rfl
@[simp] theorem State.tick1_invs (s : State) : s.tick1.invs = s.invs := rfl
@[simp] theorem State.tick1_results (s : State) : s.tick1.results = s.results := rfl
@[simp] theorem State.tick1_ports (s : State) : s.tick1.ports = s.ports := rfl
@[simp] theorem State.tick1_streams (s : State) : s.tick1.streams = s.streams := rfl
@[simp] theorem State.tick1_recvs (s : State) : s.tick1.recvs = s.recvs := rfl
@[simp] theorem State.tick1_dev (s : State) : s.tick1.dev = s.dev := rfl
@[simp] theorem State.tick1_clock (s : State) : s.tick1.clock = s.clock := rfl
@[simp] theorem State.tick1_sched (s : State) : s.tick1.sched = s.sched := rfl
@[simp] theorem State.tick1_texts (s : State) : s.tick1.texts = s.texts := rfl
@[simp] theorem State.tick1_free (s : State) : s.tick1.free = s.free := rfl
@[simp] theorem State.tick1_turns (s : State) : s.tick1.turns = s.turns := rfl
@[simp] theorem State.tick1_seq (s : State) : s.tick1.seq = s.seq + 1 := rfl

@[simp] theorem State.draw_mem (s : State) : s.draw.2.mem = s.mem := rfl
@[simp] theorem State.draw_bad (s : State) : s.draw.2.bad = s.bad := rfl
@[simp] theorem State.draw_groups (s : State) : s.draw.2.groups = s.groups := rfl
@[simp] theorem State.draw_cur (s : State) : s.draw.2.cur = s.cur := rfl
@[simp] theorem State.draw_teams (s : State) : s.draw.2.teams = s.teams := rfl
@[simp] theorem State.draw_tasks (s : State) : s.draw.2.tasks = s.tasks := rfl
@[simp] theorem State.draw_cores (s : State) : s.draw.2.cores = s.cores := rfl
@[simp] theorem State.draw_clusters (s : State) : s.draw.2.clusters = s.clusters := rfl
@[simp] theorem State.draw_cmds (s : State) : s.draw.2.cmds = s.cmds := rfl
@[simp] theorem State.draw_mailboxes (s : State) : s.draw.2.mailboxes = s.mailboxes := rfl
@[simp] theorem State.draw_counters (s : State) : s.draw.2.counters = s.counters := rfl
@[simp] theorem State.draw_handles (s : State) : s.draw.2.handles = s.handles := rfl
@[simp] theorem State.draw_cuts (s : State) : s.draw.2.cuts = s.cuts := rfl
@[simp] theorem State.draw_guests (s : State) : s.draw.2.guests = s.guests := rfl
@[simp] theorem State.draw_collIn (s : State) : s.draw.2.collIn = s.collIn := rfl
@[simp] theorem State.draw_slices (s : State) : s.draw.2.slices = s.slices := rfl
@[simp] theorem State.draw_invs (s : State) : s.draw.2.invs = s.invs := rfl
@[simp] theorem State.draw_results (s : State) : s.draw.2.results = s.results := rfl
@[simp] theorem State.draw_ports (s : State) : s.draw.2.ports = s.ports := rfl
@[simp] theorem State.draw_streams (s : State) : s.draw.2.streams = s.streams := rfl
@[simp] theorem State.draw_recvs (s : State) : s.draw.2.recvs = s.recvs := rfl
@[simp] theorem State.draw_dev (s : State) : s.draw.2.dev = s.dev := rfl
@[simp] theorem State.draw_clock (s : State) : s.draw.2.clock = s.clock := rfl
@[simp] theorem State.draw_sched (s : State) : s.draw.2.sched = s.sched := rfl
@[simp] theorem State.draw_texts (s : State) : s.draw.2.texts = s.texts := rfl
@[simp] theorem State.draw_seq (s : State) : s.draw.2.seq = s.seq := rfl
@[simp] theorem State.draw_turns (s : State) : s.draw.2.turns = s.turns := rfl
@[simp] theorem State.draw_free (s : State) : s.draw.2.free = s.free + 1 := rfl

@[simp] theorem State.setTask_same (s : State) (t : Nat) (k : Task) : (s.setTask t k).task? t = some k := by
  simp [State.setTask, State.task?]

theorem State.setTask_other (s : State) (t j : Nat) (k : Task) (h : j ≠ t) : (s.setTask t k).task? j = s.task? j :=
  mget_mput_other _ _ _ _ h

@[simp] theorem State.setTeam_same (s : State) (t : Nat) (k : Team) : (s.setTeam t k).team? t = some k := by
  simp [State.setTeam, State.team?]

theorem State.setTeam_other (s : State) (t j : Nat) (k : Team) (h : j ≠ t) : (s.setTeam t k).team? j = s.team? j :=
  mget_mput_other _ _ _ _ h

@[simp] theorem State.setCore_same (s : State) (c : Nat) (k : Core) : (s.setCore c k).core c = k := by
  simp [State.setCore, State.core]

theorem State.setCore_other (s : State) (c j : Nat) (k : Core) (h : j ≠ c) : (s.setCore c k).core j = s.core j := by
  simp [State.setCore, State.core, mgetD_mput, h]

@[simp] theorem State.setCluster_same (s : State) (c : Nat) (k : Cluster) : (s.setCluster c k).cluster c = k := by
  simp [State.setCluster, State.cluster]

theorem State.setCluster_other (s : State) (c j : Nat) (k : Cluster) (h : j ≠ c) :
    (s.setCluster c k).cluster j = s.cluster j := by
  simp [State.setCluster, State.cluster, mgetD_mput, h]

@[simp] theorem State.setMailbox_same (s : State) (m : Nat) (b : Mailbox) : (s.setMailbox m b).mailbox m = b := by
  simp [State.setMailbox, State.mailbox]

theorem State.setMailbox_other (s : State) (m j : Nat) (b : Mailbox) (h : j ≠ m) :
    (s.setMailbox m b).mailbox j = s.mailbox j := by
  simp [State.setMailbox, State.mailbox, mgetD_mput, h]

/-! ### The clause and the end of a word -/

/-- A word that is not a reissued one has nothing to bring back or to free. -/
theorem Group.endReissue_plain (g : Group) (h : g.ovr = none) (ha : g.again = none) (hf : g.after = []) : g.endReissue = g := by
  cases g
  simp_all [Group.endReissue, Group.endAlone]

/-- The end of a word that is not a reissued one moves the clause and touches nothing else. -/
theorem Group.advance_eq (g : Group) (sh : Shape) (c : Clause) (h : g.ovr = none) (ha : g.again = none) (hf : g.after = [])
    (hc : g.clause = some c) :
    g.advance sh =
      { g with clause := some { c with pos := c.pos + 1 + sh.lits.length, tw := c.tw ||| tempBits sh.dsts } } := by
  simp [Group.advance, Group.endReissue_plain g h ha hf, hc]

/-! ### Plain reads of a group that reissues nothing -/

theorem Group.logged_none (g : Group) (r : Reg) (h : g.ovr = none) : g.logged r = none := by
  simp [Group.logged, Group.ovrEntry, h]

theorem Group.rdS_plain (g : Group) (n : Nat) (h : g.ovr = none) : g.rdS n = g.uni n := by
  simp [Group.rdS, Group.logged_none g _ h]

theorem Group.rdA_plain (g : Group) (n : Nat) (h : g.ovr = none) : g.rdA n = mgetD g.a n ⟨0, 0⟩ := by
  simp [Group.rdA, Group.ovrEntry, h]

theorem Group.rdRow_plain (g : Group) (n : Nat) (h : g.ovr = none) : g.rdRow n = g.row n := by
  simp [Group.rdRow, Group.logged_none g _ h]

theorem Group.rdV_plain (g : Group) (n i : Nat) (h : g.ovr = none) : g.rdV n i = (g.row n).at i := by
  simp [Group.rdV, Group.rdRow_plain g n h]

theorem Group.mode_plain (g : Group) (h : g.ovr = none) : g.mode = g.split.mode := by
  simp [Group.mode, Group.ovrEntry, h]

theorem Group.active_plain (g : Group) (h : g.ovr = none) :
    g.active = g.split.mask &&& g.pass g.split.depth &&& g.guard := by
  simp [Group.active, Group.ovrEntry, h]

end Sys2Proof.Machine
end

