-- ==== Sys2Proof/Laws/Issue.lean ====
section
/-! SUPPORT. What `issue` and the shared register writes of Operands.lean can do: the meanings' proofs cite these. -/

namespace Sys2Proof.Machine

/-! ### `issue` -/

/-- A word whose effect is `.ok` leaves that state, the clause moved on. -/
theorem issue_ok {s s' : State} {sh : Shape} {c : Clause} {body : State → Res} (hc : s.G.clause = some c)
    (hb : s.G.blocked = false) (hi : issueCode s.G c sh = none)
    (hl : s.G.notReady sh = false) (h : body s = .ok s') :
    issue (some sh) s body = .next (s'.setG (s'.G.advance sh)) := by
  simp [issue, hc, hb, hi, hl, h]

/-- A word that sets itself where the group goes on. -/
theorem issue_done {s s' : State} {sh : Shape} {c : Clause} {body : State → Res} (hc : s.G.clause = some c)
    (hb : s.G.blocked = false) (hi : issueCode s.G c sh = none)
    (hl : s.G.notReady sh = false) (h : body s = .done s') :
    issue (some sh) s body = .next s' := by
  simp [issue, hc, hb, hi, hl, h]

/-- A word that traps takes the exception. -/
theorem issue_trap {s : State} {sh : Shape} {c : Clause} {body : State → Res} {t : Trap} (hc : s.G.clause = some c)
    (hb : s.G.blocked = false) (hi : issueCode s.G c sh = none)
    (hl : s.G.notReady sh = false) (h : body s = .trap t) :
    issue (some sh) s body = .next (takePrecise s sh t) := by
  simp [issue, hc, hb, hi, hl, h]

/-- A word that fails a check of R94 takes the illegal-instruction trap with that check's code. -/
theorem issue_code {s : State} {sh : Shape} {c : Clause} {body : State → Res} {k : Nat} (hc : s.G.clause = some c)
    (hb : s.G.blocked = false) (hl : s.G.notReady sh = false) (hi : issueCode s.G c sh = some k) :
    issue (some sh) s body = .next (takePrecise s sh { Trap.of 1 with detail := k, info := sh.word }) := by
  simp [issue, hc, hb, hi, hl]

/-- Every word answers a next state. -/
theorem issue_next (sh : Option Shape) (s : State) (body : State → Res) : ∃ t, issue sh s body = .next t := by
  unfold issue
  split
  · split
    · exact ⟨_, rfl⟩
    · split
      · exact ⟨_, rfl⟩
      · split <;> exact ⟨_, rfl⟩
  · exact ⟨_, rfl⟩

/-! ### Uniform writes (R17, R18, R42) -/

/-- The plain uniform file after some writes. -/
def uniFile (m : Map Word) (ws : List (Nat × Word)) : Map Word :=
  ws.foldl (fun m e => if e.1 < 60 then mput m e.1 e.2 else m) m

/-- A group without what the marks of R42 touch. -/
def Group.unmark (g : Group) : Group :=
  { g with pends := g.pends.map (fun p => { p with killed := [] }), again := none, after := [], hidden := [], frame := none }

theorem unmark_killPends (mark : Option Nat) (id : Nat) (r : Reg) (m : Mask) (ps : List Pend) :
    (killPends mark id r m ps).map (fun p => { p with killed := [] }) = ps.map (fun p => { p with killed := [] }) := by
  simp only [killPends, List.map_map]
  apply List.map_congr_left
  intro p _
  simp only [Function.comp]
  split <;> rfl

/-- The marks of a write touch only marks. -/
theorem Group.unmark_kill (g : Group) (id : Nat) (r : Reg) (m : Mask) : (g.kill id r m).unmark = g.unmark := by
  unfold Group.kill
  cases hf : g.frame with
  | none => simp [Group.unmark, unmark_killPends]
  | some f =>
    simp only
    split
    · split <;> simp [Group.unmark, unmark_killPends]
    · simp [Group.unmark, unmark_killPends]

/-- What a mark changes of the registers: nothing. -/
theorem Group.kill_regs (g : Group) (id : Nat) (r : Reg) (m : Mask) :
    (g.kill id r m).s = g.s ∧ (g.kill id r m).v = g.v ∧ (g.kill id r m).t = g.t ∧ (g.kill id r m).p = g.p ∧
    (g.kill id r m).a = g.a ∧ (g.kill id r m).x = g.x ∧ (g.kill id r m).splits = g.splits := by
  have h := Group.unmark_kill g id r m
  simp only [Group.unmark, Group.mk.injEq] at h
  simp [h]

theorem Group.kill_s (g : Group) (id : Nat) (r : Reg) (m : Mask) : (g.kill id r m).s = g.s := (g.kill_regs id r m).1

/-- A mark by a word that issues outside a handler is on the issued instructions alone. -/
theorem Group.kill_plain (g : Group) (r : Reg) (m : Mask) (ha : g.again = none) (hf : g.after = []) (h : g.frame = none) :
    g.kill g.nextId r m = { g with pends := killPends none g.nextId r m g.pends } := by
  cases g
  simp_all [Group.kill, killAgain]

/-- In a handler it is also on the saved registers that the handler has written. -/
theorem Group.kill_handler (g : Group) (r : Reg) (m : Mask) (f : Machine.Frame) (h : g.frame = some f) :
    g.kill g.nextId r m = { g with
      pends := killPends (some f.mark) g.nextId r m g.pends, hidden := if r.saved then (r, m) :: g.hidden else g.hidden } := by
  cases g
  simp_all only [Group.kill, Option.map_some, Nat.le_refl, or_true, if_true]
  split <;> rfl

theorem putUnis_file (id : Nat) : ∀ (ws : List (Nat × Word)) (g : Group),
    (ws.foldl (fun g e => if e.1 < 60 then (g.putS e.1 e.2).kill id (.s e.1) 1 else g) g).s = uniFile g.s ws
  | [], _ => rfl
  | e :: t, g => by
    simp only [List.foldl_cons]
    rw [putUnis_file id t]
    by_cases h : e.1 < 60 <;> simp [h, uniFile, Group.kill_s, Group.putS]

theorem putUnis_unmark (id : Nat) : ∀ (ws : List (Nat × Word)) (g : Group),
    (ws.foldl (fun g e => if e.1 < 60 then (g.putS e.1 e.2).kill id (.s e.1) 1 else g) g).unmark =
      { g.unmark with s := uniFile g.s ws }
  | [], _ => rfl
  | e :: t, g => by
    simp only [List.foldl_cons]
    rw [putUnis_unmark id t]
    by_cases h : e.1 < 60
    · have h1 : ((g.putS e.1 e.2).kill id (.s e.1) 1).unmark = (g.putS e.1 e.2).unmark := Group.unmark_kill _ _ _ _
      simp only [h, if_true, h1, Group.kill_s, uniFile, List.foldl_cons]
      rfl
    · simp [h, uniFile]

/-- Uniform writes change the uniform file and, for s60 to s62, the split's mask, and leave marks (R42); nothing else. -/
theorem Group.putUnis_unmark (g : Group) (id : Nat) (ws : List (Nat × Word)) :
    (g.putUnis id ws).unmark =
      { g.unmark with
        s := uniFile g.s ws,
        splits := if ws.any (fun e => 60 ≤ e.1 ∧ e.1 < 63) then mput g.splits g.cur { g.split with mask := g.masksAfter ws }
          else g.splits } := by
  unfold Group.putUnis
  rw [Machine.putUnis_unmark]
  split <;> simp [Group.setSplit, Group.unmark, *]

theorem Group.putUnis_s (g : Group) (id : Nat) (ws : List (Nat × Word)) : (g.putUnis id ws).s = uniFile g.s ws := by
  unfold Group.putUnis
  rw [putUnis_file]
  split <;> rfl

/-- Uniform writes under the checks of R19 and R18. -/
theorem writeUnis_ok {s : State} {ex : Bool} {ws : List (Nat × Word)} (hw : ex = true ∨ s.G.whole = true)
    (he : s.G.emptiesMask ws = false) : writeUnis s ex ws = .ok (s.setG (s.G.putUnis s.G.nextId ws)) := by
  unfold writeUnis
  rcases hw with rfl | h <;> simp [*]

theorem writeAff_ok {s : State} {d : Nat} {a : Aff} (hw : s.G.whole = true) :
    writeAff s d a = .ok (s.setG (s.G.putA d a)) := by simp [writeAff, hw]

/-! ### Varying and predicate writes (R25) -/

/-- The group after a varying write: one row, and marks; nothing else. -/
theorem Group.putV_eq (g : Group) (id n : Nat) (m : Mask) (f : Nat → Word) :
    g.putV id n m f =
      { g.kill id (.v n) m with
        t := if 124 ≤ n then mput g.t (n - 124) (mergeRow (g.row n) m f) else g.t,
        v := if 124 ≤ n then g.v else mput g.v n (mergeRow (g.row n) m f) } := by
  obtain ⟨_, hv, ht, _⟩ := g.kill_regs id (.v n) m
  unfold Group.putV
  simp only
  split
  · rw [ht]; generalize g.kill id (.v n) m = k at *; cases k; simp_all
  · rw [hv]; generalize g.kill id (.v n) m = k at *; cases k; simp_all

theorem lanes96_getD (f : Nat → Word) (i : Nat) (h : i < 96) : (mkRow f).at i = f i := by
  simp [mkRow, Row.at, lanes96, h]

/-- A merged row: the new value in the lanes written, the old one elsewhere. -/
theorem mergeRow_at (r : Row) (m : Mask) (f : Nat → Word) (i : Nat) (h : i < 96) :
    (mergeRow r m f).at i = if m.getLsbD i then f i else r.at i := lanes96_getD _ i h

theorem ofBoolListLE_bit : ∀ (l : List Bool) (i : Nat), (BitVec.ofBoolListLE l).getLsbD i = l.getD i false
  | [], i => by simp [BitVec.ofBoolListLE]
  | b :: t, i => by
    cases i with
    | zero => simp [BitVec.ofBoolListLE]
    | succ k => simp [BitVec.ofBoolListLE, ofBoolListLE_bit t k]

/-- A test over the lanes as a mask. -/
theorem maskOf_bit (f : Nat → Bool) (i : Nat) (h : i < 96) : (maskOf f).getLsbD i = f i := by
  rw [maskOf, BitVec.getLsbD_setWidth, ofBoolListLE_bit]
  simp [lanes96, h]

end Sys2Proof.Machine
end

