-- ==== Sys2Proof/Laws/Slices.lean ====
section
/-! SUPPORT. What the lines that a slice caches (R315) touch: no memory, no group, no task; of the cluster caches only clean copies. -/

namespace Sys2Proof.Machine

/-- An access at a slice touches the lines it caches, the free values and the cluster caches. -/
theorem sliceTouch_rest (s : State) (pline : Nat) :
    { sliceTouch s pline with slices := s.slices, free := s.free, clusters := s.clusters } = s := by
  unfold sliceTouch
  simp only
  split
  · rfl
  · split
    · rfl
    · split <;> rfl

/-- The same of a read at a line's home. -/
theorem touchHome_rest (s : State) (home : Option Nat) (pline : Nat) :
    { touchHome s home pline with slices := s.slices, free := s.free, clusters := s.clusters } = s := by
  unfold touchHome
  split
  · exact sliceTouch_rest s pline
  · rfl

@[simp] theorem sliceTouch_mem (s : State) (pline : Nat) : (sliceTouch s pline).mem = s.mem := by
  have h := congrArg State.mem (sliceTouch_rest s pline)
  exact h

@[simp] theorem sliceTouch_groups (s : State) (pline : Nat) : (sliceTouch s pline).groups = s.groups := by
  have h := congrArg State.groups (sliceTouch_rest s pline)
  exact h

@[simp] theorem sliceTouch_cur (s : State) (pline : Nat) : (sliceTouch s pline).cur = s.cur := by
  have h := congrArg State.cur (sliceTouch_rest s pline)
  exact h

@[simp] theorem sliceTouch_tasks (s : State) (pline : Nat) : (sliceTouch s pline).tasks = s.tasks := by
  have h := congrArg State.tasks (sliceTouch_rest s pline)
  exact h

@[simp] theorem sliceTouch_bad (s : State) (pline : Nat) : (sliceTouch s pline).bad = s.bad := by
  have h := congrArg State.bad (sliceTouch_rest s pline)
  exact h

@[simp] theorem touchHome_mem (s : State) (home : Option Nat) (pline : Nat) : (touchHome s home pline).mem = s.mem := by
  have h := congrArg State.mem (touchHome_rest s home pline)
  exact h

@[simp] theorem touchHome_groups (s : State) (home : Option Nat) (pline : Nat) : (touchHome s home pline).groups = s.groups := by
  have h := congrArg State.groups (touchHome_rest s home pline)
  exact h

@[simp] theorem touchHome_cur (s : State) (home : Option Nat) (pline : Nat) : (touchHome s home pline).cur = s.cur := by
  have h := congrArg State.cur (touchHome_rest s home pline)
  exact h

@[simp] theorem touchHome_tasks (s : State) (home : Option Nat) (pline : Nat) : (touchHome s home pline).tasks = s.tasks := by
  have h := congrArg State.tasks (touchHome_rest s home pline)
  exact h

end Sys2Proof.Machine
end

