-- ==== Sys2Proof/Tests/Slice0.lean ====
section
/-! SUPPORT. Tests: words written out from the encoding tables of the spec decode to what they stand for; ill-formed terms
are refused; single steps on small states; and for every statement with hypotheses a state and operands that meet them all
together. -/

namespace Sys2Proof.Tests

set_option Elab.async false

open Sys2Proof Sys2Proof.Machine Sys2Proof.Claims

/-- A launched task's group in a clause of five words, 32 lanes active, nothing pending. -/
noncomputable def s0 : State :=
  let s := State.reset.withFetchWord 32 0
  s.setG { s.G with clause := s.G.clause.map (fun c => { c with len := 5 }) }

/-- `s0` with its group changed. -/
noncomputable def on (f : Group → Group) : State := s0.setG (f s0.G)

/-- The same in a clause of `n` words, for the words that end a clause. -/
noncomputable def last (n : Nat) (f : Group → Group) : State :=
  on (fun g => f { g with clause := g.clause.map (fun c => { c with len := n }) })

/-- The group's clause names the flags `a` and `b`. -/
def flagged (a b : Nat) (g : Group) : Group := { g with clause := g.clause.map (fun c => { c with fa := a, fb := b }) }

/-- The group's split with another mask, and a second split with the other lanes. -/
def masked (m : Mask) (g : Group) : Group :=
  { g with splits := [(0, { g.split with mask := m }), (1, { g.split with mask := 0xFFFFFFFF - m })] }

/-- The group in a handler that it has just entered. -/
def inTrap (g : Group) : Group :=
  { g with frame := some { g.makeFrame none true none with mark := g.nextId }, level := 1, nextId := g.nextId + 1 }

/-- A word of shape `sh` issues in `s`. -/
theorem issues {i : Instr} {s : State} {sh : Shape} {c : Clause} (h1 : i.shape = some sh) (h2 : s.G.clause = some c)
    (h3 : s.G.blocked = false) (h4 : issueCode s.G c sh = none)
    (h5 : s.G.notReady sh = false) (h6 : s.G.ovr = none)
    (h7 : s.G.again = none := by rfl) (h8 : s.G.after = [] := by rfl) : Issues i s :=
  ⟨sh, c, h1, h2, h3, h4, h5, h6, h7, h8⟩

/-! Words from the spec's encodings. -/

/-- The instructions that stand in `n` places at the front of a list of words that holds no others. -/
noncomputable def decodeAll : Nat → List Word → Option (List Instr)
  | 0, [] => some []
  | 0, _ :: _ => none
  | n + 1, ws =>
    match decode ws with
    | .ok (i, rest) => (decodeAll n rest).map (i :: ·)
    | .error _ => none

/-- The words are those of the instructions. -/
def Reads (ws : List Word) (is : List Instr) : Prop := decodeAll is.length ws = some is

/-- Why the decoder refuses. -/
noncomputable def refuses (ws : List Word) : Option Reject :=
  match decode ws with
  | .ok _ => none
  | .error e => some e

/-- R85, R88: the words with literals, from the opcode map: c = 13, then s12 and s14:s15. -/
theorem test_decode_literals : Reads
    [0x0400D000, 6, 0x0400D001, 7, 0x0400D002, 8, 0x0400D003, 9, 0x2C600000, 7, 0x2C700001, 0x89ABCDEF, 0x01234567]
    [.braLikely 13 6, .braUnlikely 13 7, .braUniform 13 8, .bra 13 9, .slit 12 7, .slit64 14 0x89ABCDEF 0x01234567] := by
  rfl

/-- The affine example of chapter 06. -/
theorem test_example_stride_demo : Reads
    [0x48000000, 0x44000050, 0x48000002, 0x48200003, 0x48082001, 0x4C401001, 0x680800E2, 0x4C301002, 0x4C380000, 0x10000001]
    [.utoa 0 0, .astride 0 0 2, .atov 0 0, .atou 4 0, .utov 1 2, .vtouEq 8 1, .vcmpLtI32 1 0 7, .elect 6 1, .readfirst 7 0,
      .exit] := by
  rfl

/-- The table of chapter 07; v[x0+0] is field 0x40. -/
theorem test_example_lane_table : Reads
    [0x48000004, 0x48000002, 0x8C080002, 0x48100001, 0x642800E0, 0x642850E3, 0x603060A0, 0x6C006002, 0xE0804103, 0x8C684028]
    [.lanea 0, .atov 0 0, .i2fI32 1 0, .utov 2 0, .vand 5 0 7, .vshl 5 5 7, .vadd 6 6 5, .xset 0 6, .ffma 4 1 2 3,
      .f2h 13 4 1] := by
  rfl

/-- The division of chapter 08 and its SHFL example. -/
theorem test_example_spread_demo : Reads
    [0x74101098, 0x74386030, 0x742000A8, 0x74607015, 0x7430212D]
    [.spread 2 1 4, .reduce 7 6 1, .shflDown 4 0 5 .w16, .voteAll 12 7, .shflXor 6 2 9 .w32] := by
  rfl

/-- The histogram of chapter 09 and its encoding examples. -/
theorem test_example_histogram : Reads
    [0x48080000, 0x40081000, 0xA0081180, 0x4810D001, 0x64001043, 0xB0061060, 0xBC00000E, 0xA040328A, 0xBC000004, 0xBC000017]
    [.utoa 1 0, .aadd 1 1 0, .ld 1 1 12 .b8 false, .utov 2 13, .vshl 0 1 2, .atomAddI32 0 97 3 .relaxed,
      .fence .rel .package, .ld 8 3 20 .b32 true, .fence .acq .cluster, .fence .full .fabric] := by
  rfl

/-- The encoding examples of chapter 10. -/
theorem test_example_engine : Reads [0xC0010501, 0xC0B00012, 0xC0015016, 0xC0B9501A]
    [.gather 16 40, .batchMatrix 22, .bwaitGather 21, .bstatCopy 23 21] := by
  rfl

/-- The keys of chapter 11. -/
theorem test_example_keys : Reads [0xC4200044, 0xC4304009, 0xC4406002, 0xC4506003, 0xC4604001]
    [.kchild 4 0 2, .knbrXp 6 4, .klevel 8 6, .kparent 10 6, .kdec 12 4] := by
  rfl

/-- The handler of chapter 12. -/
theorem test_example_handler : Reads [0x2C600000, 5, 0x1400C000, 0x10000001, 0x24A3500B, 0x2DC00000, 10, 0xD0AB8000, 0xD0000005]
    [.slit 12 5, .trap 12, .exit, .smov 20 53, .slit 56 10, .sysrd 21 56, .eret] := by
  rfl

/-- The loop and the choice of chapter 15; t0 to t2 are the fields 124 to 126. -/
theorem test_example_hamming : Reads
    [0x21004341, 0x2509B403, 0x21E21361, 0xA0001390, 0x4BE0C001, 0x67E80F82, 0x6487D009, 0x67F7D009, 0x60810FC0, 0x74B18212,
      0x29116284, 0x251A3440, 0x68092260, 0x04001002, 0xFFFFFFD8, 0xA4A0238C]
    [.ssub 32 4 26, .sshl 33 27 32, .ssub 60 33 27, .ld 0 1 28 .b128 false, .utov 124 12, .vxor 125 0 124, .vpopc 16 125,
      .vpopc 126 125, .vadd 16 16 126, .reduceMini 22 24 16, .ssetLtN32 34 22 20, .sand 35 35 34, .vcmpEq 1 18 19,
      .braUniform 1 0xFFFFFFD8, .st 20 2 28 .b64] := by
  rfl

/-- Row gather and sampled products, chapters 16 and 17. -/
theorem test_example_gather_sddmm : Reads
    [0xAC01C2A8, 0xAC00000C, 0xC0028381, 0xC1000011, 0xAC01C2CA, 0xAC20B4C4, 0xC0020016, 0xC192001B, 0xC000A5C5, 0xC1680013,
      0x744061F8, 0xAC707292, 0xC00205C0, 0xC00305C3, 0xC00285C4]
    [.boset 28 21, .bar, .gather 40 28, .batchGather 32, .bowait 28 22, .ldp 4 11 38 .b128, .bwaitGather 32,
      .bstatGather 50 32, .idxwalk 10 46, .batchIndex 45, .spread 8 6 15, .stp 14 7 20 .b32, .cpy 32 46, .mma 48 46,
      .mmadrain 40 46] := by
  rfl

/-- The mesh of chapter 21. -/
theorem test_example_mesh : Reads
    [0xC4080010, 0xC4000013, 0xC4808005, 0xC4004072, 0xC470C014, 0xC4A0A005, 0xCC800500, 0xCD80E0C3, 0xCCC10083, 0xCC010006,
      0xC4100011]
    [.krefine 1 0, .kcommit, .klocate 16 8, .kcost 4 3, .krebal 14 12, .klocate 20 10, .rinvKey 16 0 40, .rawait 48 14 6,
      .rawait 24 16 4, .rdrop 16, .kcoarsen 2 0] := by
  rfl

/-- The pre-emption pair of chapter 19. -/
theorem test_example_preemption : Reads
    [0xA0000388, 0x440001C0, 0x208101E0, 0x4CA00000, 0x2060C280, 0x28890044, 0xA420138C, 0x44000182, 0xA4103388]
    [.ld 0 0 28 .b32 false, .aaddu 0 0 14, .sadd 16 16 15, .readfirst 20 0, .sadd 12 12 20, .ssetLtN32 17 16 2,
      .st 4 1 28 .b64, .amulu 0 0 12, .st 2 3 28 .b32] := by
  rfl

/-- R81, R84: a reserved cell, an unused field that is not zero, a missing literal; a clause header is no instruction. -/
theorem test_decode_refuses : refuses [0xD4000000] = some .reservedCell ∧ refuses [0x1C000000] = some .reservedCell ∧
    refuses [0x3FE] = some .reservedCell ∧ refuses [0x10000021] = some .unusedField ∧ refuses [0x08081001] = some .unusedField ∧
    refuses [0x2C600000] = some .truncated ∧ refuses [0x2C700001, 1] = some .truncated :=
  ⟨rfl, rfl, rfl, rfl, rfl, rfl, rfl⟩

/-- R73 and the headers of chapters 03, 07, 15 and 16. -/
theorem test_headers : decodeHeader 0x9FE = some ⟨0, 4, 15, 15⟩ ∧ decodeHeader 0x3FE = some ⟨0, 1, 15, 15⟩ ∧
    decodeHeader 0x19E0 = some ⟨0, 12, 15, 0⟩ ∧ decodeHeader 0x4BFE = some ⟨1, 5, 15, 15⟩ ∧
    decodeHeader 0x23E4 = some ⟨0, 17, 15, 2⟩ ∧ decodeHeader 0x1127E = some ⟨4, 9, 3, 15⟩ ∧ decodeHeader 0 = none ∧
    decodeHeader 0x33FE = none ∧ decodeHeader 0x040003FE = none ∧ encodeHeader ⟨4, 9, 3, 15⟩ = 0x1127E := by
  decide

/-- `decodeTableWord` reads the numbering of the opcode table: the literal above the first word. -/
theorem test_table_word : decodeTableWord 32 0x20680180 = some (.sadd 13 0 12) ∧
    decodeTableWord 64 0x72C600000 = some (.slit 12 7) ∧ decodeTableWord 32 0x2C600000 = some (.slit 12 0) ∧
    decodeTableWord 96 0x1234567_89ABCDEF_2C700001 = some (.slit64 14 0x89ABCDEF 0x01234567) :=
  ⟨rfl, rfl, rfl, rfl⟩

/-! R80, R22: ill-formed operands. -/

/-- A field outside its kind, one for each kind. -/
theorem test_ill_formed : (Instr.sadd 64 0 1).wellFormed = false ∧ (Instr.sadd64 13 0 2).wellFormed = false ∧
    (Instr.spawn 0 9 8).wellFormed = false ∧ (Instr.aadd 16 0 0).wellFormed = false ∧ (Instr.vadd 1 2 123).wellFormed = true ∧
    (Instr.ppush 8).wellFormed = false ∧ (Instr.xset 4 0).wellFormed = false ∧ (Instr.getfmt 0 4).wellFormed = false ∧
    (Instr.bra 24 0).wellFormed = false ∧ (Instr.bra 127 0).wellFormed = true := by
  decide +kernel

/-- A number out of the machine's range, one for each kind of row without an encoding. -/
theorem test_event_range : (Instr.walkerStart 96).wellFormed = false ∧ (Instr.bankroleSwitch 0 64).wellFormed = false ∧
    (Instr.homeAcknowledge 768 0).wellFormed = false ∧ (Instr.quarterSwitch 0 4).wellFormed = false ∧
    (Instr.handleTimeout 0 65536).wellFormed = false ∧ (Instr.mailboxAccept 512).wellFormed = false ∧
    (Instr.counterSet 0 4096 0).wellFormed = false ∧ (Instr.flitReceive 0 [1]).wellFormed = false ∧
    (Instr.portDown 16).wellFormed = false ∧ (Instr.functionLevelReset 64).wellFormed = false ∧
    (Instr.claim 65 0).wellFormed = false ∧ (Instr.attestRequest 0 [1]).wellFormed = false ∧
    (Instr.mgmtRegisterWrite 0 0xFFFFFF [1, 2]).wellFormed = false ∧
    (Instr.mailboxSlotWrite 0 0 0x1FFF [1, 2]).wellFormed = false ∧ (Instr.walkerStart 95).wellFormed = true := by
  decide +kernel

/-! One word for every row of the opcode map (R85 to R93, R71 to R74): the row's fixed bits with D = 83, A = 44, B = 25, C = 102,
and where a row has a modifier W64, 64 bits, bypass, mode 2, release, or full and cluster. -/

theorem test_decode_nop : Reads [0x00000000]
    [.nop] := by
  rfl

theorem test_decode_branches : Reads [0x0402C324, 0x069AC325, 0x0402C006]
    [.brx 44 25, .call 83 44 25, .ret 44] := by
  rfl

theorem test_decode_predicate_stack : Reads [0x0802C000, 0x08000001, 0x08000002]
    [.ppush 44, .pinv, .ppop] := by
  rfl

theorem test_decode_modes : Reads [0x0C02C000, 0x0E980001, 0x0E9AC002, 0x0E9AC003]
    [.setmode 44, .getmode 83, .setfmt 83 44, .getfmt 83 44] := by
  rfl

theorem test_decode_spawn_exit : Reads [0x129AC320, 0x10000001, 0x10000002]
    [.spawn 83 44 25, .exit, .yield] := by
  rfl

theorem test_decode_traps : Reads [0x1402C000, 0x14000001]
    [.trap 44, .bkpt] := by
  rfl

theorem test_decode_uniform_arithmetic : Reads [0x229AC320, 0x229AC321, 0x229AC322, 0x229AC323, 0x229AC324, 0x229AC325, 0x229AC326, 0x229AC327,
      0x229AC328, 0x229AC329, 0x229AC32A, 0x229AC32B, 0x229AC32C, 0x229AC32D, 0x229AC32E, 0x229AC32F,
      0x229AC330]
    [.sadd 83 44 25, .ssub 83 44 25, .smul 83 44 25, .smulhiI32 83 44 25, .smulhiN32 83 44 25,
      .sdivI32 83 44 25, .sdivN32 83 44 25, .sremI32 83 44 25, .sremN32 83 44 25, .sminI32 83 44 25,
      .sminN32 83 44 25, .smaxI32 83 44 25, .smaxN32 83 44 25, .saddSatI32 83 44 25, .saddSatN32 83 44 25,
      .ssubSatI32 83 44 25, .ssubSatN32 83 44 25] := by
  rfl

theorem test_decode_uniform_bits : Reads [0x269AC320, 0x269AC321, 0x269AC322, 0x269AC323, 0x269AC324, 0x269AC325, 0x269AC008, 0x269AC009,
      0x269AC00A, 0x269AC00B]
    [.sand 83 44 25, .sor 83 44 25, .sxor 83 44 25, .sshl 83 44 25, .sshrN32 83 44 25, .sshrI32 83 44 25,
      .snot 83 44, .spopc 83 44, .sclz 83 44, .smov 83 44] := by
  rfl

theorem test_decode_uniform_compares : Reads [0x2A9AC320, 0x2A9AC321, 0x2A9AC322, 0x2A9AC323, 0x2A9AC324, 0x2A9AC325]
    [.ssetEq 83 44 25, .ssetNe 83 44 25, .ssetLtI32 83 44 25, .ssetLeI32 83 44 25, .ssetLtN32 83 44 25,
      .ssetLeN32 83 44 25] := by
  rfl

theorem test_decode_uniform_64 : Reads [0x329AC320, 0x329AC321, 0x329AC322, 0x329AC323]
    [.sadd64 83 44 25, .ssub64 83 44 25, .sshl64 83 44 25, .sshr64 83 44 25] := by
  rfl

theorem test_decode_affine : Reads [0x429AC320, 0x429AC321, 0x429AC328, 0x429AC329, 0x429AC010]
    [.aadd 83 44 25, .asub 83 44 25, .aaddC 83 44 25, .asubC 83 44 25, .amov 83 44] := by
  rfl

theorem test_decode_affine_uniform : Reads [0x469AC320, 0x469AC321, 0x469AC322, 0x469AC323, 0x469AC328, 0x469AC329, 0x469AC32A, 0x469AC32B,
      0x469AC330]
    [.aaddu 83 44 25, .asubu 83 44 25, .amulu 83 44 25, .ashlu 83 44 25, .aadduC 83 44 25, .asubuC 83 44 25,
      .amuluC 83 44 25, .ashluC 83 44 25, .astride 83 44 25] := by
  rfl

theorem test_decode_promotions : Reads [0x4A9AC000, 0x4A9AC001, 0x4A9AC002, 0x4A9AC003, 0x4A980004]
    [.utoa 83 44, .utov 83 44, .atov 83 44, .atou 83 44, .lanea 83] := by
  rfl

theorem test_decode_to_uniform : Reads [0x4E9AC000, 0x4E9AC001, 0x4E9AC002]
    [.readfirst 83 44, .vtouEq 83 44, .elect 83 44] := by
  rfl

theorem test_decode_varying_arithmetic : Reads [0x629AC320, 0x629AC321, 0x629AC322, 0x629AC323, 0x629AC324, 0x629AC329, 0x629AC32A, 0x629AC32B,
      0x629AC32C, 0x629AC32D, 0x629AC32E, 0x629AC32F, 0x629AC330]
    [.vadd 83 44 25, .vsub 83 44 25, .vmul 83 44 25, .vmulhiI32 83 44 25, .vmulhiN32 83 44 25,
      .vminI32 83 44 25, .vminN32 83 44 25, .vmaxI32 83 44 25, .vmaxN32 83 44 25, .vaddSatI32 83 44 25,
      .vaddSatN32 83 44 25, .vsubSatI32 83 44 25, .vsubSatN32 83 44 25] := by
  rfl

theorem test_decode_varying_bits : Reads [0x669AC320, 0x669AC321, 0x669AC322, 0x669AC323, 0x669AC324, 0x669AC325, 0x669AC326, 0x669AC327,
      0x669AC008, 0x669AC009, 0x669AC00A, 0x669AC00B, 0x669AC00C, 0x669AC32D]
    [.vand 83 44 25, .vor 83 44 25, .vxor 83 44 25, .vshl 83 44 25, .vshrN32 83 44 25, .vshrI32 83 44 25,
      .vbfeN32 83 44 25, .vbfeI32 83 44 25, .vnot 83 44, .vpopc 83 44, .vclz 83 44, .vmov 83 44, .vbrev 83 44,
      .vbfi 83 44 25] := by
  rfl

theorem test_decode_varying_compares_predicates : Reads [0x6A9AC320, 0x6A9AC321, 0x6A9AC322, 0x6A9AC323, 0x6A9AC324, 0x6A9AC325, 0x6A9AC328, 0x6A9AC329,
      0x6A9AC32A, 0x6A9AC00B, 0x6A9AC00C]
    [.vcmpEq 83 44 25, .vcmpNe 83 44 25, .vcmpLtI32 83 44 25, .vcmpLeI32 83 44 25, .vcmpLtN32 83 44 25,
      .vcmpLeN32 83 44 25, .pand 83 44 25, .por 83 44 25, .pxor 83 44 25, .pnot 83 44, .pmov 83 44] := by
  rfl

theorem test_decode_index_registers : Reads [0x6E9AC000, 0x6E9AC001, 0x6E9AC002, 0x6E9AC003, 0x6E9AC324]
    [.vxrd 83 44, .vxwr 83 44, .xset 83 44, .xget 83 44, .xadd 83 44 25] := by
  rfl

theorem test_decode_random : Reads [0x729AC320]
    [.vrand 83 44 25] := by
  rfl

theorem test_decode_cross_lane : Reads [0x769AC322, 0x769AC326, 0x769AC32A, 0x769AC32E, 0x769AC330, 0x769AC331, 0x769AC332, 0x769AC333,
      0x769AC334, 0x769AC015, 0x769AC016, 0x769AC017, 0x769AC338]
    [.shflIdx 83 44 25 .w64, .shflUp 83 44 25 .w64, .shflDown 83 44 25 .w64, .shflXor 83 44 25 .w64,
      .reduce 83 44 25, .reduceVarying 83 44 25, .reduceMini 83 44 25, .scan 83 44 25, .scanExcl 83 44 25,
      .voteAll 83 44, .voteAny 83 44, .ballot 83 44, .spread 83 44 25] := by
  rfl

theorem test_decode_float_arithmetic : Reads [0x829AC320, 0x829AC321, 0x829AC322, 0x829AC323, 0x829AC324, 0x829AC008, 0x829AC009, 0x829AC00A]
    [.fadd 83 44 25, .fsub 83 44 25, .fmul 83 44 25, .fmin 83 44 25, .fmax 83 44 25, .fabs 83 44, .fneg 83 44,
      .frint 83 44] := by
  rfl

theorem test_decode_float_compares : Reads [0x869AC320, 0x869AC321, 0x869AC322, 0x869AC323, 0x869AC324]
    [.fcmpEq 83 44 25, .fcmpNe 83 44 25, .fcmpLt 83 44 25, .fcmpLe 83 44 25, .fcmpUn 83 44 25] := by
  rfl

theorem test_decode_half_pairs : Reads [0x8A9AC320, 0x8A9AC321, 0x8A9AC322, 0x8A9AC323, 0x8A9AC324, 0x8A9AC325]
    [.hadd 83 44 25, .hsub 83 44 25, .hmul 83 44 25, .hmin 83 44 25, .hmax 83 44 25, .hfma 83 44 25] := by
  rfl

theorem test_decode_conversions : Reads [0x8E9AC000, 0x8E9AC001, 0x8E9AC002, 0x8E9AC003, 0x8E9AC004, 0x8E9AC005, 0x8E9AC328]
    [.f2iI32 83 44, .f2iN32 83 44, .i2fI32 83 44, .i2fN32 83 44, .h2fLo 83 44, .h2fHi 83 44, .f2h 83 44 25] := by
  rfl

theorem test_decode_float_functions : Reads [0x929AC000, 0x929AC001, 0x929AC002, 0x929AC003, 0x929AC004, 0x929AC005, 0x929AC006]
    [.frcp 83 44, .frsq 83 44, .fsqrt 83 44, .fexp2 83 44, .flog2 83 44, .fsin 83 44, .fcos 83 44] := by
  rfl

theorem test_decode_loads : Reads [0xA29AC32E, 0xA29AC00F]
    [.ld 83 44 25 .b64 true, .ldVaryingAddress 83 44 .b64 true] := by
  rfl

theorem test_decode_stores : Reads [0xA69AC32C, 0xA69AC00D]
    [.st 83 44 25 .b64, .stVaryingAddress 83 44 .b64] := by
  rfl

theorem test_decode_pattern_accesses : Reads [0xAA9AC32A, 0xAA9AC00B, 0xAA9AC338, 0xAA9AC019]
    [.ldc 83 44 25 2 true, .ldcVaryingAddress 83 44 2 true, .stc 83 44 25 2, .stcVaryingAddress 83 44 2] := by
  rfl

theorem test_decode_pool_and_barriers : Reads [0xAE9AC323, 0xAE9AC333, 0xAC02C328, 0xAC02C329, 0xAC02C32A, 0xAE9AC32B, 0xAC00000C, 0xAC02C00D]
    [.ldp 83 44 25 .b64, .stp 83 44 25 .b64, .boset 44 25, .boadd 44 25, .bowait 44 25, .bopoll 83 44 25,
      .bar, .pref 44] := by
  rfl

theorem test_decode_atomics : Reads [0xB29AC322, 0xB29AC326, 0xB29AC32A, 0xB29AC32E, 0xB29AC332, 0xB29AC336, 0xB29AC33A, 0xB29AC33E]
    [.atomAddI32 83 44 25 .rel, .atomAddF32 83 44 25 .rel, .atomMinI32 83 44 25 .rel,
      .atomMinN32 83 44 25 .rel, .atomMaxI32 83 44 25 .rel, .atomMaxN32 83 44 25 .rel, .atomXchg 83 44 25 .rel,
      .atomCas 83 44 25 .rel] := by
  rfl

theorem test_decode_atomics_bits : Reads [0xB69AC322, 0xB69AC326, 0xB69AC32A]
    [.atomAnd 83 44 25 .rel, .atomOr 83 44 25 .rel, .atomXor 83 44 25 .rel] := by
  rfl

theorem test_decode_queues : Reads [0xB802C320, 0xB802C321, 0xBA9AC002, 0xBA9AC003, 0xBA9AC004]
    [.qpush 44 25, .qpushUniform 44 25, .qpop 83 44, .qpopUniform 83 44, .qpopElect 83 44] := by
  rfl

theorem test_decode_fence : Reads [0xBC000014]
    [.fence .full .cluster] := by
  rfl

theorem test_decode_engines : Reads [0xC002C320, 0xC002C321, 0xC002C322, 0xC002C323, 0xC002C324, 0xC002C325, 0xC002C326, 0xC002C327,
      0xC002C328, 0xC2980010, 0xC2980011, 0xC2980012, 0xC2980013, 0xC2980014, 0xC002C015, 0xC002C016,
      0xC002C017, 0xC002C018, 0xC002C019, 0xC29AC01A, 0xC29AC01B, 0xC29AC01C, 0xC29AC01D, 0xC29AC01E]
    [.cpy 44 25, .gather 44 25, .scatter 44 25, .mma 44 25, .mmadrain 44 25, .idxwalk 44 25, .cstore 44 25,
      .cload 44 25, .coll 44 25, .batchCopy 83, .batchGather 83, .batchMatrix 83, .batchIndex 83,
      .batchColl 83, .bwaitCopy 44, .bwaitGather 44, .bwaitMatrix 44, .bwaitIndex 44, .bwaitColl 44,
      .bstatCopy 83 44, .bstatGather 83 44, .bstatMatrix 83 44, .bstatIndex 83 44, .bstatColl 83 44] := by
  rfl

theorem test_decode_keys : Reads [0xC69AC000, 0xC69AC001, 0xC69AC002, 0xC69AC003, 0xC69AC324, 0xC69AC005, 0xC69AC006, 0xC69AC008,
      0xC69AC009, 0xC69AC00A, 0xC69AC00B, 0xC69AC00C, 0xC69AC00D, 0xC69AC010, 0xC69AC011, 0xC402C332,
      0xC4000013, 0xC69AC014]
    [.kenc 83 44, .kdec 83 44, .klevel 83 44, .kparent 83 44, .kchild 83 44 25, .klocate 83 44, .kowner 83 44,
      .knbrXm 83 44, .knbrXp 83 44, .knbrYm 83 44, .knbrYp 83 44, .knbrZm 83 44, .knbrZp 83 44, .krefine 83 44,
      .kcoarsen 83 44, .kcost 44 25, .kcommit, .krebal 83 44] := by
  rfl

theorem test_decode_key_orders : Reads [0xC8000000, 0xC8000001, 0xCA980002]
    [.ordb, .orde, .ordstat 83] := by
  rfl

theorem test_decode_invocations : Reads [0xCE9AC320, 0xCE9AC321, 0xCE9AC322, 0xCE9AC323, 0xCE9AC004, 0xCE9AC005, 0xCC02C006]
    [.rinvKey 83 44 25, .rinvPkg 83 44 25, .rinvHdl 83 44 25, .rawait 83 44 25, .rawaitTrap 83 44,
      .rpoll 83 44, .rdrop 44] := by
  rfl

theorem test_decode_system : Reads [0xD29AC000, 0xD002C321, 0xD002C322, 0xD002C003, 0xD29AC004, 0xD0000005, 0xD2980006, 0xD002C007]
    [.sysrd 83 44, .syswr 44 25, .tlbfill 44 25, .tlbinv 44, .logrd 83 44, .eret, .clock 83, .timewait 44] := by
  rfl

theorem test_decode_ffma : Reads [0xEA6B0CE6]
    [.ffma 83 44 25 102] := by
  rfl

theorem test_decode_imad : Reads [0xFA6B0CE6]
    [.imad 83 44 25 102] := by
  rfl

/-! Single steps whose results the spec states. -/

/-- The state after `i`. -/
noncomputable def run (i : Instr) (s : State) : State :=
  match exec i s with
  | .next t => t
  | _ => s

/-- `s0` with uniform registers. -/
noncomputable def uni (r : List (Nat × Word)) : State := on (fun g => { g with s := r })

/-- Uniform register `n` after `i`. -/
noncomputable def u (i : Instr) (r : List (Nat × Word)) (n : Nat) : Word := (run i (uni r)).G.uni n

/-- R150 and its two corners, and R151. -/
theorem test_uniform_arithmetic : u (.sadd 13 1 2) [(1, 0xFFFFFFFF), (2, 3)] 13 = 2 ∧
    u (.smulhiI32 13 1 2) [(1, 0xFFFFFFFF), (2, 2)] 13 = 0xFFFFFFFF ∧ u (.smulhiN32 13 1 2) [(1, 0xFFFFFFFF), (2, 2)] 13 = 1 ∧
    u (.sdivI32 13 1 2) [(1, 0x80000000), (2, 0xFFFFFFFF)] 13 = 0x80000000 ∧ u (.sdivN32 13 1 2) [(1, 7)] 13 = 0xFFFFFFFF ∧
    u (.sremI32 13 1 2) [(1, 0xFFFFFFF9), (2, 2)] 13 = 0xFFFFFFFF ∧ u (.sremN32 13 1 2) [(1, 7)] 13 = 7 := by
  decide +kernel

theorem test_uniform_saturates : u (.saddSatI32 13 1 2) [(1, 0x7FFFFFFF), (2, 1)] 13 = 0x7FFFFFFF ∧
    u (.saddSatN32 13 1 2) [(1, 0xFFFFFFFF), (2, 1)] 13 = 0xFFFFFFFF ∧
    u (.ssubSatI32 13 1 2) [(1, 0x80000000), (2, 1)] 13 = 0x80000000 ∧ u (.ssubSatN32 13 1 2) [(1, 1), (2, 2)] 13 = 0 ∧
    u (.sminI32 13 1 2) [(1, 0xFFFFFFFF), (2, 1)] 13 = 0xFFFFFFFF ∧ u (.smaxN32 13 1 2) [(1, 0xFFFFFFFF), (2, 1)] 13 = 0xFFFFFFFF := by
  decide +kernel

theorem test_uniform_shifts : u (.sshl 13 1 2) [(1, 1), (2, 20)] 13 = 0x100000 ∧ u (.sshl 13 1 2) [(1, 1), (2, 32)] 13 = 0 ∧
    u (.sshrI32 13 1 2) [(1, 0x80000000), (2, 99)] 13 = 0xFFFFFFFF ∧ u (.sshrN32 13 1 2) [(1, 0x80000000), (2, 31)] 13 = 1 ∧
    u (.sclz 13 1) [(1, 0x00010000)] 13 = 15 ∧ u (.sclz 13 1) [] 13 = 32 ∧ u (.spopc 13 1) [(1, 0xF0F0)] 13 = 8 ∧
    u (.ssetLtI32 13 1 2) [(1, 0xFFFFFFFF)] 13 = 1 ∧ u (.ssetLtN32 13 1 2) [(1, 0xFFFFFFFF)] 13 = 0 := by
  decide +kernel

/-- R148, R154: the carry between the halves; a count of 64. -/
theorem test_uniform_64 : u (.sadd64 14 2 4) [(2, 0xFFFFFFFF), (4, 1)] 15 = 1 ∧ u (.ssub64 14 2 4) [(4, 1)] 15 = 0xFFFFFFFF ∧
    u (.sshl64 14 2 4) [(2, 1), (4, 33)] 15 = 2 ∧ u (.sshr64 14 2 4) [(3, 2), (4, 33)] 14 = 1 ∧
    u (.sshl64 14 2 4) [(2, 1), (4, 64)] 15 = 0 := by
  decide +kernel

/-- The stride example of chapter 06: lanes 27 and 28 of the affine value, its base, and the lowest lane that is negative. -/
noncomputable def strided : State := on (fun g => { g with a := [(0, ⟨0x10000000, 0x04000000⟩)], p := [(1, 0xF0000000)] })
theorem test_affine : ((run (.atov 0 0) strided).G.row 0).at 27 = 0x7C000000 ∧ ((run (.atov 0 0) strided).G.row 0).at 28 = 0x80000000 ∧
    (run (.atou 4 0) strided).G.uni 4 = 0x10000000 ∧ (run (.elect 6 1) strided).G.uni 6 = 28 ∧ (run (.elect 6 2) strided).G.uni 6 = 0xFFFFFFFF ∧
    av (run (.ashlu 1 0 2) strided).G 1 = ⟨0x10000000, 0x04000000⟩ ∧ av (run (.lanea 1) strided).G 1 = ⟨0, 1⟩ := by
  decide +kernel

/-- `s0` with varying registers, each the same word in every lane. -/
noncomputable def vary (mode : Word) (r : List (Nat × Word)) : State :=
  on (fun g => { g with v := r.map (fun p => (p.1, List.replicate 96 p.2)), splits := [(g.cur, { g.split with mode := mode })] })

/-- Lane 3 of varying register `n` after `i`. -/
noncomputable def w3 (i : Instr) (mode : Word) (r : List (Nat × Word)) (n : Nat) : Word := ((run i (vary mode r)).G.row n).at 3

/-- R172 with its example, and the integer forms. -/
theorem test_varying : w3 (.vbfeI32 1 2 3) 0 [(2, 0xF8A0), (3, 0xC04)] 1 = 0xFFFFFF8A ∧ w3 (.vbfeN32 1 2 3) 0 [(2, 0xF8A0), (3, 0xC04)] 1 = 0xF8A ∧
    w3 (.vbfi 1 2 3) 0 [(1, 0xFFFFFFFF), (2, 0), (3, 0x804)] 1 = 0xFFFFF00F ∧ w3 (.vbrev 1 2) 0 [(2, 1)] 1 = 0x80000000 ∧
    w3 (.imad 1 2 3 4) 0 [(2, 3), (3, 5), (4, 0xFFFFFFFF)] 1 = 14 ∧ w3 (.vmulhiN32 1 2 3) 0 [(2, 0x80000000), (3, 4)] 1 = 2 ∧
    (run (.vcmpLtI32 1 2 3) (vary 0 [(2, 0xFFFFFFFF)])).G.pred 1 = 0xFFFFFFFF := by
  decide +kernel

/-- R177 to R183 with the examples of chapters 04 and 07: fused, overflow with and without SAT, signed zero, NaN. -/
theorem test_float : w3 (.ffma 1 2 3 4) 0 [(2, 0x3F800001), (3, 0x3F7FFFFE), (4, 0xBF800000)] 1 = 0xA8800000 ∧
    w3 (.fadd 1 2 2) 0 [(2, 0x7F7FFFFF)] 1 = 0x7F800000 ∧ w3 (.fadd 1 2 2) 0x20 [(2, 0x7F7FFFFF)] 1 = 0x7F7FFFFF ∧
    w3 (.fsub 1 2 2) 3 [(2, 0x3F800000)] 1 = 0x80000000 ∧ w3 (.fmin 1 2 3) 0 [(2, 0x7FC00001), (3, 0x40000000)] 1 = 0x40000000 ∧
    w3 (.fmul 1 2 3) 0 [(2, 0x7F800000)] 1 = 0x7FC00000 ∧ w3 (.fneg 1 2) 0 [(2, 0x3F800000)] 1 = 0xBF800000 ∧
    w3 (.frint 1 2) 0 [(2, 0x40200000)] 1 = 0x40000000 := by
  decide +kernel

/-- The edge values of R115. -/
theorem test_conversions : w3 (.f2iI32 1 2) 0 [(2, 0x4F000000)] 1 = 0x7FFFFFFF ∧ w3 (.f2iI32 1 2) 0 [(2, 0xC0200000)] 1 = 0xFFFFFFFE ∧
    w3 (.f2iN32 1 2) 0 [(2, 0xBF800000)] 1 = 0 ∧ w3 (.i2fN32 1 2) 0 [(2, 0xFFFFFFFF)] 1 = 0x4F800000 ∧
    w3 (.i2fI32 1 2) 0 [(2, 0x7FFFFFFF)] 1 = 0x4F000000 ∧ w3 (.i2fI32 1 2) 1 [(2, 0x7FFFFFFF)] 1 = 0x4EFFFFFF ∧
    w3 (.f2h 1 2 3) 0 [(2, 0x3F808000), (3, 0x7F7FFFFF)] 1 = 0x7F803F80 ∧ w3 (.f2h 1 2 3) 1 [(2, 0x7F7FFFFF)] 1 = 0x00007F7F := by
  decide +kernel

/-- R120 with a key and a counter of zero, and R186. -/
theorem test_philox : philox (0, 0, 0, 0) (0, 0) = (0x6627E8D5, 0xE169C58D, 0xBC57AC4C, 0x9B00DBD8) := by decide +kernel
theorem test_vrand : w3 (.vrand 4 0 8) 0 [] 7 = 0x9B00DBD8 := by decide +kernel

/-- R117: 1.0, 2^24 and 1.0 in the first lanes add up to 2^24. -/
noncomputable def three : State :=
  on (fun g => { masked 7 g with v := [(1, [0x3F800000, 0x4B800000, 0x3F800000])], s := [(6, 1)] })
theorem test_reduce : (run (.reduce 7 6 1) three).G.uni 7 = 0x4B800000 := by decide +kernel

/-- The division of chapter 08: lane i has i mod 4 items, 48 in all; lane 1 owns item 0, lane 2 the next two. -/
noncomputable def division : State :=
  on (fun g => { g with v := [(0, (List.range 32).map (BitVec.ofNat 32)), (1, (List.range 32).map (fun i => BitVec.ofNat 32 (i % 4)))], s := [(5, 3)] })
theorem test_spread : (run (.spread 2 1 4) division).G.uni 4 = 48 ∧ ((run (.spread 2 1 4) division).G.row 2).take 4 = [1, 2, 2, 3] ∧
    ((run (.spread 2 1 4) division).G.row 3).take 4 = [0, 0, 1, 0] ∧ (run (.reduce 7 6 1) division).G.uni 7 = 48 := by decide +kernel

/-- R196: the lane of SHFL.DOWN.W16 wraps in its half. -/
theorem test_shfl : ((run (.shflDown 4 0 5 .w16) division).G.row 4).at 13 = 0 ∧ ((run (.shflDown 4 0 5 .w16) division).G.row 4).at 29 = 16 := by
  decide +kernel

/-- The keys of chapter 11. -/
theorem test_keys : keyChildOf 0x8000000000000001 1 = 0x8400000000000002 ∧ keyNbr 0x8400000000000002 0 true = 0x9000000000000002 ∧
    keyNbr 0x8C00000000000002 0 true = 0x9800000000000002 ∧ keyParent 0x9800000000000002 = 0x9000000000000001 ∧ keyLvl 0x9000000000000002 = 2 ∧
    keyChildOf 0x8000000000000001 4 = 0 := by
  decide +kernel

/-- R126, R128: a branch in the lower half of the lanes divides the split; `.UNLIKELY` runs the lanes that go on first. -/
theorem test_branch : (run (.braUnlikely 1 0) (last 2 (fun g => { g with p := [(1, 0xFFFF)] }))).G.splits.map (fun e => e.2.mask) =
    [0xFFFF0000, 0xFFFF] := by
  decide +kernel

/-- R131: the stack guards the lanes. -/
theorem test_ppush : (run (.ppush 1) (on (fun g => { g with p := [(1, 0xAAAAAAAA)] }))).G.active = 0xAAAAAAAA := by decide +kernel

/-! ### Witnesses: uniform, varying and cross-lane instructions -/

theorem wit_uniform_word : Issues (.sadd 13 0 12) s0 ∧ UniWritable s0.G [(13, 0)] ∧
    uniWord (.sadd 13 0 12) = some (13, fun g => wrap (sv g 0 + sv g 12) 32) :=
  ⟨issues rfl rfl rfl rfl rfl rfl, ⟨rfl, rfl⟩, rfl⟩

theorem wit_uniform_pair : Issues (.slit64 58 5 7) s0 ∧ UniWritable s0.G (pairOut 58 0x700000005).unis :=
  ⟨issues rfl rfl rfl rfl rfl rfl, ⟨rfl, rfl⟩⟩

/-- An affine register with STRIDE 1 and BASE 2^31 − 32 is at the end of the range in lane 31, and past it with one
more. -/
noncomputable def aff (base : DWord) : State := on (fun g => { g with a := [(2, ⟨base, 1⟩)] })

theorem wit_affine_in_range : Issues (.aaddC 1 2 3) (aff 0x7FFFFFE0) ∧
    (aff 0x7FFFFFE0).G.split.mask = (aff 0x7FFFFFE0).G.live ∧ InRange (.aaddC 1 2 3) (aff 0x7FFFFFE0).G := by
  refine ⟨issues rfl rfl rfl rfl rfl rfl, rfl, ?_⟩
  intro f hf k hk
  cases hf
  revert k
  exact of_decide_eq_true rfl

theorem wit_affine_overflow : Issues (.aaddC 1 2 3) (aff 0x7FFFFFE1) ∧
    (aff 0x7FFFFFE1).G.split.mask = (aff 0x7FFFFFE1).G.live ∧
    OutOfRange (.aaddC 1 2 3) (aff 0x7FFFFFE1).G 0x80000000 := by
  refine ⟨issues rfl rfl rfl rfl rfl rfl, rfl, _, rfl, by decide, ?_⟩
  exact of_decide_eq_true rfl

/-- Some live lanes are outside the split's mask; no lane is active under a mask of zero. -/
noncomputable def half : State := on (masked 0xFFFF)
noncomputable def none' : State := on (masked 0)

theorem wit_uniform_under_split : Issues (.sadd 13 0 12) half ∧ half.G.split.mask ≠ half.G.live :=
  ⟨issues rfl rfl rfl rfl rfl rfl, by decide⟩

theorem wit_empty_mask : Issues (.slit 60 0) s0 ∧ s0.G.split.mask = s0.G.live ∧ s0.G.emptiesMask [(60, 0)] = true :=
  ⟨issues rfl rfl rfl rfl rfl rfl, rfl, rfl⟩

/-- Every lane holds its number in v1, and p1 in the even lanes. -/
noncomputable def counting : State :=
  on (fun g => { g with v := [(1, (List.range 32).map (BitVec.ofNat 32))], p := [(1, 0x55555555)] })

theorem wit_readfirst : Issues (.readfirst 13 1) counting ∧ Lowest counting.G 0 ∧
    counting.G.emptiesMask [(13, (counting.G.row 1).at 0)] = false :=
  ⟨issues rfl rfl rfl rfl rfl rfl, ⟨rfl, by simp⟩, rfl⟩

theorem wit_no_lane : Issues (.readfirst 13 1) none' ∧ none'.G.active = 0 := ⟨issues rfl rfl rfl rfl rfl rfl, rfl⟩

theorem wit_vtou_equal : Issues (.vtouEq 13 2) counting ∧ counting.G.split.mask = counting.G.live ∧
    Lowest counting.G 0 ∧ ∀ i, i < 96 → lw counting.G 2 i = lw counting.G 2 0 :=
  ⟨issues rfl rfl rfl rfl rfl rfl, rfl, ⟨rfl, by simp⟩, of_decide_eq_true rfl⟩

theorem wit_vtou_differ : Issues (.vtouEq 13 1) counting ∧ counting.G.split.mask = counting.G.live ∧
    Lowest counting.G 0 ∧ ∀ i, i < 96 → ((0xFFFFFFFE : Mask).getLsbD i = true ↔
      counting.G.active.getLsbD i = true ∧ lw counting.G 1 i ≠ lw counting.G 1 0) :=
  ⟨issues rfl rfl rfl rfl rfl rfl, rfl, ⟨rfl, by simp⟩, of_decide_eq_true rfl⟩

theorem wit_elect : Issues (.elect 13 1) counting ∧ counting.G.emptiesMask [(13, 0)] = false ∧
    counting.G.active.getLsbD 0 = true ∧ pb counting.G 1 0 = true :=
  ⟨issues rfl rfl rfl rfl rfl rfl, rfl, rfl, rfl⟩

/-- The pairs, READFIRST, VTOU.EQ and ELECT that would leave no lane in the mask. -/
theorem wit_empty_mask_forms : Issues (.slit64 60 0 0) s0 ∧ s0.G.emptiesMask (pairOut 60 0).unis = true ∧
    Issues (.readfirst 60 1) counting ∧ Issues (.vtouEq 60 1) counting ∧ Lowest counting.G 0 ∧
    counting.G.emptiesMask [(60, (counting.G.row 1).at 0)] = true ∧ Issues (.elect 60 1) counting ∧ Elected counting.G 1 0 :=
  ⟨issues rfl rfl rfl rfl rfl rfl, rfl, issues rfl rfl rfl rfl rfl rfl, issues rfl rfl rfl rfl rfl rfl, ⟨rfl, by simp⟩, rfl,
    issues rfl rfl rfl rfl rfl rfl, .inl ⟨0, rfl, rfl, rfl, fun j h => absurd h (Nat.not_lt_zero j)⟩⟩

theorem wit_varying : Issues (.vadd 1 2 3) s0 ∧ (varWord (.vadd 1 2 3)).isSome ∧ Issues (.pand 1 2 3) s0 ∧
    (predBit (.pand 1 2 3)).isSome ∧ Issues (.fcmpLe 1 2 3) s0 ∧ (fcmpBit (.fcmpLe 1 2 3)).isSome :=
  ⟨issues rfl rfl rfl rfl rfl rfl, rfl, issues rfl rfl rfl rfl rfl rfl, rfl, issues rfl rfl rfl rfl rfl rfl, rfl⟩

/-- x1 names register 5 + BASE below LIMIT 4 in every lane. -/
noncomputable def indexed : State := on (fun g => { g with x := [(1, List.replicate 96 0x00040005)] })

theorem wit_indexed : Issues (.vxrd 7 33) indexed ∧ IxReady indexed.G 33 ∧
    (∀ i, i < 96 → ¬ixFails indexed.G 33 i) ∧ Issues (.vxwr 33 7) indexed ∧ indexed.G.budget ≤ 124 := by
  refine ⟨issues rfl rfl rfl rfl rfl rfl, ?_, ?_, issues rfl rfl rfl rfl rfl rfl, by decide⟩
  · intro i _; rfl
  · unfold ixFails; exact of_decide_eq_true rfl

theorem wit_index_bounds : Issues (.vxrd 7 36) indexed ∧ (∀ i, i < 96 → ((0xFFFFFFFF : Mask).getLsbD i = true ↔
    indexed.G.active.getLsbD i = true ∧ ixFails indexed.G 36 i)) := by
  refine ⟨issues rfl rfl rfl rfl rfl rfl, ?_⟩
  unfold ixFails; exact of_decide_eq_true rfl

theorem wit_float : Issues (.ffma 1 2 3 4) s0 ∧ FloatReady s0.G ∧ (floatWord (.ffma 1 2 3 4)).isSome ∧
    Issues (.vrand 8 2 4) s0 :=
  ⟨issues rfl rfl rfl rfl rfl rfl, rfl, rfl, issues rfl rfl rfl rfl rfl rfl⟩

theorem wit_flagged : Issues (.frcp 1 2) (on (flagged 15 3)) ∧ FloatReady (on (flagged 15 3)).G ∧
    (on (flagged 15 3)).G.fb = some 3 ∧ Issues (.frcp 1 2) s0 ∧ s0.G.fb = none :=
  ⟨issues rfl rfl rfl rfl rfl rfl, rfl, rfl, issues rfl rfl rfl rfl rfl rfl, rfl⟩

theorem wit_shuffle : Issues (.shflXor 1 2 3 .w32) (on (flagged 15 3)) ∧ (on (flagged 15 3)).G.width % 32 = 0 ∧
    (on (flagged 15 3)).G.width % 96 ≠ 0 :=
  ⟨issues rfl rfl rfl rfl rfl rfl, rfl, by decide⟩

theorem wit_reduce : Issues (.reduce 13 2 3) s0 ∧ (redStep s0.G (nv s0.G 2)).isSome ∧
    s0.G.emptiesMask [(13, 5)] = false :=
  ⟨issues rfl rfl rfl rfl rfl rfl, rfl, rfl⟩

theorem wit_reduce_code : Issues (.scan 13 2 3) (on (fun g => { g with s := [(2, 12)] })) ∧
    redStep (on (fun g => { g with s := [(2, 12)] })).G (nv (on (fun g => { g with s := [(2, 12)] })).G 2) = none :=
  ⟨issues rfl rfl rfl rfl rfl rfl, rfl⟩

/-- The least value among the lanes of v1 and s2 = 0: the tie goes to lane 0. -/
theorem wit_reduce_mini : Issues (.reduceMini 14 2 1) counting ∧ LeastOf counting.G 2 1 0 0 ∧
    counting.G.emptiesMask [(14, 0), (15, 0)] = false := by
  refine ⟨issues rfl rfl rfl rfl rfl rfl, ⟨Or.inr ⟨0, by decide, rfl, rfl⟩, ?_⟩, rfl⟩
  intro x hx
  rcases hx with rfl | ⟨i, _, _, rfl⟩
  · exact Or.inr ⟨rfl, by decide⟩
  · by_cases h : ((counting.G.row 1).at i).toNat = 0
    · exact Or.inr ⟨(BitVec.eq_of_toNat_eq h).symm, Nat.zero_le _⟩
    · exact Or.inl (Nat.pos_of_ne_zero h)

theorem wit_empty_mask_across : (Issues (.reduce 60 2 3) s0 ∧ ∃ op z, redStep s0.G (nv s0.G 2) = some (op, z) ∧
      s0.G.emptiesMask [(60, tree op (leafOf s0.G 3 z) (levels s0.G) 0)] = true) ∧
    Issues (.reduceMini 60 2 1) counting ∧ counting.G.emptiesMask [(60, 0), (61, 0)] = true ∧
    Issues (.voteAny 60 2) counting ∧ ∃ f, voteOut (.voteAny 60 2) = some f ∧ counting.G.emptiesMask (f counting.G).unis = true :=
  ⟨⟨issues rfl rfl rfl rfl rfl rfl, _, _, rfl, by decide +kernel⟩, issues rfl rfl rfl rfl rfl rfl, rfl,
    issues rfl rfl rfl rfl rfl rfl, _, rfl, by decide +kernel⟩

theorem wit_votes : Issues (.ballot 8 1) counting ∧ (voteOut (.ballot 8 1)).isSome :=
  ⟨issues rfl rfl rfl rfl rfl rfl, rfl⟩

/-! ### Witnesses: control instructions and clauses -/

theorem wit_mode : Issues (.setmode 2) s0 ∧ ModeLegal (s0.G.uni 2) ∧
    Issues (.setmode 2) (on (fun g => { g with s := [(2, 6)] })) ∧
    ¬ModeLegal ((on (fun g => { g with s := [(2, 6)] })).G.uni 2) ∧ Issues (.setfmt 1 2) s0 ∧ Issues (.getfmt 1 2) s0 :=
  ⟨issues rfl rfl rfl rfl rfl rfl, by unfold ModeLegal; decide, issues rfl rfl rfl rfl rfl rfl,
    by unfold ModeLegal; decide, issues rfl rfl rfl rfl rfl rfl, issues rfl rfl rfl rfl rfl rfl⟩

/-- Half of the lanes hold p1. -/
noncomputable def branching : State := last 2 (fun g => { g with p := [(1, 0xFFFF)] })

theorem wit_jump_diverges : Issues (.bra 1 0) branching ∧ TransferLanes branching.G 1 0xFFFF ∧
    inText branching branching.G (targetOf branching.G 0) = true ∧
    branching.G.split.mask &&& ~~~(0xFFFF : Mask) ≠ 0 :=
  ⟨issues rfl rfl rfl rfl rfl rfl, by unfold TransferLanes; exact of_decide_eq_true rfl, rfl, by decide⟩

theorem wit_jump_whole : Issues (.bra 127 0) (last 2 id) ∧ TransferLanes (last 2 id).G 127 0xFFFFFFFF ∧
    inText (last 2 id) (last 2 id).G (targetOf (last 2 id).G 0) = true ∧ (last 2 id).G.split.mask &&& ~~~(0xFFFFFFFF : Mask) = 0 :=
  ⟨issues rfl rfl rfl rfl rfl rfl, by unfold TransferLanes; exact of_decide_eq_true rfl, rfl, rfl⟩

theorem wit_jump_none : Issues (.bra 0 0) (last 2 id) ∧ TransferLanes (last 2 id).G 0 0 :=
  ⟨issues rfl rfl rfl rfl rfl rfl, by unfold TransferLanes; exact of_decide_eq_true rfl⟩

theorem wit_jump_range : Issues (.bra 127 0x40000000) (last 2 id) ∧ TransferLanes (last 2 id).G 127 0xFFFFFFFF ∧
    inText (last 2 id) (last 2 id).G (targetOf (last 2 id).G 0x40000000) = false :=
  ⟨issues rfl rfl rfl rfl rfl rfl, by unfold TransferLanes; exact of_decide_eq_true rfl, rfl⟩

/-- Lane 0 returns to offset `o`, the others to the start of the text. -/
noncomputable def returning (o : Word) : State := last 1 (fun g => { g with v := [(1, [o])] })

theorem wit_ret : Issues (.ret 1) (returning 0) ∧ (returning 0).G.active ≠ 0 ∧
    ∀ i, i < 96 → inText (returning 0) (returning 0).G (retTarget (returning 0).G 1 i) = true :=
  ⟨issues rfl rfl rfl rfl rfl rfl, by decide, of_decide_eq_true rfl⟩

theorem wit_ret_range : Issues (.ret 1) (returning 0xFFFFFFFC) ∧
    ∀ i, i < 96 → ((1 : Mask).getLsbD i = true ↔ (returning 0xFFFFFFFC).G.active.getLsbD i = true ∧
      inText (returning 0xFFFFFFFC) (returning 0xFFFFFFFC).G (retTarget (returning 0xFFFFFFFC).G 1 i) = false) :=
  ⟨issues rfl rfl rfl rfl rfl rfl, of_decide_eq_true rfl⟩

/-- The split at a depth of the predicate stack. -/
noncomputable def deep (d : Nat) : State := on (fun g => g.setSplit { g.split with depth := d })

theorem wit_stack : Issues (.ppush 1) s0 ∧ s0.G.split.depth < 16 ∧ Issues .pinv (deep 1) ∧ 0 < (deep 1).G.split.depth ∧
    Issues (.ppush 1) (deep 16) ∧ 16 ≤ (deep 16).G.split.depth ∧ Issues .ppop s0 ∧ s0.G.split.depth = 0 :=
  ⟨issues rfl rfl rfl rfl rfl rfl, by decide, issues rfl rfl rfl rfl rfl rfl, by decide,
    issues rfl rfl rfl rfl rfl rfl, by decide, issues rfl rfl rfl rfl rfl rfl, rfl⟩

/-- SPAWN descriptors of 32 lanes and 8 registers at the header itself, and of a width that is not legal. -/
noncomputable def spawning (d : Word) : State := on (fun g => { g with s := [(2, d)] })

theorem wit_spawn : Issues (.spawn 1 8 2) (spawning 8) ∧ (spawning 8).G.active ≠ 0 ∧ SpawnLegal (spawning 8) 8 ∧
    Issues (.spawn 1 8 2) (spawning 0x188) ∧ ¬SpawnLegal (spawning 0x188) 0x188 :=
  ⟨issues rfl rfl rfl rfl rfl rfl, by decide, ⟨by decide, by decide, by decide, by decide, rfl⟩,
    issues rfl rfl rfl rfl rfl rfl, fun h => h.1 rfl⟩

theorem wit_exit : Issues .exit (last 1 id) ∧ (last 1 id).G.split.mask &&& ~~~(last 1 id).G.active = 0 ∧
    Issues .yield (last 1 id) ∧ Issues (.trap 2) (last 1 id) ∧ Issues .bkpt (last 1 id) ∧ (last 1 id).G.active ≠ 0 ∧
    (last 1 id).G.frame = none :=
  ⟨issues rfl rfl rfl rfl rfl rfl, rfl, issues rfl rfl rfl rfl rfl rfl, issues rfl rfl rfl rfl rfl rfl,
    issues rfl rfl rfl rfl rfl rfl, by decide, rfl⟩

/-- Between two clauses, with a header word where the split stands. -/
noncomputable def starting (h : Nat) : State :=
  let m := bputN [] (placePage * 2 ^ 21) (leBytes 8 h)
  { on (fun g => { g with clause := none }) with mem := m, tasks := [(1, { placeTask with text := m })] }

/-- A header of one word, and a word that is no header (R73). -/
theorem wit_clause_start : (starting 0x3FE).chosen (starting 0x3FE).cur = true ∧
    (fetchWord (starting 0x3FE) (starting 0x3FE).G (starting 0x3FE).G.split.pc).1 = .word 0x3FE ∧
    (∃ h, decodeHeader 0x3FE = some h ∧
      (fetchWord (starting 0x3FE) (starting 0x3FE).G (starting 0x3FE).G.split.pc).2.G.waitClear h.wait = true) ∧
    (starting 0).chosen (starting 0).cur = true ∧
    (fetchWord (starting 0) (starting 0).G (starting 0).G.split.pc).1 = .word 0 ∧ decodeHeader 0 = none :=
  ⟨by decide +kernel, by decide +kernel, ⟨_, rfl, by decide +kernel⟩, by decide +kernel, by decide +kernel, rfl⟩

/-- A group that has stepped aside for another of its seat. -/
noncomputable def aside : State :=
  let s := starting 0x3FE
  { s with groups := [(s.cur, { s.G with yielded := true }), (s.cur + 1, s.G)] }

theorem wit_yield : aside.G.yielded = true ∧ ∃ k h, (k, h) ∈ aside.groups ∧ k ≠ aside.cur ∧ h.core = aside.G.core ∧
    h.seat = aside.G.seat ∧ h.rank ≤ aside.G.rank ∧ k ∉ aside.G.served ∧ aside.canStart h = true :=
  ⟨rfl, _, _, List.mem_cons_of_mem _ List.mem_cons_self, by decide +kernel, rfl, rfl, Nat.le_refl _, by decide +kernel,
    by decide +kernel⟩

theorem wit_trap_in_handler : (last 1 inTrap).G.active ≠ 0 ∧ (last 1 inTrap).G.frame ≠ none ∧ Issues (.trap 1) (last 1 inTrap) ∧
    Issues .bkpt (last 1 inTrap) ∧ (last 1 (masked 0)).G.active = 0 ∧ Issues .bkpt (last 1 (masked 0)) ∧
    Issues (.trap 1) (last 1 (masked 0)) :=
  ⟨by decide, nofun, issues rfl rfl rfl rfl rfl rfl, issues rfl rfl rfl rfl rfl rfl, rfl,
    issues rfl rfl rfl rfl rfl rfl, issues rfl rfl rfl rfl rfl rfl⟩

/-- The last word of the clause is done; two splits stand at the next header. -/
noncomputable def ending : State := on (fun g => { g with clause := g.clause.map (fun c => { c with pos := 5 }) })
noncomputable def merging : State :=
  on (fun g => { g with
    clause := g.clause.map (fun c => { c with pos := 5 }), cur := 1,
    splits := [(0, { g.split with mask := 0xFF, pc := g.split.pc + 24 }), (1, { g.split with mask := 0xFFFFFF00 })] })

theorem wit_boundary : (∃ c, ending.G.clause = some c ∧ c.len ≤ c.pos ∧ c.taken = false) ∧ ending.G.after = [] ∧
    ending.G.tpend = [] ∧ ending.G.parked = [] ∧ ending.G.splits = [(ending.G.cur, ending.G.split)] ∧ ending.G.cur < 4 :=
  ⟨⟨_, rfl, by decide, rfl⟩, rfl, rfl, rfl, rfl, by decide⟩

theorem wit_boundary_merge : (∃ c, merging.G.clause = some c ∧ c.len ≤ c.pos ∧ c.taken = false) ∧
    merging.G.after = [] ∧ merging.G.tpend = [] ∧ merging.G.parked = [] ∧
    ∃ x y, merging.G.splits = [(0, x), (1, y)] ∧ merging.G.cur = 1 ∧ y.depth = x.depth ∧ x.pc = nextPc merging.G :=
  ⟨⟨_, rfl, by decide, rfl⟩, rfl, rfl, rfl, _, _, rfl, rfl, rfl, rfl⟩

/-- Split 0 has run 256 clauses, and all that can start one have been made current since. -/
noncomputable def rotated : State :=
  let s := starting 0x3FE000003FE
  s.setG { s.G with ran := 256, rotated := [2, 0], splits := [(0, { s.G.split with mask := 0xFF }),
    (2, { s.G.split with mask := 0xFFFFFF00, pc := s.G.split.pc + 4 })] }

theorem wit_rotate_again : rotated.G.clause = none ∧ 256 ≤ rotated.G.ran ∧ rotated.G.cur = 0 ∧
    (∀ e ∈ rotated.G.splits, e.1 < 4) ∧ (rotated.G.splits.map Prod.fst).Nodup ∧ CanGoOn rotated rotated.G 2 ∧
    (∀ j, 0 < j → j < 4 → CanGoOn rotated rotated.G ((0 + j) % 4) → (0 + j) % 4 ∈ rotated.G.rotated) ∧
    ∀ j, 0 < j → j < 2 → ¬CanGoOn rotated rotated.G ((0 + j) % 4) := by
  have no : ∀ j, j = 1 ∨ j = 3 → ¬CanGoOn rotated rotated.G ((0 + j) % 4) := by
    rintro j (rfl | rfl) ⟨sp, h, -⟩ <;> exact nomatch h
  refine ⟨rfl, by decide, rfl, by decide +kernel, by decide +kernel, ⟨_, rfl, by decide +kernel⟩, ?_, ?_⟩
  · intro j h0 h4 h
    rcases (by omega : j = 2 ∨ j = 1 ∨ j = 3) with rfl | h1
    · exact List.mem_cons_self
    · exact absurd h (no j h1)
  · intro j h0 h2
    exact no j (by omega)

/-- Split 0 has run 256 clauses; split 2 stands at a header further on. -/
noncomputable def rotating : State :=
  let s := starting 0x3FE000003FE
  s.setG { s.G with ran := 256, splits := [(0, { s.G.split with mask := 0xFF }),
    (2, { s.G.split with mask := 0xFFFFFF00, pc := s.G.split.pc + 4 })] }

theorem wit_rotate : rotating.G.clause = none ∧ 256 ≤ rotating.G.ran ∧ rotating.G.cur = 0 ∧
    CanGoOn rotating rotating.G 0 ∧ (rotating.G.splits.map Prod.fst).Nodup ∧
    (∀ e ∈ rotating.G.splits, e.1 < 4 ∧ rotating.G.split.pc.toNat ≤ e.2.pc.toNat) ∧
    CanGoOn rotating rotating.G ((0 + 2) % 4) ∧ 2 ∉ rotating.G.rotated ∧ ¬CanGoOn rotating rotating.G ((0 + 1) % 4) := by
  refine ⟨rfl, by decide, rfl, ⟨_, rfl, by decide +kernel⟩, by decide +kernel, by decide +kernel,
    ⟨_, rfl, by decide +kernel⟩, nofun, ?_⟩
  rintro ⟨sp, h, -⟩
  exact nomatch h

/-! ### Witnesses: memory, pool, queues -/

theorem lane_lt {m : Mask} {k : Nat} (h : m.getLsbD k = true) : k < 96 := BitVec.lt_of_getLsbD h

/-- The lanes of a1 hold addresses from `base` on, `stride` bytes apart; s2 is zero. -/
noncomputable def addressed (base : DWord) (stride : Word) : State :=
  on (fun g => { flagged 2 15 g with a := [(1, ⟨base, stride⟩)] })

/-- The load of one word for each lane. -/
noncomputable def load1 (s : State) : Access := loadAccess 1 .b32 true (affAddress s.G 1 2)

theorem wit_access : Issues (.ld 1 1 2 .b32 true) (addressed 0x2000000 4) ∧
    (addressed 0x2000000 4).G.active ≠ 0 ∧ AddressesOk (addressed 0x2000000 4).G (load1 (addressed 0x2000000 4)).want ∧
    (∀ k, (addressed 0x2000000 4).G.active.getLsbD k = true →
      LaneSound (addressed 0x2000000 4) (load1 (addressed 0x2000000 4)).want k) ∧
    AccessRoom (addressed 0x2000000 4).G := by
  refine ⟨issues rfl rfl rfl rfl rfl rfl, by decide, ?_, ?_, ?_⟩
  · have h : ∀ i, i < 96 → ((load1 (addressed 0x2000000 4)).want.addr i).toNat < 2 ^ 57 ∧
      ((load1 (addressed 0x2000000 4)).want.addr i).toNat % 4 = 0 := by decide +kernel
    exact fun i hi => h i (lane_lt hi)
  · have h : ∀ k, k < 96 → translate (addressed 0x2000000 4) (addressed 0x2000000 4).G.who .read
        ((load1 (addressed 0x2000000 4)).want.addr k) = .hit (0x2000000 + 4 * k) none none ∧
        loadBad (addressed 0x2000000 4) 0 ((addressed 0x2000000 4).G.l1Tag ((load1 (addressed 0x2000000 4)).want.addr k) true)
          (0x2000000 + 4 * k) none 4 true = false := by decide +kernel
    exact fun k hk => ⟨_, _, _, (h k (lane_lt hk)).1, Or.inr (Or.inr (Or.inr (h k (lane_lt hk)).2))⟩
  · show _ ≤ 65535; decide +kernel

/-- Past bit 56, and not a multiple of four. -/
theorem wit_address_fault : Issues (.ld 1 1 2 .b32 true) (addressed 0x200000000000000 4) ∧
    ∀ j, j < 96 → ((0xFFFFFFFF : Mask).getLsbD j = true ↔ (addressed 0x200000000000000 4).G.active.getLsbD j = true ∧
      2 ^ 57 ≤ ((load1 (addressed 0x200000000000000 4)).want.addr j).toNat) :=
  ⟨issues rfl rfl rfl rfl rfl rfl, by decide +kernel⟩

theorem wit_misaligned : (∀ j, j < 96 → ((load1 (addressed 0x2000002 4)).want.addr j).toNat < 2 ^ 57) ∧
    ∀ j, j < 96 → ((0xFFFFFFFF : Mask).getLsbD j = true ↔ (addressed 0x2000002 4).G.active.getLsbD j = true ∧
      ((load1 (addressed 0x2000002 4)).want.addr j).toNat % (load1 (addressed 0x2000002 4)).want.align ≠ 0) := by
  decide +kernel

/-- A page that the TLB does not hold. -/
theorem wit_miss : Issues (.ld 1 1 2 .b32 true) (addressed 0x4000000 4) ∧
    translate (addressed 0x4000000 4) (addressed 0x4000000 4).G.who .read
      ((load1 (addressed 0x4000000 4)).want.addr 0) = .miss (pageOf ((load1 (addressed 0x4000000 4)).want.addr 0)) ∧
    (∀ j, j < 96 → (pageOf ((load1 (addressed 0x4000000 4)).want.addr j), true) ∉ (addressed 0x4000000 4).G.pageWaits) ∧
    ((addressed 0x4000000 4).cluster 0).misses.length + (activeLanes (addressed 0x4000000 4).G).length ≤ 63 :=
  ⟨issues rfl rfl rfl rfl rfl rfl, by decide +kernel, (fun _ _ h => nomatch h), by decide +kernel⟩

/-- The walk of its page has ended without a fill. -/
noncomputable def unfilled : State :=
  let s := addressed 0x4000000 4
  s.setG { s.G with pageWaits := [(32, true)] }

theorem wit_walk_failed : Issues (.ld 1 1 2 .b32 true) unfilled ∧ (∀ j, j < 96 → ((load1 unfilled).want.addr j).toNat < 2 ^ 57) ∧
    (∀ j, j < 96 → ((0xFFFFFFFF : Mask).getLsbD j = true ↔ unfilled.G.active.getLsbD j = true ∧
      (pageOf ((load1 unfilled).want.addr j), true) ∈ unfilled.G.pageWaits)) ∧
    ∀ j, j < 96 → translate unfilled unfilled.G.who .read ((load1 unfilled).want.addr j) = .miss 32 :=
  ⟨issues rfl rfl rfl rfl rfl rfl, by decide +kernel, by decide +kernel, by decide +kernel⟩

/-- The page is there, but not for writing. -/
noncomputable def readOnly : State :=
  let s := addressed 0x2000000 4
  { s with clusters := [(0, { (s.cluster 0) with tlb := [⟨1, placePage, placeLeaf &&& ~~~(4 : BitVec 128)⟩] })] }

theorem wit_denied : Issues (.st 1 1 2 .b32) readOnly ∧ ∀ j, j < 96 → readOnly.G.active.getLsbD j = true →
    translate readOnly readOnly.G.who .write (affAddress readOnly.G 1 2 j) = .fault false :=
  ⟨issues rfl rfl rfl rfl rfl rfl, by decide +kernel⟩

theorem wit_conv_format : Issues (.ldc 1 1 2 0 true) (addressed 0x2000000 1) ∧
    ConvReady (.ldc 1 1 2 0 true) (addressed 0x2000000 1).G := by
  refine ⟨issues rfl rfl rfl rfl rfl rfl, ?_⟩
  rintro m (⟨d, a, b, y, h⟩ | ⟨d, a, y, h⟩ | ⟨d, a, b, h⟩ | ⟨d, a, h⟩)
  · cases h; exact ⟨by decide +kernel, by decide +kernel⟩
  all_goals exact nomatch h

/-- A team with a scratch bank and a FIFO bank that holds two words. -/
noncomputable def banked (f : Group → Group) : State :=
  let s := on f
  { s with
    teams := [(1, { placeTeam with scratch := [0], fifo := [1] })],
    clusters := [(0, { (s.cluster 0) with banks := [(0, ⟨1, some 1, []⟩), (1, ⟨2, some 1, [5, 6]⟩)] })] }

theorem spot0 (f : Group → Group) (h1 : (f s0.G).team = 1) (h2 : (f s0.G).kind = .started) (h3 : (f s0.G).core = 0)
    (off size : Nat) (h : off + size ≤ 65536) (h0 : off < 65536) : PoolSpot (banked f) off size off := by
  have e : (banked f).G = f s0.G := rfl
  refine ⟨{ placeTeam with scratch := [0], fifo := [1] }, ?_, ?_, by simpa using h, ?_, ?_⟩
  · rw [e, h1]; rfl
  · rw [e, h2]; exact Or.inl rfl
  · rw [e, h3, Nat.div_eq_of_lt h0]; rfl
  · rw [Nat.div_eq_of_lt h0, Nat.mod_eq_of_lt h0]; simp

theorem wit_pool : Issues (.stp 3 1 2 .b32) (banked (flagged 2 15)) ∧
    (banked (flagged 2 15)).G.active ≠ 0 ∧ ∀ k, k < 96 → poolOffset (banked (flagged 2 15)).G 1 2 k % 4 = 0 ∧
      ∃ pa, PoolSpot (banked (flagged 2 15)) (poolOffset (banked (flagged 2 15)).G 1 2 k) 4 pa := by
  refine ⟨issues rfl rfl rfl rfl rfl rfl, by decide, ?_⟩
  have h : ∀ k, k < 96 → poolOffset (banked (flagged 2 15)).G 1 2 k = 0 := by decide +kernel
  intro k hk
  rw [h k hk]
  exact ⟨rfl, 0, spot0 _ rfl rfl rfl 0 4 (by decide) (by decide)⟩

theorem wit_object : Issues (.boset 1 2) (banked (fun g => { g with s := [(2, 7)] })) ∧
    nv (banked (fun g => { g with s := [(2, 7)] })).G 1 % 16 = 0 ∧
    PoolSpot (banked (fun g => { g with s := [(2, 7)] })) 0 16 0 ∧
    objectBusy (banked (fun g => { g with s := [(2, 7)] })).G 0 = false ∧
    1 ≤ nv (banked (fun g => { g with s := [(2, 7)] })).G 2 ∧ nv (banked (fun g => { g with s := [(2, 7)] })).G 2 < 2 ^ 31 :=
  ⟨issues rfl rfl rfl rfl rfl rfl, rfl, spot0 _ rfl rfl rfl 0 16 (by decide) (by decide), rfl, by decide, by decide⟩

/-- Offsets that are misaligned, beyond the team's two scratch banks, or in the second, which is a FIFO bank now. -/
noncomputable def pooled (off : Word) : State :=
  let s := banked (fun g => { flagged 2 15 g with s := [(2, off), (1, off)] })
  { s with teams := [(1, { placeTeam with scratch := [0, 1] })] }

theorem wit_pool_faults : (∀ off, Issues (.stp 3 1 2 .b32) (pooled off)) ∧ (∀ off, Issues (.boset 1 4) (pooled off)) ∧
    (∀ j, j < 96 → ((0xFFFFFFFF : Mask).getLsbD j = true ↔ (pooled 2).G.active.getLsbD j = true ∧
      poolOffset (pooled 2).G 1 2 j % 4 ≠ 0)) ∧
    (∀ j, j < 96 → poolOffset (pooled 0x20000).G 1 2 j = 0x20000) ∧ PoolForeign (pooled 0x20000) 4 0x20000 ∧
    (∀ j, j < 96 → poolOffset (pooled 0x10000).G 1 2 j = 0x10000) ∧ ¬PoolForeign (pooled 0x10000) 4 0x10000 ∧
    PoolRoleBad (pooled 0x10000) 0x10000 ∧ nv (pooled 2).G 1 % 16 ≠ 0 ∧ PoolForeign (pooled 0x20000) 16 (nv (pooled 0x20000).G 1) ∧
    nv (pooled 0x10000).G 1 = 0x10000 ∧ ¬PoolForeign (pooled 0x10000) 16 0x10000 := by
  refine ⟨fun _ => issues rfl rfl rfl rfl rfl rfl, fun _ => issues rfl rfl rfl rfl rfl rfl, by decide +kernel, by decide +kernel, ?_,
    by decide +kernel, fun h => ?_, ⟨_, rfl, by decide +kernel⟩, by decide, ?_, rfl, fun h => ?_⟩
  · intro tm h _; cases h; decide
  · exact absurd (h _ rfl (.inl rfl)) (by decide)
  · intro tm h _; cases h; decide
  · exact absurd (h _ rfl (.inl rfl)) (by decide)

theorem wit_quota : ∀ q ∈ [(0 : Word), 0x80000000], Issues (.boset 1 2) (banked (fun g => { g with s := [(2, q)] })) ∧
    PoolSpot (banked (fun g => { g with s := [(2, q)] })) 0 16 0 ∧
    objectBusy (banked (fun g => { g with s := [(2, q)] })).G 0 = false ∧
    ¬(1 ≤ nv (banked (fun g => { g with s := [(2, q)] })).G 2 ∧ nv (banked (fun g => { g with s := [(2, q)] })).G 2 < 2 ^ 31) := by
  intro q h
  simp only [List.mem_cons, List.not_mem_nil, or_false] at h
  rcases h with rfl | rfl <;>
    exact ⟨issues rfl rfl rfl rfl rfl rfl, spot0 _ rfl rfl rfl 0 16 (by decide) (by decide), rfl, by decide⟩

def noEntry : LogEntry :=
  { pc := 0, word := 0, cause := 0, lanes := 0, addr := 0, affs := [], regs := [], src := [], temps := [], tw := 0, seq := 0,
    mode := 0, fmts := [], seeds := 0, scales := [], act := 0, waiting := false }

/-- An issued instruction of lane 0 under flag 3. -/
def pend0 (b : PendBody) : Pend :=
  { id := 1, sid := 0, ids := [], formed := 0, pc := 0, word := 0, flag := some 3, lanes := 1, dst := [], body := b,
    writes := [], accs := [], killed := [], order := .relaxed, scope := .group, missed := false, done := false,
    entry := none, mark := 0, clause := ⟨0, 1, 0, 3, 15, 0, 0, false, []⟩, refused := none, wkey := 0, wgroup := 0,
    failed := [], left := 0, proto := noEntry, born := 0, lined := false,
    arrived := 0, seen := 0 }

/-- A FENCE.FULL of the group has not completed. -/
noncomputable def behindFence : State :=
  banked (fun g => { g with pends := [{ pend0 (.fence .full .core) with sid := g.split.ids.headD 0 }], nextId := 2, flags := [(3, 1)] })

theorem wit_bopoll : Issues (.bopoll 1 1 2) (banked id) ∧ nv (banked id).G 1 % 16 = 0 ∧ PoolSpot (banked id) 0 16 0 ∧
    pollFree (banked id) { (banked id).G.mkPend Shape.empty none (.bopoll 0 0) with accs := objectAccs 0 } = true ∧
    Issues (.bopoll 1 1 2) behindFence ∧ PoolSpot behindFence 0 16 0 ∧
    pollFree behindFence { behindFence.G.mkPend Shape.empty none (.bopoll 0 0) with accs := objectAccs 0 } = false :=
  ⟨issues rfl rfl rfl rfl rfl rfl, rfl, spot0 _ rfl rfl rfl 0 16 (by decide) (by decide), rfl, issues rfl rfl rfl rfl rfl rfl,
    spot0 _ rfl rfl rfl 0 16 (by decide) (by decide), rfl⟩

theorem wit_queue : Issues (.qpush 2 3) (banked id) ∧ queueTrap (banked id) (banked id).G 0 32 true = none ∧
    Issues (.qpop 3 2) s0 ∧ (queueTrap s0 s0.G (s0.G.uni 2) 32 false).isSome ∧ Issues (.qpopUniform 13 2) (banked id) ∧
    (banked id).G.split.mask = (banked id).G.live :=
  ⟨issues rfl rfl rfl rfl rfl rfl, rfl, issues rfl rfl rfl rfl rfl rfl, rfl, issues rfl rfl rfl rfl rfl rfl, rfl⟩

theorem wit_barrier : Issues .bar s0 ∧ s0.G.kind = .started ∧ s0.G.split.mask = s0.G.live ∧ Issues .bar half ∧
    half.G.split.mask ≠ half.G.live ∧ Issues (.fence .full .team) s0 ∧ Issues (.pref 1) s0 :=
  ⟨issues rfl rfl rfl rfl rfl rfl, rfl, rfl, issues rfl rfl rfl rfl rfl rfl, by decide, issues rfl rfl rfl rfl rfl rfl,
    issues rfl rfl rfl rfl rfl rfl⟩

/-! ### Witnesses: issued instructions -/

/-- The same with one access of a word to address 0x2000040. -/
def acc0 : Acc := ⟨0, 0x2000040, 0x2000040, 4, none, none, [(1, 0xFF), (2, 0xFF), (3, 0xFF), (4, 0xFF)], 0, 0⟩
def pend1 (b : PendBody) : Pend := { pend0 b with accs := [acc0], left := 1, dst := [.v 5] }

/-- A group that has issued `p` and nothing else. -/
noncomputable def issued (p : Pend) : State := banked (fun g => { g with pends := [p], nextId := 2, flags := [(3, 1)] })

theorem out (p : Pend) (h : p.id = 1) : Outstanding (issued p) 1 1 p := by
  refine ⟨?_, h⟩
  show List.find? _ [p] = _
  simp [h]

theorem wit_results : Outstanding (issued (pend0 .write)) 1 1 (pend0 .write) ∧
    PlainWrites ((issued (pend0 .write)).group 1) (pend0 .write) [⟨.v 5, [7], 1⟩, ⟨.p 2, [1], 1⟩, ⟨.s 3, [9], 1⟩] ∧
    Outstanding (issued (pend0 (.timewait 0))) 1 1 (pend0 (.timewait 0)) ∧
    (issued (pend0 (.timewait 0))).withdrawn ((issued (pend0 (.timewait 0))).group 1) (pend0 (.timewait 0)) = false ∧
    Outstanding (issued (pend0 .replay)) 1 1 (pend0 .replay) :=
  ⟨out _ rfl, ⟨by decide, by simp, (fun _ h => nomatch h), rfl, rfl⟩, out _ rfl, rfl, out _ rfl⟩

/-- A word from before the entry of a handler is to write a temporary, or a predicate that the handler has written in lane 1. -/
noncomputable def entered (w : RegWrite) : State :=
  on (fun g => { inTrap { g with pends := [{ pend0 .write with writes := [w] }], nextId := 2, flags := [(3, 1)] } with
    hidden := [(.p 7, 2)] })

theorem wit_result_in_handler : ∀ w ∈ [RegWrite.mk (.v 125) [7] 1, ⟨.p 7, [1, 1], 3⟩],
    Outstanding (entered w) 1 1 { pend0 .write with writes := [w] } ∧
    ∃ f, ((entered w).group 1).frame = some f ∧ (pend0 .write).id < f.mark ∧ (pend0 .write).killed = [] :=
  fun _ h => by
    simp only [List.mem_cons, List.not_mem_nil, or_false] at h
    rcases h with rfl | rfl <;> exact ⟨⟨rfl, rfl⟩, _, rfl, Nat.lt_succ_self 1, rfl⟩

theorem wit_load : Outstanding (issued (pend1 (.load .b32 true))) 1 1 (pend1 (.load .b32 true)) ∧
    MayGo (issued (pend1 (.load .b32 true))) 1 (pend1 (.load .b32 true)) ∧
    (∀ a ∈ (pend1 (.load .b32 true)).accs, a.rem = none ∧ a.pa < 768 * 2 ^ 30 ∧ a.size = 4 ∧ a.pa % 128 + 4 ≤ 128 ∧
      homeOf (issued (pend1 (.load .b32 true))) a.home = none) ∧
    (∀ a ∈ (pend1 (.load .b32 true)).accs, raced { issued (pend1 (.load .b32 true)) with cur := 1 }
      ((issued (pend1 (.load .b32 true))).group 1) a true = false) ∧
    phaseLines (issued (pend1 (.load .b32 true))) ((issued (pend1 (.load .b32 true))).group 1).task = none :=
  ⟨out _ rfl, ⟨rfl, (fun _ h => nomatch h), rfl, rfl⟩, by decide +kernel, by decide +kernel, rfl⟩

theorem wit_store : Outstanding (issued (pend1 .store)) 1 1 (pend1 .store) ∧ MayGo (issued (pend1 .store)) 1 (pend1 .store) ∧
    acc0.data.length = acc0.size ∧ acc0.pa % 128 + acc0.size ≤ 128 ∧ ((issued (pend1 .store)).core 0).sgb = [] ∧
    racedStore { issued (pend1 .store) with cur := 1 } ((issued (pend1 .store)).group 1) acc0 = false :=
  ⟨out _ rfl, ⟨rfl, (fun _ h => nomatch h), rfl, rfl⟩, rfl, by decide, rfl, by decide +kernel⟩

/-- Nothing that the slices do makes its load racy. -/
theorem wit_load_slices : ∀ u, SlicesOnly (issued (pend1 (.load .b32 true))) u →
    raced { u with cur := 1 } ((issued (pend1 (.load .b32 true))).group 1) acc0 true = false := by
  rintro u ⟨h, -⟩
  have e : u = { issued (pend1 (.load .b32 true)) with slices := u.slices, free := u.free, clusters := u.clusters } := by
    rw [← h]
  rw [e]
  rfl

/-- An entry of a core's buffer with two bytes of the line. -/
def sgb0 (sent : Bool) : SgbEntry := ⟨0x40000, [⟨0, 0, 0, [(3, (7, 0xFF)), (4, (9, 0x0F))]⟩], [(1, 1)], none, 1, sent, 0⟩
noncomputable def buffered (sent : Bool) : State := { s0 with cores := [(0, ⟨[], [sgb0 sent], 1, []⟩)] }

theorem wit_home : sgbEntry (buffered true) 0 1 = some (sgb0 true) ∧ homeOf (buffered true) (sgb0 true).home = none ∧
    (∀ x ∈ ((buffered true).core 0).sgb, x.pline = (sgb0 true).pline → (sgb0 true).seq ≤ x.seq) ∧
    (∀ x ∈ (buffered true).clusters, cacheLine x.2 (sgb0 true).pline = none) ∧
    (∀ x ∈ (sgb0 true).parts, phaseLines (buffered true) x.task = none ∧ ∀ c ∈ x.cells, c.1 < 128) ∧
    sgbEntry { buffered false with clock := 151 } 0 1 = some (sgb0 false) ∧ (sgb0 false).due.toNat ≤ 151 :=
  ⟨rfl, rfl, by decide +kernel, by decide +kernel, by decide +kernel, rfl, by decide +kernel⟩

theorem wit_atomic : Outstanding (issued (pend1 (.atom .addI32))) 1 1 (pend1 (.atom .addI32)) ∧
    AtMemory (issued (pend1 (.atom .addI32))) ((issued (pend1 (.atom .addI32))).group 1) acc0 ∧
    MayGo (issued (pend1 (.atom .addI32))) 1 (pend1 (.atom .addI32)) ∧ acc0.pa % 4 = 0 :=
  ⟨out _ rfl, ⟨rfl, by decide +kernel, rfl, rfl, by decide⟩, ⟨rfl, (fun _ h => nomatch h), rfl, rfl⟩, rfl⟩

theorem wit_pool_performed (b : PendBody) (h : b = .poolLoad .b32 ∨ b = .poolStore ∨ b = .boset 0 7 ∨ b = .boadd 0 7 ∨
    b = .bowait 0 0) : Outstanding (issued (pend1 b)) 1 1 (pend1 b) ∧ MayGo (issued (pend1 b)) 1 (pend1 b) := by
  rcases h with rfl | rfl | rfl | rfl | rfl <;> exact ⟨out _ rfl, rfl, (fun _ h => nomatch h), rfl, rfl⟩

theorem wit_epoch : (readObj ((issued (pend1 (.bowait 0 0))).pool 0) 0).reached 0 = true := by decide +kernel

theorem wit_fence : Outstanding (issued (pend0 (.fence .full .team))) 1 1 (pend0 (.fence .full .team)) ∧
    fenceHolds (issued (pend0 (.fence .full .team))) ((issued (pend0 (.fence .full .team))).group 1)
      (pend0 (.fence .full .team)) .full .team = true ∧
    refusedBefore ((issued (pend0 (.fence .full .team))).group 1) (pend0 (.fence .full .team)) .team = [] ∧
    lineBehind ((issued (pend0 (.fence .full .team))).group 1) (pend0 (.fence .full .team)) = false ∧
    (∀ x ∈ ((issued (pend0 (.fence .full .team))).group 1).pends, ∀ n k, x.body = .qpop n k → x.done = true) ∧
    Outstanding (issued (pend0 (.bwait 0 65535))) 1 1 (pend0 (.bwait 0 65535)) ∧
    (issued (pend0 (.bwait 0 65535))).withdrawn ((issued (pend0 (.bwait 0 65535))).group 1) (pend0 (.bwait 0 65535)) = false ∧
    lineBehind ((issued (pend0 (.bwait 0 65535))).group 1) (pend0 (.bwait 0 65535)) = false ∧
    (((issued (pend0 (.bwait 0 65535))).group 1).batch 0).complete 65535 = true :=
  ⟨out _ rfl, rfl, rfl, rfl, (by
    intro x hx n k hb
    cases List.mem_singleton.mp hx
    exact nomatch hb), out _ rfl, rfl, rfl, rfl⟩

/-- The fence waits for a store that is still in the core's buffer. -/
noncomputable def waitingFence : State :=
  let s := on (fun g => { g with pends := [{ pend0 (.fence .rel .team) with seen := 9 }], nextId := 2, flags := [(3, 1)] })
  { s with cores := [(0, ⟨[], [sgb0 false], 1, []⟩)] }

theorem wit_fence_waits : Outstanding waitingFence 1 1 { pend0 (.fence .rel .team) with seen := 9 } ∧
    fenceHolds waitingFence (waitingFence.group 1) { pend0 (.fence .rel .team) with seen := 9 } .rel .team = false :=
  ⟨⟨rfl, rfl⟩, rfl⟩

/-- A queue operation that has reached its queue, one that has not, and what the rules ask of it. -/
def arrivedAt (k : Nat) (b : PendBody) (dst : List Reg) : Pend := { pend1 b with arrived := k, dst := dst }

theorem wit_queue_served : ∀ x ∈ [(PendBody.qpush 0 [3], ([] : List Reg)), (.qpop 0 0, [.v 5]), (.qpop 0 1, [.s 13]), (.qpop 0 2, [.v 5])],
    (∀ k, Outstanding (issued (arrivedAt k x.1 x.2)) 1 1 (arrivedAt k x.1 x.2)) ∧
    MayGo (issued (arrivedAt 0 x.1 x.2)) 1 (arrivedAt 0 x.1 x.2) ∧ (queueName (arrivedAt 0 x.1 x.2)).isSome = true ∧
    MayGo (issued (arrivedAt 8 x.1 x.2)) 1 (arrivedAt 8 x.1 x.2) ∧
    fifoBank (issued (arrivedAt 8 x.1 x.2)) ((issued (arrivedAt 8 x.1 x.2)).group 1) 0 = some 1 ∧
    acquireHolds ((issued (arrivedAt 8 x.1 x.2)).group 1) (arrivedAt 8 x.1 x.2) = true ∧
    queueBehind { issued (arrivedAt 8 x.1 x.2) with cur := 1 } ((issued (arrivedAt 8 x.1 x.2)).group 1) (arrivedAt 8 x.1 x.2) 0
      (match x.1 with | .qpush _ _ => true | _ => false) = false ∧
    (mgetD ((issued (arrivedAt 8 x.1 x.2)).cluster 0).banks 1 Bank.empty).fifo = [5, 6] := by
  intro x hx
  simp only [List.mem_cons, List.not_mem_nil, or_false] at hx
  rcases hx with rfl | rfl | rfl | rfl <;>
    exact ⟨fun k => ⟨rfl, rfl⟩, ⟨rfl, (fun _ h => nomatch h), rfl, rfl⟩, rfl, ⟨rfl, (fun _ h => nomatch h), rfl, rfl⟩, rfl, rfl,
      rfl, by decide +kernel⟩

/-! ### Witnesses: engines -/

/-- A CPY of one row of 16 bytes from scratch offset 0 to 64, described from s8 on; s16 names no barrier object. -/
def copying (w4 : Word) (g : Group) : Group :=
  { g with s := [(8, 0), (10, 64), (12, w4), (13, 0x30001), (16, 0xFFFFFFFF)] }

theorem wit_engine : Issues (.cpy 8 16) (banked (copying 16)) ∧
    interlocked (banked (copying 16)).G (matrixRegs (banked (copying 16)).G 0 (descWords (banked (copying 16)).G 8 8)) = false ∧
    cmdTrap (banked (copying 16)) 0 (planOf (banked (copying 16)) (banked (copying 16)).G 0
      (descWords (banked (copying 16)).G 8 8) ((List.range 4).map (banked (copying 16)).G.fmt)
      ((List.range 4).map (fun k => (banked (copying 16)).G.uni (fmtSreg ((banked (copying 16)).G.fmt k))))) 0xFFFFFFFF = none ∧
    (banked (copying 16)).G.xfer < 65535 ∧
    ¬DescriptorLegal (banked (copying 3)) 0 (fun k => (descWords (banked (copying 3)).G 8 8).getD k 0) 0xFFFFFFFF :=
  ⟨issues rfl rfl rfl rfl rfl rfl, rfl, by decide +kernel, by decide, fun h => absurd h.1 (by decide +kernel)⟩

theorem wit_batch : Issues (.batchCopy 13) s0 ∧ UniWritable s0.G [(13, 0)] ∧ (s0.G.batch 0).openN = 0 ∧
    ((s0.G.batch 0).openN - (s0.G.batch 0).doneN).toNat < 2 ^ 15 - 1 ∧ openLeft s0.G 0 = 0 ∧
    Issues (.bwaitCopy 2) s0 ∧ notClosed (s0.G.batch 0) (batchNo s0.G 2) ∧ ¬notClosed (s0.G.batch 0) 65535 ∧
    Issues (.bstatCopy 13 2) s0 ∧ ¬isComplete (s0.G.batch 0) (batchNo s0.G 2) ∧ isComplete (s0.G.batch 0) 65535 ∧
    ¬isExpired (s0.G.batch 0) 65535 ∧ isExpired (s0.G.batch 0) 65500 := by
  refine ⟨issues rfl rfl rfl rfl rfl rfl, ⟨rfl, rfl⟩, rfl, by decide, rfl, issues rfl rfl rfl rfl rfl rfl, ?_, ?_,
    issues rfl rfl rfl rfl rfl rfl, ?_, ?_, ?_, ?_⟩ <;> simp only [notClosed, isComplete, isExpired] <;> decide +kernel

/-- That CPY as a command, waiting for its engine or with its row moved. -/
def cmd0 (queued : Bool) (units : Nat) : Cmd :=
  { id := 1, gid := 1, task := 1, team := 1, core := 0, asid := 1, vf := 0, level := 0, cls := 0, sub := 0,
    desc := [0, 0, 64, 0, 16, 0x30001, 0, 0], bo := 0xFFFFFFFF, mode := 0, fmts := [0, 0, 0, 0], scales := [0, 0, 0, 0],
    seeds := 0, off := 0, batch := 0, flag := some 2, sid := 0, ids := [], formed := 0, seq := 0, key := 0, wgroup := 0,
    queued := queued, begun := false, units := units, status := 0, missed := none, walkFail := false, seen := [],
    part := none, owed := 0, outs := [], rows := [], rivals := [], ranks := none, asked := [], fetched := [], nth := 0, deadline := 0, mark := 0 }

noncomputable def commanded (c : Cmd) : State := { banked id with cmds := [c] }

theorem wit_engine_runs : Command (commanded (cmd0 true 0)) 1 (cmd0 true 0) ∧
    ((commanded (cmd0 true 0)).cmds.filter (fun x => !x.queued && x.queueKey == (cmd0 true 0).queueKey)).length <
      queueRoom (cmd0 true 0).cls ∧
    Command (commanded (cmd0 false 0)) 1 (cmd0 false 0) ∧ UnitDue (commanded (cmd0 false 0)) (cmd0 false 0) ∧
    Command (commanded (cmd0 false 1)) 1 (cmd0 false 1) ∧ (cmd0 false 1).units = unitsOf (cmd0 false 1) :=
  ⟨⟨rfl, rfl⟩, by decide +kernel, ⟨rfl, rfl⟩, ⟨rfl, rfl, rfl, by decide +kernel⟩, ⟨rfl, rfl⟩, rfl⟩

/-- Nothing stands before the bytes of a range that translates. -/
theorem range {s : State} {c : Cmd} {kind : AccKind} {va : DWord} {n pa : Nat}
    (h : va.toNat + n ≤ 2 ^ 57 ∧ pa % 128 = va.toNat % 128 ∧ pa + n ≤ 768 * 2 ^ 30)
    (ht : ∀ k, k < n → translate s c.who kind (va + BitVec.ofNat 64 k) = .hit (pa + k) none none)
    (hb : s.bad = []) (hc : ∀ e ∈ s.clusters, e.2.cache = []) (hs : (s.core c.core).sgb = []) :
    EngineRange s c kind va n pa := by
  refine ⟨h.1, h.2.1, h.2.2, ht, fun l _ _ => ⟨by simp [hb], fun e he => ?_, by simp [hs]⟩⟩
  show List.find? _ e.2.cache = none
  rw [hc e he]; rfl

/-- A command of SUB `sub` with a descriptor, `units` units of which are done. -/
def cmdOf (sub units : Nat) (desc : List Word) : Cmd := { cmd0 false units with sub := sub, desc := desc }

/-- That command, with bytes of memory at 0x2000000. -/
noncomputable def working (sub units : Nat) (desc : List Word) (bs : List Byte) : State :=
  { commanded (cmdOf sub units desc) with mem := bputN [] 0x2000000 bs }

theorem near {sub units : Nat} {desc : List Word} {bs : List Byte} {kind : AccKind} {va : DWord} {n pa : Nat}
    (h : (va.toNat + n ≤ 2 ^ 57 ∧ pa % 128 = va.toNat % 128 ∧ pa + n ≤ 768 * 2 ^ 30) ∧
      ∀ k, k < n → translate (working sub units desc bs) (cmdOf sub units desc).who kind (va + BitVec.ofNat 64 k) =
        .hit (pa + k) none none) :
    EngineRange (working sub units desc bs) (cmdOf sub units desc) kind va n pa :=
  range h.1 h.2 rfl (fun e he => by cases List.mem_singleton.mp he; rfl) rfl

theorem plain {sub units : Nat} {desc : List Word} {bs : List Byte}
    (h : cmdReady (working sub units desc bs) (cmdOf sub units desc) = true ∧ units < unitsOf (cmdOf sub units desc)) :
    PlainUnit (working sub units desc bs) (cmdOf sub units desc) :=
  ⟨⟨h.1, rfl, rfl, h.2⟩, rfl, by show ([0] : List Nat).Nodup; decide, Or.inl rfl⟩

/-- A CPY of 16 bytes in the scratch area, and one in memory. -/
theorem wit_cpy : PlainUnit (working 0 0 [0, 0, 64, 0, 16, 0x30001, 0, 0] []) (cmdOf 0 0 [0, 0, 64, 0, 16, 0x30001, 0, 0]) ∧
    PlaceReached (working 0 0 [0, 0, 64, 0, 16, 0x30001, 0, 0] []) (cmdOf 0 0 [0, 0, 64, 0, 16, 0x30001, 0, 0]) .write true 64 16 0 ∧
    RowsApart (cmdOf 0 0 [0, 0, 64, 0, 16, 0x30001, 0, 0]) true ∧
    PlaceReached (working 0 0 [0x2000000, 0, 0x2000040, 0, 16, 1, 0, 0] []) (cmdOf 0 0 [0x2000000, 0, 0x2000040, 0, 16, 1, 0, 0])
      .read false 0x2000000 16 0x2000000 := by
  refine ⟨plain (by decide +kernel), by show _ ≤ _; decide +kernel, ?_, near (by decide +kernel)⟩
  intro q q' k k' h h' hk hk'
  have e : q = 0 := Nat.lt_one_iff.mp h
  have e' : q' = 0 := Nat.lt_one_iff.mp h'
  subst e e'
  have : ∀ k, k < 16 → ∀ k', k' < 16 →
      cpyRow (cmdOf 0 0 [0, 0, 64, 0, 16, 0x30001, 0, 0]) true 0 6 0 + BitVec.ofNat 64 k ≠
        cpyRow (cmdOf 0 0 [0, 0, 64, 0, 16, 0x30001, 0, 0]) true 2 7 0 + BitVec.ofNat 64 k' := by decide +kernel
  exact this k hk k' hk'

/-- Rows of 16 bytes at 0x2000000, four of them; the list of one index at 0x2000100; slots from scratch offset 128 on. -/
def rowDesc (l : List Word) : List Word := [0x2000000, 0, 16, 4, 0x2000100, 0, 128, 1] ++ l

theorem wit_rows : ∀ sub ∈ [1, 2], PlainUnit (working sub 0 (rowDesc []) []) (cmdOf sub 0 (rowDesc [])) ∧
    EngineRange (working sub 0 (rowDesc []) []) (cmdOf sub 0 (rowDesc [])) .read 0x2000100 4 0x2000100 ∧
    PlainUnit (working sub 1 (rowDesc [2]) []) (cmdOf sub 1 (rowDesc [2])) ∧
    RowsLegal (working sub 1 (rowDesc [2]) []) (cmdOf sub 1 (rowDesc [2])) ∧
    NoRival (working sub 1 (rowDesc [2]) []) (cmdOf sub 1 (rowDesc [2])) ∧
    (∃ k, k < (rowParts (cmdOf sub 1 (rowDesc [2]))).length ∧ k ∉ (cmdOf sub 1 (rowDesc [2])).rows) ∧
    EngineRange (working sub 1 (rowDesc [2]) []) (cmdOf sub 1 (rowDesc [2])) .read (tableRow (cmdOf sub 1 (rowDesc [2])) 0) 16 0x2000020 ∧
    EngineRange (working sub 1 (rowDesc [2]) []) (cmdOf sub 1 (rowDesc [2])) .write (tableRow (cmdOf sub 1 (rowDesc [2])) 0) 16 0x2000020 ∧
    rowIndex (cmdOf sub 1 (rowDesc [2])) 0 < 4 ∧ ¬rowIndex (cmdOf sub 1 (rowDesc [9])) 0 < 4 := by
  intro sub h
  simp only [List.mem_cons, List.not_mem_nil, or_false] at h
  rcases h with rfl | rfl <;>
    exact ⟨plain (by decide +kernel), near (by decide +kernel), plain (by decide +kernel), by simp only [RowsLegal]; decide +kernel,
      (fun _ h => nomatch h), ⟨0, by decide +kernel, nofun⟩, near (by decide +kernel), near (by decide +kernel), by decide +kernel,
      by decide +kernel⟩

/-- Operands in BF16 whose rows all stand at 0x2000000; the leader's tile 0. -/
def mmaWords : List Word := [0x2000000, 0, 0x2000000, 0, 0, 0, 0x0, 0, 0, 0, 0, 0]

theorem wit_mma : PlainUnit (working 3 0 mmaWords []) (cmdOf 3 0 mmaWords) ∧
    ∃ m, mmaDesc mmaWords [0, 0, 0, 0] = some m ∧ m.a.k = m.b.k ∧
      (∀ r, RowReached (working 3 0 mmaWords []) (cmdOf 3 0 mmaWords) m.a 0 4 8 r 0x2000000 0) ∧
      ∀ r, RowReached (working 3 0 mmaWords []) (cmdOf 3 0 mmaWords) m.b 2 5 10 r 0x2000000 0 := by
  have e : ∀ k, k = 0 ∨ k = 2 → ∀ ld, ld = 4 ∨ ld = 5 → ∀ r, operandRow (cmdOf 3 0 mmaWords) k ld r = 0x2000000 := by
    intro k hk ld hl r
    have z : ((0 : DWord) * BitVec.ofNat 64 r) = 0 := by simp
    rcases hk with rfl | rfl <;> rcases hl with rfl | rfl <;> (show (0x2000000 : DWord) + 0 * BitVec.ofNat 64 r = _; rw [z]; rfl)
  refine ⟨plain (by decide +kernel), _, rfl, rfl, fun r => ⟨?_, nofun⟩, fun r => ⟨?_, nofun⟩⟩
  · rw [e 0 (Or.inl rfl) 4 (Or.inl rfl)]; exact near (by decide +kernel)
  · rw [e 2 (Or.inr rfl) 5 (Or.inr rfl)]; exact near (by decide +kernel)

/-- A drain of FP32 rows of 64 columns to 0x2000000, no residual. -/
def drainWords : List Word := [0x2000000, 0, 256, 0, 0x3F800000, 0, 0, 0, 0, 0, 0, 0, 0, 0, 0, 0]

theorem wit_drain : PlainUnit (working 4 0 drainWords []) (cmdOf 4 0 drainWords) ∧
    outType [0, 0, 0, 0] (fieldBits (wordOf drainWords 3) 4 2) (fieldBits (wordOf drainWords 3) 6 2) = some .fp32 ∧
    EngineRange (working 4 0 drainWords []) (cmdOf 4 0 drainWords) .write (operandRow (cmdOf 4 0 drainWords) 0 2 0) 256 0x2000000 ∧
    (wordOf drainWords 3).getLsbD 8 = false :=
  ⟨plain (by decide +kernel), rfl, near (by decide +kernel), rfl⟩

/-- A mask of one chunk of 128 elements, in 16 rows of 8 columns, three of them set. -/
def maskBytes : List Byte := [1, 0, 0, 0, 16, 0, 0, 0, 0, 0, 0, 0, 0, 0, 0, 0, 0x81, 1]

theorem wit_walk : PlainUnit (working 5 0 [0x2000000, 0, 0x80010, 64, 2] maskBytes) (cmdOf 5 0 [0x2000000, 0, 0x80010, 64, 2]) ∧
    EngineRange (working 5 0 [0x2000000, 0, 0x80010, 64, 2] maskBytes) (cmdOf 5 0 [0x2000000, 0, 0x80010, 64, 2]) .read 0x2000000 8 0x2000000 ∧
    chunkLost (fun p => bget (working 5 0 [0x2000000, 0, 0x80010, 64, 2] maskBytes).mem (0x2000000 + p)) 1 0 = false ∧
    EngineRange (working 5 0 [0x2000000, 0, 0x80010, 64, 2] maskBytes) (cmdOf 5 0 [0x2000000, 0, 0x80010, 64, 2]) .read 0x2000010 16 0x2000010 ∧
    ((List.range 128).filter (maskHas (working 5 0 [0x2000000, 0, 0x80010, 64, 2] maskBytes) 0x2000000 (fun _ => 0x2000010) 128)).length = 3 :=
  ⟨plain (by decide +kernel), near (by decide +kernel), by decide +kernel, near (by decide +kernel), by decide +kernel⟩

/-- Two bytes compressed from 0x2000000 to 0x2000100. -/
def storeWords (l : List Word) : List Word := [0x2000000, 0, 2, 1, 0x2000100, 0, 64, 0] ++ l

theorem wit_cstore : PlainUnit (working 6 0 (storeWords []) [5, 0]) (cmdOf 6 0 (storeWords [])) ∧
    EngineRange (working 6 0 (storeWords []) [5, 0]) (cmdOf 6 0 (storeWords [])) .read 0x2000000 2 0x2000000 ∧
    EngineRange (working 6 0 (storeWords []) [5, 0]) (cmdOf 6 0 (storeWords [])) .write (0x2000100 + 4) 12 0x2000104 ∧
    PlainUnit (working 6 1 (storeWords [16]) [5, 0]) (cmdOf 6 1 (storeWords [16])) ∧
    EngineRange (working 6 1 (storeWords [16]) [5, 0]) (cmdOf 6 1 (storeWords [16])) .read 0x2000000 2 0x2000000 ∧
    chunkSize (placeByte (working 6 1 (storeWords [16]) [5, 0]) (cmdOf 6 1 (storeWords [16])) false 0x2000000 0x2000000) 1 2 = 32 ∧
    EngineRange (working 6 1 (storeWords [16]) [5, 0]) (cmdOf 6 1 (storeWords [16])) .write (0x2000100 + 16) 32 0x2000110 ∧
    PlainUnit (working 6 2 (storeWords [16]) [5, 0]) (cmdOf 6 2 (storeWords [16])) ∧
    EngineRange (working 6 2 (storeWords [16]) [5, 0]) (cmdOf 6 2 (storeWords [16])) .write 0x2000100 4 0x2000100 :=
  ⟨plain (by decide +kernel), near (by decide +kernel), near (by decide +kernel), plain (by decide +kernel), near (by decide +kernel),
    by decide +kernel, near (by decide +kernel), plain (by decide +kernel), near (by decide +kernel)⟩

/-- The buffer of `maskBytes` read back as 128 elements of one byte at 0x2000200. -/
def loadWords : List Word := [0x2000000, 0, 128, 1, 0x2000200, 0, 0, 0]

theorem wit_cload : PlainUnit (working 7 0 loadWords maskBytes) (cmdOf 7 0 loadWords) ∧
    EngineRange (working 7 0 loadWords maskBytes) (cmdOf 7 0 loadWords) .read 0x2000000 4 0x2000000 ∧
    EngineRange (working 7 0 loadWords maskBytes) (cmdOf 7 0 loadWords) .read (0x2000000 + BitVec.ofNat 64 4) 4 0x2000004 ∧
    EngineRange (working 7 0 loadWords maskBytes) (cmdOf 7 0 loadWords) .read 0x2000010 16 0x2000010 ∧
    bitsSet (fun b => bget (working 7 0 loadWords maskBytes).mem (0x2000010 + b)) 128 = [0, 7, 8] ∧
    EngineRange (working 7 0 loadWords maskBytes) (cmdOf 7 0 loadWords) .read (0x2000010 + 16) 3 0x2000020 ∧
    EngineRange (working 7 0 loadWords maskBytes) (cmdOf 7 0 loadWords) .write 0x2000200 128 0x2000200 :=
  ⟨plain (by decide +kernel), near (by decide +kernel), near (by decide +kernel), near (by decide +kernel), by decide +kernel,
    near (by decide +kernel), near (by decide +kernel)⟩

theorem wit_engine_page : Command (commanded { cmd0 false 0 with missed := some 99 }) 1 { cmd0 false 0 with missed := some 99 } ∧
    stillMissed (commanded { cmd0 false 0 with missed := some 99 }) 0 1 99 = false :=
  ⟨⟨rfl, rfl⟩, rfl⟩

/-- A COLL of one element at 0x2000040 over the ranks 0 and 1, this package being rank 0, `units` units of which are done; the rank list
stands at 0x2000100. -/
def coll0 (units : Nat) (till : DWord) : Cmd :=
  { cmd0 false units with cls := 4, sub := 8, desc := [0x2000040, 0, 1, 0, 0, 0], deadline := till, begun := decide (units = 1) }

/-- The two ranks' data have come, rank 1's with COUNT `n`. -/
noncomputable def collecting (units : Nat) (till : DWord) (n : Nat) : State :=
  let s := commanded (coll0 units till)
  { s with
    dev := { s.dev with comms := [(0, 0x2000100), (1, 0), (2, 2)] },
    mem := bputN [] 0x2000104 [1, 0, 0, 0],
    collIn := [(0, ⟨0, 0, 1, 0, [7]⟩), (0, ⟨1, 0, n, 0, List.replicate n 5⟩)] }

theorem wit_coll : Command (collecting 0 5 1) 1 (coll0 0 5) ∧ UnitDue (collecting 0 5 1) (coll0 0 5) ∧
    EngineWord (collecting 0 5 1) (coll0 0 5) 0x2000040 0x2000040 ∧
    Command (collecting 1 5 1) 1 (coll0 1 5) ∧ UnitDue (collecting 1 5 1) (coll0 1 5) ∧ (coll0 1 5).begun = true ∧
    EngineWord (collecting 1 5 1) (coll0 1 5) 0x2000040 0x2000040 ∧
    rankList (collecting 1 5 1) 0 = [0, 1] ∧ (coll0 1 5).ranks = none ∧ (collecting 1 5 1).clock.toNat < (coll0 1 5).deadline.toNat ∧
    collRanks (collecting 1 5 1) (coll0 1 5) = [⟨0, 0, 1, 0, [7]⟩, ⟨1, 0, 1, 0, [5]⟩] ∧
    collRanks (collecting 1 5 2) (coll0 1 5) = [⟨0, 0, 1, 0, [7]⟩, ⟨1, 0, 2, 0, [5, 5]⟩] ∧
    Command (collecting 1 0 1) 1 (coll0 1 0) ∧ (coll0 1 0).deadline.toNat ≤ (collecting 1 0 1).clock.toNat := by
  have hc : ∀ u, ∀ e ∈ (collecting u 5 1).clusters, e.2.cache = [] := fun u e he => by cases List.mem_singleton.mp he; rfl
  have h0 : EngineWord (collecting 0 5 1) (coll0 0 5) 0x2000040 0x2000040 := ⟨by decide,
    range (by decide) (by decide +kernel) rfl (hc 0) rfl, range (by decide) (by decide +kernel) rfl (hc 0) rfl, rfl⟩
  have h1 : EngineWord (collecting 1 5 1) (coll0 1 5) 0x2000040 0x2000040 := ⟨by decide,
    range (by decide) (by decide +kernel) rfl (hc 1) rfl, range (by decide) (by decide +kernel) rfl (hc 1) rfl, rfl⟩
  exact ⟨⟨rfl, rfl⟩, ⟨by decide +kernel, rfl, rfl, by decide +kernel⟩, h0, ⟨rfl, rfl⟩,
    ⟨by decide +kernel, rfl, rfl, by decide +kernel⟩, rfl, h1, by decide +kernel, rfl, by decide +kernel, by decide +kernel,
    by decide +kernel, ⟨rfl, rfl⟩, by decide +kernel⟩

/-! ### Witnesses: keys, keyspace tables, rebalancing -/

/-- A task of a quadtree with two owners of this package. -/
def kd0 : KDesc := ⟨2, 2, 0x2001000, 0x2002000, 4, 128, 0x2003000⟩

/-- The key of the level-1 cell with child index 0, and a second one with child index 1. -/
def key0 : Nat := 2 ^ 63 + 1
def key1 : Nat := 2 ^ 63 + 2 ^ 60 + 1

/-- Page tables of one 2 MiB page, a cut list at version 1 whose second owner starts at `key1`, and an index of the first
owner that holds `key0` with a cost. -/
def kmem : List Host.Cell :=
  bputN (bputN (bputN (bputN (bputN (bputN (bputN []
    0x10000 (leBytes 8 0x11001)) 0x11000 (leBytes 8 0x12001)) 0x12100 (leBytes 16 placeLeaf.toNat))
    0x2001000 (leBytes 8 1)) 0x2001070 (leBytes 12 (key1 + 2 ^ 64)))
    0x2002000 (leBytes 4 1)) 0x2002040 (leBytes 20 (key0 + 2 ^ 64 * 0x2003000 + 2 ^ 128 * 5))

def task0 : Task := { placeTask with kdesc := some kd0 }

noncomputable def keyed (f : Group → Group) (t : Task) : State :=
  let s := on f
  { s with mem := kmem, tasks := [(1, t)], dev := { s.dev with spaces := [(placeRecord.asid, (0x10001, 0))] } }

theorem of_toOption {ε α : Type} {x : Except ε α} {a : α} (h : x.toOption = some a) : x = .ok a := by
  cases x with
  | error _ => exact nomatch h
  | ok b => exact congrArg Except.ok (Option.some.inj h)

theorem keyed_tables : headVersion (keyed id task0) task0 kd0 = .ok 1 ∧
    cutsOf (keyed id task0) task0 kd0 1 = .ok [⟨0, 0, false, true⟩, ⟨BitVec.ofNat 64 key1, 1, false, true⟩] ∧
    readIndex (keyed id task0) task0 kd0 0 = .ok [⟨BitVec.ofNat 64 key0, 0x2003000, 5, 0, 0⟩] ∧
    readIndex (keyed id task0) task0 kd0 1 = .ok [] := by
  refine ⟨?_, ?_, ?_, ?_⟩ <;> exact of_toOption (by decide +kernel)

theorem ok_any {ε α : Type} {x : Except ε α} (p : α → Bool) (h : x.toOption.any p = true) : ∃ a, x = .ok a ∧ p a = true := by
  cases x with
  | error _ => exact nomatch h
  | ok b => exact ⟨b, rfl, h⟩

/-- The keys, as chapter 11 writes them. -/
theorem key_ok (k : Nat) (h : k = key0 ∨ k = key1) : OfTask kd0 k := by
  rcases h with rfl | rfl <;> refine ⟨⟨by decide, by decide, by decide, ?_⟩, by decide⟩ <;>
    intro b h1 h2 <;> revert h1 <;> simp only [key0, key1, kDim, kLvl] at h2 ⊢ <;>
    have h3 : b < 60 := h2 <;> clear h2 <;> revert b <;> decide

theorem wit_key_words : Issues (.kenc 4 8) s0 ∧ Issues (.kdec 4 8) s0 ∧ Issues (.klevel 4 8) s0 ∧ Issues (.kchild 4 8 6) s0 ∧
    (keyRel (.kenc 4 8)).isSome := ⟨issues rfl rfl rfl rfl rfl rfl, issues rfl rfl rfl rfl rfl rfl,
      issues rfl rfl rfl rfl rfl rfl, issues rfl rfl rfl rfl rfl rfl, rfl⟩

theorem wit_no_keyspace : Issues (.klocate 4 8) s0 ∧ NoKeyspace s0 := by
  refine ⟨issues rfl rfl rfl rfl rfl rfl, fun t h => ?_⟩
  cases h; rfl

theorem key_task (f : Group → Group) (t : Task) (h : t.kdesc = some kd0) (h1 : (f s0.G).task = 1) : KeyTask (keyed f t) t kd0 := by
  have e : (keyed f t).G = f s0.G := rfl
  refine ⟨?_, h⟩
  rw [e, h1]; rfl

/-- A rebalance that moves the leaf. -/
def rebal0 : Rebal :=
  { handle := 0x4000001, version := 2, moves := [], snap := false, total := 0, switched := [], leadPkg := 0, leadQtr := 0,
    header := false, counted := [], copied := [], switchedAt := [], leaves := [], used := [], agreed := [] }
def moving (stage : Nat) : Rebal :=
  { rebal0 with version := 1, moves := [⟨BitVec.ofNat 64 key0, 0, 1, 0, stage, 0⟩], snap := true, total := 1,
                header := stage == 2 }
def taskMoving (stage : Nat) : Task := { task0 with rebal := some (moving stage) }

theorem wit_locate : ∃ v, Issues (.klocate 4 8) (keyed id task0) ∧ KeyTask (keyed id task0) task0 kd0 ∧
    kview (keyed id task0) task0 0 = some v ∧ v.d = kd0 ∧ AllLocal (keyed id task0) v.cs ∧ LeavesApart kd0 v.ls ∧
    ∀ l ∈ v.ls, l.moving = false := by
  refine ⟨⟨kd0, [⟨0, 0, false, true⟩, ⟨BitVec.ofNat 64 key1, 1, false, true⟩], [⟨BitVec.ofNat 64 key0, 0, false⟩]⟩,
    issues rfl rfl rfl rfl rfl rfl, key_task _ _ rfl rfl, ?_, rfl, ?_, ⟨by decide, ?_, ?_⟩, by decide⟩
  · have h := keyed_tables
    have h1 : seenLeaves (keyed id task0) task0 kd0
      [⟨0, 0, false, true⟩, ⟨BitVec.ofNat 64 key1, 1, false, true⟩] 0 = .ok [⟨BitVec.ofNat 64 key0, 0, false⟩] :=
      of_toOption (by decide +kernel)
    show (some kd0).bind _ = _
    simp only [Option.bind_some, show quarterVersion task0 0 = 1 from rfl, h.2.1, h1]
  · intro j hj; revert j; decide
  · intro l hl; simp only [List.mem_singleton] at hl; subst hl; exact key_ok _ (.inl rfl)
  · intro l hl x hx _; simp only [List.mem_singleton] at hl hx; rw [hl, hx]

theorem mget_range {α : Type} (f : Nat → α) (m n : Nat) (h : n < m) : mget ((List.range m).map (fun k => (k, f k))) n = some (f n) := by
  have : ∀ a, n < a + m → a ≤ n → mget ((List.range' a m).map (fun k => (k, f k))) n = some (f n) := by
    clear h
    induction m with
    | zero => intro a h1 h2; omega
    | succ m ih =>
      intro a h1 h2
      simp only [List.range'_succ, List.map_cons, mget]
      split
      · next e => rw [e]
      · next e => exact ih (a + 1) (by omega) (by omega)
  rw [List.range_eq_range']
  exact this 0 (by omega) (Nat.zero_le _)

/-- Every entry of the quarter's handle table is pending. -/
noncomputable def pendingHandles (n : Nat) : Map HandleEntry :=
  (List.range n).map (fun k => (k, { HandleEntry.empty with state := .pending }))
noncomputable def fullTable (s : State) : State := { s with handles := pendingHandles 65536 }

theorem handle_pending (s : State) (m n : Nat) (h : n < m) :
    ({ s with handles := pendingHandles m } : State).handle n = { HandleEntry.empty with state := .pending } := by
  show (mget (pendingHandles m) n).getD _ = _
  rw [show mget (pendingHandles m) n = _ from mget_range (fun _ => _) m n h]
  rfl

theorem no_free (s : State) : NoFreeHandle (fullTable s) 0 := by
  intro n hn
  rw [Nat.mul_zero, Nat.zero_add, fullTable, handle_pending s _ n hn]
  exact nofun

/-- The active lane asks for the leaf that moves. -/
def askKey (g : Group) : Group := { g with v := [(8, [BitVec.ofNat 32 key0]), (9, [BitVec.ofNat 32 (key0 / 2 ^ 32)])] }

theorem wit_locate_waits : Issues (.klocate 4 8) (fullTable (keyed askKey (taskMoving 1))) ∧
    seenLeaves (fullTable (keyed askKey (taskMoving 1))) (taskMoving 1) kd0
      [⟨0, 0, false, true⟩, ⟨BitVec.ofNat 64 key1, 1, false, true⟩] 0 = .ok [⟨BitVec.ofNat 64 key0, 0, true⟩] ∧
    keyIn (fullTable (keyed askKey (taskMoving 1))).G 8 0 = key0 ∧ NoFreeHandle (fullTable (keyed askKey (taskMoving 1))) 0 :=
  ⟨issues rfl rfl rfl rfl rfl rfl, of_toOption (by decide +kernel), rfl, no_free _⟩

/-- One active lane asks for it, and the quarter's handle table has room. -/
theorem wit_locate_handle : ∃ v, Issues (.klocate 4 8) (keyed (fun g => masked 1 (askKey g)) (taskMoving 1)) ∧
    KeyTask (keyed (fun g => masked 1 (askKey g)) (taskMoving 1)) (taskMoving 1) kd0 ∧
    kview (keyed (fun g => masked 1 (askKey g)) (taskMoving 1)) (taskMoving 1) 0 = some v ∧ v.d = kd0 ∧
    AllLocal (keyed (fun g => masked 1 (askKey g)) (taskMoving 1)) v.cs ∧ LeavesApart kd0 v.ls ∧
    OnlyLane (keyed (fun g => masked 1 (askKey g)) (taskMoving 1)).G 0 ∧
    NamedLeaf kd0 v.ls (keyIn (keyed (fun g => masked 1 (askKey g)) (taskMoving 1)).G 8 0) ⟨BitVec.ofNat 64 key0, 0, true⟩ ∧
    FreeHandle (keyed (fun g => masked 1 (askKey g)) (taskMoving 1)) 0 0 := by
  refine ⟨⟨kd0, [⟨0, 0, false, true⟩, ⟨BitVec.ofNat 64 key1, 1, false, true⟩], [⟨BitVec.ofNat 64 key0, 0, true⟩]⟩,
    issues rfl rfl rfl rfl rfl rfl, key_task _ _ rfl rfl, ?_, rfl, ?_, ⟨by decide, ?_, ?_⟩, ⟨by decide, by decide +kernel⟩,
    ⟨key_ok _ (.inl rfl), List.mem_cons_self, .inl rfl⟩, by decide, rfl, fun _ h => nomatch h⟩
  · have h1 : cutsOf (keyed (fun g => masked 1 (askKey g)) (taskMoving 1)) (taskMoving 1) kd0 1 =
      .ok [⟨0, 0, false, true⟩, ⟨BitVec.ofNat 64 key1, 1, false, true⟩] := of_toOption (by decide +kernel)
    have h2 : seenLeaves (keyed (fun g => masked 1 (askKey g)) (taskMoving 1)) (taskMoving 1) kd0
      [⟨0, 0, false, true⟩, ⟨BitVec.ofNat 64 key1, 1, false, true⟩] 0 = .ok [⟨BitVec.ofNat 64 key0, 0, true⟩] :=
      of_toOption (by decide +kernel)
    show (some kd0).bind _ = _
    simp only [Option.bind_some, show quarterVersion (taskMoving 1) 0 = 1 from rfl, h1, h2]
  · intro j hj; revert j; decide
  · intro l hl; simp only [List.mem_singleton] at hl; subst hl; exact key_ok _ (.inl rfl)
  · intro l hl x hx _; simp only [List.mem_singleton] at hl hx; rw [hl, hx]

theorem wit_owner_of : Issues (.kowner 4 8) (keyed askKey task0) ∧
    cutsOf (keyed askKey task0) task0 kd0 (mgetD task0.versions 0 1) =
      .ok [⟨0, 0, false, true⟩, ⟨BitVec.ofNat 64 key1, 1, false, true⟩] ∧
    KeyTask (keyed askKey task0) task0 kd0 ∧
    CutsRise [⟨0, 0, false, true⟩, ⟨BitVec.ofNat 64 key1, 1, false, true⟩] ∧
    CutsHeld (keyed askKey task0) 0 1 [⟨0, 0, false, true⟩, ⟨BitVec.ofNat 64 key1, 1, false, true⟩] := by
  refine ⟨issues rfl rfl rfl rfl rfl rfl, of_toOption (by decide +kernel), key_task _ _ rfl rfl, ?_, ?_⟩
  · intro i j h1 h2
    have h3 : j < 2 := h2
    obtain ⟨rfl, rfl⟩ : i = 0 ∧ j = 1 := by omega
    exact fun _ _ => by decide
  · rintro e (h | h) <;> cases h

theorem wit_stage : Issues (.krefine 1 8) (keyed askKey task0) ∧ OwnEntries (keyed askKey task0) task0 kd0
    [⟨BitVec.ofNat 64 key0, 0x2003000, 5, 0, 0⟩] ∧ (keyed askKey task0).team? (keyed askKey task0).G.team = some placeTeam :=
  ⟨issues rfl rfl rfl rfl rfl rfl, ⟨1, [⟨0, 0, false, true⟩, ⟨BitVec.ofNat 64 key1, 1, false, true⟩], 0,
    of_toOption (by decide +kernel), of_toOption (by decide +kernel), rfl, of_toOption (by decide +kernel)⟩, rfl⟩

theorem wit_cost_none : Issues (.kcost 8 6) (keyed id task0) ∧
    ∀ i, (keyed id task0).G.active.getLsbD i = true → ¬OfTask kd0 (keyIn (keyed id task0).G 8 i) := by
  refine ⟨issues rfl rfl rfl rfl rfl rfl, fun i _ h => ?_⟩
  have e : keyIn (keyed id task0).G 8 i = 0 := rfl
  rw [e] at h
  exact absurd h.2 (by decide)

theorem all_local (s : State) (h : s.dev.pkg = 0 := by rfl) :
    AllLocal s [⟨0, 0, false, true⟩, ⟨BitVec.ofNat 64 key1, 1, false, true⟩] := by
  intro j hj
  have h2 : j < 2 := hj
  rcases (by omega : j = 0 ∨ j = 1) with rfl | rfl <;> simp [cutEntry, Cut.local, h] <;> rfl

/-- One lane is active. -/
noncomputable def costing : State := keyed (fun g => masked 1 (askKey g)) task0

theorem wit_cost : Issues (.kcost 8 6) costing ∧ task0.rebal = none ∧ AllLocal costing [⟨0, 0, false, true⟩, ⟨BitVec.ofNat 64 key1, 1, false, true⟩] ∧ (∀ k, k < 96 → (costing.G.active.getLsbD k = true ↔ k = 0)) ∧
    OfTask kd0 (keyIn costing.G 8 0) ∧ (0 : Nat) < 96 ∧ List.range 2 = [] ++ 0 :: [1] ∧
    ∃ s', tput costing task0 (indexAddr kd0 0 + 80) (leBytes 4 (min (5 + lw costing.G 6 0) (2 ^ 32 - 1))) = .ok s' ∧
      decide (s'.groups = costing.groups ∧ s'.cur = costing.cur) = true :=
  ⟨issues rfl rfl rfl rfl rfl rfl, rfl, all_local _, by decide +kernel, key_ok _ (.inl rfl), by decide, rfl,
    ok_any _ (by decide +kernel)⟩

/-- The second owner is in package 1, to which port 3 leads. -/
noncomputable def abroad (f : Group → Group) (t : Task) : State :=
  let s := keyed f t
  { s with mem := bputN kmem 0x2001078 (leBytes 4 4096), ports := [(3, Port.empty)], dev := { s.dev with routes := [(1, 8)] } }

/-- The cut list of `abroad`. -/
def farCuts : List Cut := [⟨0, 0, false, true⟩, ⟨BitVec.ofNat 64 key1, 4096, false, true⟩]

/-- One active lane adds to a leaf of that owner's reach. -/
noncomputable def costingFar : State :=
  abroad (fun g => masked 1 { g with v := [(8, [BitVec.ofNat 32 key1]), (9, [BitVec.ofNat 32 (key1 / 2 ^ 32)])] }) task0

theorem wit_cost_far : Issues (.kcost 8 6) costingFar ∧ KeyTask costingFar task0 kd0 ∧ OnlyLane costingFar.G 0 ∧
    OfTask kd0 (keyIn costingFar.G 8 0) ∧ headVersion costingFar task0 kd0 = .ok 1 ∧ cutsOf costingFar task0 kd0 1 = .ok farCuts ∧
    CutsRise farCuts ∧ ReachOf farCuts (keyIn costingFar.G 8 0) 1 ∧ (cutEntry farCuts 1).local costingFar = false ∧
    ∃ s1, sendMsg costingFar 6 0 1 0 .accepted 0 (.cost 1 (BitVec.ofNat 64 (keyIn costingFar.G 8 0)) ((costingFar.G.row 6).at 0))
      (some (costingFar.cur, costingFar.G.nextId, 0)) = some s1 ∧ decide (s1.groups = costingFar.groups ∧ s1.cur = costingFar.cur) = true := by
  have some_any : ∀ {α : Type} {x : Option α} (p : α → Bool), x.any p = true → ∃ a, x = some a ∧ p a = true := by
    intro α x p h
    cases x with
    | none => exact nomatch h
    | some a => exact ⟨a, rfl, h⟩
  refine ⟨issues rfl rfl rfl rfl rfl rfl, ⟨rfl, rfl⟩, ⟨by decide, by decide +kernel⟩, key_ok _ (.inr rfl), of_toOption (by decide +kernel),
    of_toOption (by decide +kernel), ?_, ⟨by decide, rfl, .inl ⟨by decide +kernel, fun i h1 h2 _ => ?_⟩⟩, by decide +kernel, some_any _ (by decide +kernel)⟩
  · intro i j h1 h2
    have h3 : j < 2 := h2
    obtain ⟨rfl, rfl⟩ : i = 0 ∧ j = 1 := by omega
    exact fun _ _ => by decide
  · have h3 : i < 2 := h2
    omega

theorem wit_commit : Issues .kcommit (keyed id task0) ∧ (keyed id task0).G.kind = .started ∧
    (keyed id task0).G.split.mask = (keyed id task0).G.live :=
  ⟨issues rfl rfl rfl rfl rfl rfl, rfl, rfl⟩

theorem wit_rebal : Issues (.krebal 14 3) (keyed id task0) ∧ nv (keyed id task0).G 3 / 2 ^ 16 % 32 ≤ 20 ∧
    FreeHandle (keyed id task0) 0 0 ∧ (keyed id task0).dev.pkg < 2 ^ 20 ∧
    (cutEntry [⟨0, 0, false, true⟩, ⟨BitVec.ofNat 64 key1, 1, false, true⟩] 0).local (keyed id task0) = true ∧ headVersion (keyed id task0) task0 kd0 = .ok 1 ∧
    (∀ h : DWord, UniWritable (keyed id task0).G [(14, loWord h), (15, hiWord h)]) ∧
    ¬RebalanceBarred (keyed id task0) task0 ∧ RebalanceBarred (keyed id (taskMoving 0)) (taskMoving 0) ∧
    RebalanceBarred (keyed id task0) { task0 with inPhase := true } ∧
    RebalanceBarred { keyed id task0 with teams := [(1, { placeTeam with staged := [(true, 5)] })] } task0 ∧
    (keyed id task0).G.xfer < 65535 :=
  ⟨issues rfl rfl rfl rfl rfl rfl, by decide, ⟨by decide, rfl, fun _ h => nomatch h⟩, by decide,
    all_local _ rfl 0 (by decide), keyed_tables.1,
    fun _ => ⟨rfl, rfl⟩, by unfold RebalanceBarred; decide +kernel, .inl rfl, .inr (.inl rfl),
    .inr (.inr ⟨_, List.mem_singleton_self _, rfl, List.cons_ne_nil _ _⟩), by decide +kernel⟩

theorem wit_rebal_bad : 20 < nv (keyed (fun g => { g with s := [(3, 0x1F0000)] }) task0).G 3 / 2 ^ 16 % 32 := by decide +kernel

theorem wit_phase : Issues .ordb s0 ∧ s0.task? s0.G.task = some { placeTask with text := s0.mem } ∧ placeTask.inPhase = false ∧
    Issues .orde s0 ∧ Issues (.ordstat 13) s0 ∧
    Issues (.ordstat 13) (on (masked 1)) ∧ (on (masked 1)).G.split.mask ≠ (on (masked 1)).G.live ∧
    Issues (.krebal 14 3) (keyed (masked 1) task0) ∧ KeyTask (keyed (masked 1) task0) task0 kd0 :=
  ⟨issues rfl rfl rfl rfl rfl rfl, rfl, rfl, issues rfl rfl rfl rfl rfl rfl, issues rfl rfl rfl rfl rfl rfl,
    issues rfl rfl rfl rfl rfl rfl, by decide +kernel, issues rfl rfl rfl rfl rfl rfl, key_task _ _ rfl rfl⟩

/-! ### Witnesses: barriers, phases, rebalances -/

/-- The only group of its team has arrived by KCOMMIT, and the team has a staged refinement. -/
def arrivedBy (b : PendBody) (g : Group) : Group := { g with pends := [pend0 b], nextId := 2 }
noncomputable def committing (staged : List (Bool × DWord)) : State :=
  { keyed (arrivedBy (.kcommit 1)) task0 with teams := [(1, { placeTeam with staged := staged })] }

theorem wit_barrier_complete : (committing []).team? 1 = some placeTeam ∧ (committing []).task? placeTeam.task = some task0 ∧
    ((committing []).groups.map Prod.fst).Nodup ∧ teamMembers (committing []) 1 = [(1, (committing []).G)] ∧
    AtBarrier (committing []) (committing []).G 1 true (pend0 (.kcommit 1)) ∧ FirstsSettled (committing []) placeTeam.task :=
  ⟨rfl, rfl, by decide +kernel, rfl, rfl, fun _ h => nomatch h⟩

theorem wit_commit_applied : commitWaits task0 kd0 [(true, BitVec.ofNat 64 key0)] = false ∧
    teamOwner (committing [(true, BitVec.ofNat 64 key0)]) { Group.vacant with kind := .started, core := 0 }
      [⟨0, 0, false, true⟩, ⟨BitVec.ofNat 64 key1, 1, false, true⟩] = some 0 ∧
    ∃ s1, writeIndex (committing [(true, BitVec.ofNat 64 key0)]) task0 kd0 0
      ((sortReqs [(true, BitVec.ofNat 64 key0)]).foldl (applyReq kd0 0 [(true, BitVec.ofNat 64 key0)])
        [⟨BitVec.ofNat 64 key0, 0x2003000, 5, 0, 0⟩]) = .ok s1 ∧
      (followFirst s1 1 task0 kd0 [⟨0, 0, false, true⟩, ⟨BitVec.ofNat 64 key1, 1, false, true⟩] 0
        [⟨BitVec.ofNat 64 key0, 0x2003000, 5, 0, 0⟩] ((sortReqs [(true, BitVec.ofNat 64 key0)]).foldl (applyReq kd0 0 [(true, BitVec.ofNat 64 key0)])
        [⟨BitVec.ofNat 64 key0, 0x2003000, 5, 0, 0⟩])).toOption.any (fun s2 =>
          decide (s2.teams = s1.teams ∧ s2.groups = s1.groups)) = true :=
  ⟨rfl, rfl, ok_any _ (by decide +kernel)⟩

/-- The leaf of `key0` alone, as an index. -/
def leaf0 : KEnt := ⟨BitVec.ofNat 64 key0, 0x2003000, 5, 0, 0⟩

theorem wit_refine : OfTask kd0 (BitVec.ofNat 64 key0).toNat ∧ ([leaf0].map KEnt.key).Nodup ∧ leaf0.state = 0 ∧
    kLvl (BitVec.ofNat 64 key0).toNat < levelMax kd0.dim ∧
    ∀ x ∈ [leaf0], Below (BitVec.ofNat 64 key0).toNat x.key.toNat → x.key = BitVec.ofNat 64 key0 :=
  ⟨key_ok _ (.inl rfl), by decide, rfl, by decide, fun x hx _ => by rw [List.mem_singleton.mp hx]; rfl⟩

/-- Owner 0's one leaf stands in its slot 0, with room for the children. -/
theorem wit_slots : SlotsLegal kd0 0 [leaf0] := by
  refine ⟨fun x hx => ?_, by decide, by decide, by decide⟩
  rw [List.mem_singleton.mp hx]
  exact ⟨0, by decide, rfl⟩

/-- The level-1 cells, children of the root cell. -/
def kid (c : Nat) : KEnt := ⟨BitVec.ofNat 64 (2 ^ 63 + 2 ^ 60 * c + 1), 0x2003000, 5, 0, 0⟩

theorem kid_below : ∀ c, c < 4 → OfTask kd0 (kid c).key.toNat ∧ Below (2 ^ 63) (kid c).key.toNat := by
  intro c hc
  have hk : ∀ b, b < 60 → 6 ≤ b → (kid c).key.toNat.testBit b = false := by revert c; decide
  have e : 62 - kDim (kid c).key.toNat * kLvl (kid c).key.toNat = 60 := by clear hk; revert c; decide
  have h : WellFormedKey (kid c).key.toNat := by
    refine ⟨?_, ?_, ?_, fun b h1 h2 => hk b ?_ h1⟩
    · clear hk e; revert c; decide
    · clear hk e; revert c; decide
    · clear hk e; revert c; decide
    · omega
  exact ⟨⟨h, by clear hk e h; revert c; decide⟩, h, by clear hk e h; revert c; decide, by clear hk e h; revert c; decide⟩

theorem wit_coarsen : OfTask kd0 (0x8000000000000000 : DWord).toNat ∧ kLvl (0x8000000000000000 : DWord).toNat < levelMax kd0.dim ∧
    (∀ x ∈ (List.range 4).map kid, x.key ≠ 0x8000000000000000) ∧ (((List.range 4).map kid).map KEnt.key).Nodup ∧
    ∀ c, c < 4 → kid c ∈ (List.range 4).map kid ∧ (kid c).state = 0 ∧ OfTask kd0 (kid c).key.toNat ∧
      kLvl (kid c).key.toNat = kLvl (0x8000000000000000 : DWord).toNat + 1 ∧
      Below (0x8000000000000000 : DWord).toNat (kid c).key.toNat ∧ childAt (kid c).key.toNat 1 = c := by
  refine ⟨⟨⟨by decide, by decide, by decide, ?_⟩, rfl⟩, by decide, by decide, by decide, ?_⟩
  · intro b h1 h2
    have h3 : b < 62 := h2
    revert h1; clear h2; revert b; decide
  · intro c hc
    refine ⟨List.mem_map_of_mem (List.mem_range.mpr hc), rfl, (kid_below c hc).1, ?_, (kid_below c hc).2, ?_⟩ <;>
      revert c <;> decide

/-- The only group of a task has arrived at ORDB, or at ORDE with a shared line of two writers. -/
def line0 : PhaseLine := ⟨true, (0, 0), List.replicate 128 0, [], [⟨5, 0, 7, 0xFFFFFFFF, 0, 3⟩], [5]⟩
noncomputable def opening : State := { on (arrivedBy (.ordb 1)) with tasks := [(1, placeTask)] }
noncomputable def closing (ls : Map PhaseLine) : State :=
  { on (arrivedBy (.orde 1)) with tasks := [(1, { placeTask with inPhase := true, phaseNo := 1, lines := ls })] }

theorem wit_phase_opens : opening.task? 1 = some placeTask ∧ ordArrivals opening 1 placeTask = some [(1, pend0 (.ordb 1))] ∧
    (opening.groups.map Prod.fst).Nodup ∧ refusedBefore (opening.group 1) (pend0 (.ordb 1)) (ordScope opening placeTask) = [] :=
  ⟨rfl, by decide +kernel, by decide +kernel, rfl⟩

theorem wit_phase_closes : ordArrivals (closing [(0x40000, line0)]) 1
      { placeTask with inPhase := true, phaseNo := 1, lines := [(0x40000, line0)] } = some [(1, pend0 (.orde 1))] ∧
    (∀ c ∈ (closing [(0x40000, line0)]).clusters, c.2.cache = []) ∧
    ordArrivals (closing []) 1 { placeTask with inPhase := true, phaseNo := 1 } = some [(1, pend0 (.orde 1))] :=
  ⟨by decide +kernel, by decide +kernel, by decide +kernel⟩

theorem one_package (s : State) (t : Task) (h : t.kdesc = none) : OnePackage s t :=
  fun _ _ _ h1 => nomatch h.symm.trans h1

/-- Tasks with every owner here, and one with an owner in package 1, before and after this package has told it of its arrival. -/
theorem wit_packages : OnePackage opening placeTask ∧ OnePackage (keyed id task0) task0 ∧ ∀ ns : List OrdNote,
    ns = [] ∨ ns = [⟨0, 1, false, [], 0, false⟩] → let t : Task := { task0 with notes := ns }
    (abroad (arrivedBy (.ordb 1)) t).task? 1 = some t ∧
    ordArrivals (abroad (arrivedBy (.ordb 1)) t) 1 t = some [(1, pend0 (.ordb 1))] ∧
    ordMembers (abroad (arrivedBy (.ordb 1)) t) t = [⟨BitVec.ofNat 64 key1, 4096, false, true⟩] ∧
    (t.said (abroad (arrivedBy (.ordb 1)) t).dev.pkg false = true ↔ ns ≠ []) ∧ t.said (ownerPkg 4096) false = false ∧
    refusedBefore ((abroad (arrivedBy (.ordb 1)) t).group 1) (pend0 (.ordb 1)) (ordScope (abroad (arrivedBy (.ordb 1)) t) t) = [] := by
  refine ⟨one_package _ _ rfl, fun d v cs h1 h2 h3 => ?_, fun ns h => ?_⟩
  · cases h1
    cases keyed_tables.1.symm.trans h2
    cases keyed_tables.2.1.symm.trans h3
    exact all_local _
  · rcases h with rfl | rfl <;> exact ⟨rfl, by decide +kernel, by decide +kernel, by decide +kernel, by decide +kernel, by decide +kernel⟩

/-- A rebalance whose snapshot is due, over an index of cost 0. -/
noncomputable def balancing (r : Rebal) (cost : Nat) : State :=
  let s := keyed id { task0 with rebal := some r }
  { s with mem := bputN s.mem 0x2002050 (leBytes 4 cost) }

theorem wit_snapshot : let t : Task := { task0 with rebal := some rebal0 }
    let s := balancing rebal0 0
    s.task? 1 = some t ∧ handlePkg (0x4000001 : DWord) = s.dev.pkg ∧ AllLocal s [⟨0, 0, false, true⟩, ⟨BitVec.ofNat 64 key1, 1, false, true⟩] ∧
    rebal0.snap = false ∧ rebal0.leaves = [] ∧
    ∃ x, snapshotCosts s t kd0 (List.range 2) = .ok x ∧ decide ((∀ e ∈ x.1, e.1.leaf = true → e.1.cost = 0) ∧
      x.2.results = s.results ∧ x.2.dev = s.dev ∧ x.2.tasks = s.tasks) = true :=
  ⟨rfl, rfl, all_local _, rfl, rfl, ok_any _ (by decide +kernel)⟩

theorem wit_copy_start : let t := taskMoving 0
    let s := balancing (moving 0) 5
    s.task? 1 = some t ∧ (moving 0).moves.find? (fun x => x.key == BitVec.ofNat 64 key0 && x.stage == 0) =
      some ⟨BitVec.ofNat 64 key0, 0, 1, 0, 0, 0⟩ ∧ serviceOn s 1 (BitVec.ofNat 64 key0) = false ∧
    AllLocal s [⟨0, 0, false, true⟩, ⟨BitVec.ofNat 64 key1, 1, false, true⟩] ∧
    ∃ s1, writeIndex s t kd0 0 [{ leaf0 with state := 1 }] = .ok s1 ∧ ((writeIndex s1 t kd0 1
      (insertEnt ⟨BitVec.ofNat 64 key0, slotAddr kd0 1 0, 0, 3, 0⟩ [])).toOption.any (fun s2 =>
        decide (s2.tasks = s.tasks ∧ s1.dev = s.dev))) = true :=
  ⟨rfl, rfl, rfl, all_local _, ok_any _ (by decide +kernel)⟩

/-- The last copy of a rebalance that this package leads, and one with another leaf still to copy. -/
theorem wit_copy_end : let t := taskMoving 1
    let s := balancing (moving 1) 5
    (moving 1).snap = true ∧ (moving 1).header = false ∧ (moving 1).leadPkg = s.dev.pkg ∧
    ∃ bs, tget s t leaf0.payload kd0.psize = .ok bs ∧
      (tput s t (slotAddr kd0 1 0) bs).toOption.any (fun s1 => decide (s1.tasks = s.tasks ∧ s1.dev = s.dev) &&
        (tput s1 t kd0.cuts (leBytes 8 1)).toOption.isSome) = true :=
  ⟨rfl, rfl, rfl, ok_any _ (by decide +kernel)⟩

theorem wit_copy_more : let r : Rebal := { moving 1 with moves := (moving 1).moves ++ [⟨BitVec.ofNat 64 key1, 0, 1, 1, 0, 0⟩] }
    r.moves.find? (fun x => x.key == BitVec.ofNat 64 key0 && x.stage == 1) = some ⟨BitVec.ofNat 64 key0, 0, 1, 0, 1, 0⟩ ∧
    ∃ x ∈ r.moves.map (fun x => if x.key = BitVec.ofNat 64 key0 then { x with stage := 2 } else x), x.stage < 2 := by
  decide +kernel

theorem wit_switch : let t := taskMoving 2
    let s := balancing (moving 2) 5
    (moving 2).header = true ∧ 0 ∉ (moving 2).switched ∧ (moving 2).switched.length < 3 ∧
    (moving 2).moves = [⟨BitVec.ofNat 64 key0, 0, 1, 0, 2, 0⟩] ∧ ownerQtr (1 : Word) = 0 ∧ (∀ e ∈ s.handles, e.2.lookup = none) ∧
    AllLocal s [⟨0, 0, false, true⟩, ⟨BitVec.ofNat 64 key1, 1, false, true⟩] ∧
    ∃ s1, writeIndex s t kd0 0 [{ leaf0 with state := 2, fwd := 1 }] = .ok s1 ∧ ((writeIndex s1 t kd0 1 []).toOption.any (fun s2 =>
      decide (s2.handles = s.handles ∧ s2.invs = s.invs ∧ s2.dev = s.dev ∧ s1.dev = s.dev))) = true :=
  ⟨rfl, nofun, by decide, rfl, by decide +kernel, nofun, all_local _, ok_any _ (by decide +kernel)⟩

theorem wit_owners : 0 < 2 ∧ 0 < [(leaf0.key, 0, leaf0.cost)].length ∧ 0 < costTotal [(leaf0.key, 0, leaf0.cost)] := by decide

/-! ### Witnesses: remote invocation and handles -/

/-- The control block s16 to s18 of an RINV, its input from s8 on, in a task of this package. -/
noncomputable def invoking (w : Word) : State := on (fun g => { g with s := [(18, w)] })

theorem wit_invoke : Issues (.rinvPkg 14 8 16) (invoking 1) ∧ (invoking 1).G.xfer < 65535 ∧
    (invoking 1).dev.pkg < 2 ^ 20 ∧ FreeHandle (invoking 1) 0 0 ∧
    (∀ h : DWord, UniWritable (invoking 1).G [(14, loWord h), (15, hiWord h)]) ∧
    Issues (.rinvKey 14 8 16) (invoking 1) ∧ NoKeyspace (invoking 1) ∧ Issues (.rinvHdl 14 8 16) (invoking 0x1F0000) ∧
    20 < (uniWordAt (invoking 0x1F0000).G 16 2).toNat / 2 ^ 16 % 32 :=
  ⟨issues rfl rfl rfl rfl rfl rfl, by decide +kernel, by decide, ⟨by decide, rfl, fun _ h => (nomatch h)⟩,
    fun _ => ⟨rfl, rfl⟩, issues rfl rfl rfl rfl rfl rfl, fun t h => by cases h; rfl, issues rfl rfl rfl rfl rfl rfl,
    by decide⟩

theorem wit_invoke_full : Issues (.rinvPkg 14 8 16) (fullTable (invoking 1)) ∧ NoFreeHandle (fullTable (invoking 1)) 0 ∧
    UniWritable (fullTable (invoking 1)).G [(14, 0), (15, 0)] :=
  ⟨issues rfl rfl rfl rfl rfl rfl, no_free _, rfl, rfl⟩

/-- Entry 3 of quarter 0 in a state, with generation 1, of task 1; s8:s9 hold its handle. -/
def entry3 (st : HandleState) : HandleEntry := { HandleEntry.empty with state := st, task := 1, cause := 2, result := [7] }
noncomputable def holding (st : HandleState) (g : Group → Group) : State :=
  { on (fun x => g { x with s := [(8, 3 * 2 ^ 26 + 1)] }) with handles := [(3, entry3 st)] }

theorem names3 (st : HandleState) (h : st ≠ .free) (g : Group → Group) : Names (holding st g) (3 * 2 ^ 26 + 1) 1 (entry3 st) := by
  exact ⟨by decide, rfl, rfl, h, rfl, rfl, rfl⟩

theorem wit_handle : Issues (.rawait 16 8 1) (holding .broken id) ∧ handleIn (holding .broken id).G 8 = 3 * 2 ^ 26 + 1 ∧
    BrokenNow (holding .broken id) (3 * 2 ^ 26 + 1) 1 2 ∧ Issues (.rawaitTrap 16 8) (holding .pending id) ∧
    Issues (.rpoll 1 8) (holding .ready id) ∧ Issues (.rdrop 8) (holding .ready id) ∧
    addressedTo (holding .ready id) (3 * 2 ^ 26 + 1) = false ∧ Issues (.rawait 16 2 1) s0 ∧ handleIn s0.G 2 = 0 ∧
    BrokenNow s0 0 1 6 :=
  ⟨issues rfl rfl rfl rfl rfl rfl, rfl, .inr (.inr ⟨_, names3 _ (by decide) _, rfl, rfl⟩), issues rfl rfl rfl rfl rfl rfl,
    issues rfl rfl rfl rfl rfl rfl, issues rfl rfl rfl rfl rfl rfl, rfl, issues rfl rfl rfl rfl rfl rfl, rfl, .inl ⟨rfl, rfl⟩⟩

/-- A RAWAIT of that handle has issued. -/
def await0 : Pend :=
  { pend0 (.rawait (3 * 2 ^ 26 + 1) false) with dst := (List.range 8).map (fun k => .s (16 + k)) ++ [.p 1] }

theorem wit_await : Outstanding (holding .ready (fun g => { g with pends := [await0] })) 1 1 await0 ∧
    (holding .ready (fun g => { g with pends := [await0] })).withdrawn
      ((holding .ready (fun g => { g with pends := [await0] })).group 1) await0 = false ∧
    Names (holding .ready (fun g => { g with pends := [await0] })) (3 * 2 ^ 26 + 1) 1 (entry3 .ready) :=
  ⟨⟨rfl, rfl⟩, rfl, names3 _ (by decide) _⟩

/-- The handle may be tested at once, or only after a FENCE.FULL that is not complete. -/
noncomputable def fenced (st : HandleState) : State :=
  holding st (fun g => { g with pends := [{ pend0 (.fence .full .core) with sid := g.split.ids.headD 0 }], nextId := 2, flags := [(3, 1)] })

theorem wit_tests : TestsAtOnce (holding .broken id) (.rawait 16 8 1) (.rawait (3 * 2 ^ 26 + 1) false) ∧
    TestsAtOnce (holding .broken id) (.rawaitTrap 16 8) (.rawait (3 * 2 ^ 26 + 1) true) ∧
    (∀ st, st ≠ .free → TestsAtOnce (holding st id) (.rpoll 1 8) (.rpoll (3 * 2 ^ 26 + 1)) ∧ Names (holding st id) (3 * 2 ^ 26 + 1) 1 (entry3 st)) ∧
    Issues (.rpoll 1 8) (fenced .ready) ∧ ¬TestsAtOnce (fenced .ready) (.rpoll 1 8) (.rpoll (3 * 2 ^ 26 + 1)) ∧
    Issues (.rawait 16 8 1) (fenced .broken) ∧ ¬TestsAtOnce (fenced .broken) (.rawait 16 8 1) (.rawait (3 * 2 ^ 26 + 1) false) := by
  refine ⟨⟨_, rfl, by decide +kernel⟩, ⟨_, rfl, by decide +kernel⟩, fun st h => ⟨⟨_, rfl, rfl⟩, names3 _ h _⟩,
    issues rfl rfl rfl rfl rfl rfl, ?_, issues rfl rfl rfl rfl rfl rfl, ?_⟩ <;> rintro ⟨sh, h, h2⟩ <;> cases h <;>
    exact absurd h2 (by decide +kernel)

/-- An RPOLL that had to wait. -/
def poll0 : Pend := { pend0 (.rpoll (3 * 2 ^ 26 + 1)) with dst := [.p 1] }

theorem wit_poll : Outstanding (holding .ready (fun g => { g with pends := [poll0] })) 1 1 poll0 ∧
    MayGo (holding .ready (fun g => { g with pends := [poll0] })) 1 poll0 ∧
    Names (holding .ready (fun g => { g with pends := [poll0] })) (3 * 2 ^ 26 + 1) 1 (entry3 .ready) :=
  ⟨⟨rfl, rfl⟩, ⟨by decide +kernel, (fun _ h => nomatch h), rfl, rfl⟩, names3 _ (by decide) _⟩

/-- An invocation of service 1 of this package, waiting for room. -/
def inv0 : Invocation :=
  { id := 1, target := .pkg 0 0, service := 1, args := [], input := [], handle := 3 * 2 ^ 26 + 1, task := 1, sender := 1, level := 0,
    prio := 0, key := 0, payload := 0, via := [] }

/-- Service 1 of virtual function 0 enters at 0x2000000 with 8 registers, on the cores of all partitions. -/
noncomputable def serving (n : Nat) : State :=
  { s0 with
    mem := bputN [] 0x2000110 (leBytes 12 (0x2000000 + 2 ^ 64 * 8))
    dev := { s0.dev with svctab := (0x2000100, n) }
    mailboxes := [(0, { Mailbox.empty with parts := BitVec.allOnes 64, ctxsize := 0x40000000 })]
    invs := [⟨inv0, .ready 0, 1⟩] }

theorem wit_service : packageService (serving 2) 1 = some ⟨0x2000000, 0x2000000, 8, 0, 0, 0⟩ ∧
    1 ∈ coresFor (serving 2) ⟨inv0, .ready 0, 1⟩ ∧ (serving 2).roomOn 1 32 8 = true ∧
    groupArea 32 8 ≤ (serving 2).ctxFree 0 ∧ packageService (serving 0) 1 = none ∧
    handlePkg inv0.handle = (serving 0).dev.pkg :=
  ⟨by decide +kernel, by decide +kernel, by decide +kernel, by decide +kernel, rfl, rfl⟩

/-- A result, or a handle of package 1, on its way to entry 3; and the outcome of the handle `of`. -/
def result3 (fwd of : DWord) : ResultMsg := ⟨9, 3 * 2 ^ 26 + 1, 1, [7], 0, fwd, of⟩
noncomputable def telling (st : HandleState) (m : ResultMsg) : State := { holding st id with results := [m] }

theorem wit_outcome : (∀ st m, m.id = 9 → (telling st m).results.find? (fun x => x.id == 9) = some m) ∧
    Counts ((telling .pending (result3 0 0)).handle 3) (result3 0 0) ∧ Alone (telling .pending (result3 0 0)) 3 ∧
    Counts ((telling .pending (result3 (2 ^ 44) 0)).handle 3) (result3 (2 ^ 44) 0) ∧ Alone (telling .pending (result3 (2 ^ 44) 0)) 3 ∧
    handlePkg (2 ^ 44 : DWord) ≠ (telling .pending (result3 (2 ^ 44) 0)).dev.pkg ∧
    ((telling .pending (result3 (2 ^ 44) 0)).handle 3).depth < 64 ∧ entryNo (result3 0 0).h = 3 ∧
    ¬Counts ((telling .ready (result3 0 0)).handle 3) (result3 0 0) ∧
    Counts { (telling .forwarded (result3 0 5)).handle 3 with fwdh := 5 } (result3 0 5) := by
  refine ⟨?_, ⟨rfl, rfl, .inl ⟨rfl, rfl⟩⟩, ⟨rfl, rfl, rfl, rfl⟩, ⟨rfl, rfl, .inl ⟨rfl, rfl⟩⟩, ⟨rfl, rfl, rfl, rfl⟩, by decide,
    by decide, rfl, ?_, rfl, rfl, .inr ⟨rfl, rfl, by decide⟩⟩
  · intro st m h
    show List.find? _ [m] = some m
    simp [h]
  · rintro ⟨_, _, ⟨h, _⟩ | ⟨h, _⟩⟩ <;> exact nomatch h

theorem wit_timeout : ((holding .pending id).handle 3).state = .pending ∧
    ((holding .pending id).handle 3).deadline.toNat ≤ (holding .pending id).clock.toNat ∧ Alone (holding .pending id) 3 :=
  ⟨rfl, by decide, ⟨rfl, rfl, rfl, rfl⟩⟩

/-- A service group whose lanes have all exited. -/
noncomputable def retiring : State :=
  { on (fun g => { g with kind := .service, splits := [], clause := none }) with invs := [⟨inv0, .running 1, 1⟩] }

theorem wit_service_retires : (retiring.group 1).kind = .service ∧ (retiring.group 1).live = 0 ∧
    (retiring.group 1).clause = none ∧ (retiring.group 1).xfer = 0 ∧ (retiring.group 1).pends = [] ∧
    cmdsQueued retiring 1 = false ∧ runningInv retiring 1 = some ⟨inv0, .running 1, 1⟩ := ⟨rfl, rfl, rfl, rfl, rfl, rfl, rfl⟩

/-! ### Witnesses: system instructions, traps, walker -/

/-- A group at a level, with s2 naming a system register (or an operand) and s3 a value. -/
noncomputable def system (l : Nat) (n w : Word) : State := on (fun g => { g with level := l, s := [(2, n), (3, w)] })

theorem wit_sysreg : Issues (.sysrd 13 2) (system 0 10 0) ∧ sysValue (system 0 10 0) (nv (system 0 10 0).G 2) = some (0, 0) ∧
    UniWritable (system 0 10 0).G [(13, 0)] ∧ sysValue (system 0 12 0) (nv (system 0 12 0).G 2) = none ∧
    sysValue (system 0 1 0) (nv (system 0 1 0).G 2) = some (1, 0) ∧
    Issues (.syswr 2 3) (system 2 0x10001 1) ∧ sysWriteLevel (nv (system 2 0x10001 1).G 2) = some 2 ∧
    ¬SysMalformed (nv (system 2 0x10001 1).G 2) ((system 2 0x10001 1).G.uni 3) ∧
    ¬SysMalformed (nv (system 2 4 3).G 2) ((system 2 4 3).G.uni 3) ∧ SysMalformed (nv (system 2 4 4).G 2) ((system 2 4 4).G.uni 3) := by
  refine ⟨issues rfl rfl rfl rfl rfl rfl, rfl, ⟨rfl, rfl⟩, rfl, rfl, issues rfl rfl rfl rfl rfl rfl,
    rfl, ?_, ?_, ?_⟩ <;> unfold SysMalformed <;> decide +kernel

/-- s2:s3 name page 17 of address space 1, s4:s5 the leaf at 0x3000000, which `leaf` says. -/
noncomputable def filling (leaf : BitVec 128) (g : Group → Group) : State :=
  let s := on (fun x => g { x with level := 2, s := [(2, 0x2200001), (4, 0x3000000)] })
  { s with mem := bputN [] 0x3000000 (leBytes 16 leaf.toNat) }

theorem wit_tlbfill : Issues (.tlbfill 2 4) (filling placeLeaf id) ∧ pv (filling placeLeaf id).G 2 / 2 ^ 16 % 32 = 0 ∧
    pv (filling placeLeaf id).G 4 % 16 = 0 ∧ ((filling placeLeaf id).cluster 0).walk = none ∧
    (leafOf (leafBits (filling placeLeaf id) 0x3000000)).valid 0 = true ∧
    (leafOf (leafBits (filling 0 id) 0x3000000)).valid 0 = false ∧ Issues (.tlbfill 2 4) (system 0 0 0) ∧
    pv (filling placeLeaf id).G 4 / 128 ∉ (filling placeLeaf id).bad ∧ pv (filling placeLeaf id).G 4 < 768 * 2 ^ 30 ∧
    Issues (.tlbfill 2 4) { filling placeLeaf id with bad := [0x60000] } ∧ pv (filling placeLeaf id).G 4 / 128 = 0x60000 :=
  ⟨issues rfl rfl rfl rfl rfl rfl, by decide +kernel, by decide +kernel, rfl, by decide +kernel, by decide +kernel,
    issues rfl rfl rfl rfl rfl rfl, nofun, by decide +kernel, issues rfl rfl rfl rfl rfl rfl, by decide +kernel⟩

/-- The walker's own group, with its walk in progress. -/
noncomputable def walking : State :=
  let s := filling placeLeaf (fun g => { g with kind := .walker })
  { s with clusters := [(0, { (s.cluster 0) with walk := some (⟨1, 17, 0, 0⟩, 0), walker := some 1 })] }

theorem wit_walker_fill : Issues (.tlbfill 2 4) walking ∧ walking.G.kind = .walker ∧
    (walking.cluster 0).walk = some (⟨1, 17, 0, 0⟩, 0) ∧ (walking.cluster 0).walker = some walking.cur ∧
    pv walking.G 2 % 65536 = 1 ∧ pv walking.G 2 / 2 ^ 21 = 17 ∧ (0 : DWord).toNat ≤ walking.clock.toNat :=
  ⟨issues rfl rfl rfl rfl rfl rfl, rfl, rfl, rfl, by decide +kernel, by decide +kernel, by decide⟩

theorem wit_tlbinv : Issues (.tlbinv 2) (filling 0 id) ∧ pv (filling 0 id).G 2 < 2 ^ 57 ∧
    pv (filling 0 id).G 2 / 2 ^ 18 % 8 = 0 ∧ pv (filling 0 id).G 2 / 2 ^ 16 % 4 ≠ 3 :=
  ⟨issues rfl rfl rfl rfl rfl rfl, by decide +kernel, by decide +kernel, by decide +kernel⟩

theorem wit_logrd : Issues (.logrd 4 2) (on (fun g => { g with level := 1, log := [(0, noEntry)] })) ∧
    mget (on (fun g => { g with level := 1, log := [(0, noEntry)] })).G.log 0 = some noEntry ∧
    mget (system 1 1 0).G.log 1 = none ∧ Issues (.clock 14) s0 ∧ UniWritable s0.G (pairOut 14 s0.clock).unis ∧
    Issues (.timewait 2) s0 :=
  ⟨issues rfl rfl rfl rfl rfl rfl, rfl, rfl, issues rfl rfl rfl rfl rfl rfl, ⟨rfl, rfl⟩, issues rfl rfl rfl rfl rfl rfl⟩

/-- In a handler that was entered at a word of the same clause. -/
noncomputable def frame0 (e : Option Nat) (w : Bool) : Machine.Frame :=
  { splits := [(0, s0.G.split)], parked := [], cur := 0, stack := [], preds := [], temps := [], tw := 0,
    unis := List.replicate 8 0, level := 0, clause := s0.G.clause, entry := e, atWord := w, mark := 1, redo := none, late := none, lateSid := 0,
    ovr := none, again := none, after := [] }
noncomputable def handling (f : Machine.Frame) (tret : Word) : State :=
  last 1 (fun g => { g with level := 1, frame := some f, tret := tret, tepc := g.text, log := [(0, noEntry)] })

theorem wit_eret : Issues .eret (last 1 id) ∧ (last 1 id).G.frame = none ∧
    Issues .eret (handling (frame0 (some 0) true) 0) ∧
    handlerBusy (handling (frame0 (some 0) true) 0) (handling (frame0 (some 0) true) 0).G (frame0 (some 0) true) = false ∧
    mget (handling (frame0 (some 0) true) 0).G.log 0 = some noEntry ∧
    inText (handling (frame0 none false) 3) (handling (frame0 none false) 3).G (handling (frame0 none false) 3).G.tepc = true ∧
    handlerBusy (handling (frame0 none false) 3) (handling (frame0 none false) 3).G (frame0 none false) = false ∧
    (handling (frame0 none false) 0).G.tret = 0 ∧ (frame0 none false).entry = none :=
  ⟨issues rfl rfl rfl rfl rfl rfl, rfl, issues rfl rfl rfl rfl rfl rfl, rfl, rfl, rfl, rfl, rfl, rfl⟩

/-- In a handler for a word of split 1 that had issued, entered while split 0 was current, with its clause or between two. -/
noncomputable def lateFrame (c : Bool) : Machine.Frame :=
  { frame0 (some 0) true with
    splits := [(0, { s0.G.split with mask := 0xFF }), (1, { s0.G.split with mask := 0xFF00, ids := [7] })]
    redo := s0.G.clause, lateSid := 7, clause := if c then s0.G.clause else none }

theorem wit_eret_late : ∀ tret ∈ [(0 : Word), 1, 2, 3], ∀ c, Issues .eret (handling (lateFrame c) tret) ∧
    (handling (lateFrame c) tret).G.frame = some (lateFrame c) ∧
    handlerBusy (handling (lateFrame c) tret) (handling (lateFrame c) tret).G (lateFrame c) = false ∧
    faultedIn (handling (lateFrame c) tret).G (lateFrame c) = 1 ∧ (lateFrame c).cur = 0 ∧ (lateFrame c).redo ≠ none ∧
    ((lateFrame c).clause.isSome = c) ∧ inText (handling (lateFrame c) tret) (handling (lateFrame c) tret).G
      (handling (lateFrame c) tret).G.tepc = true := by
  intro tret ht c
  simp only [List.mem_cons, List.not_mem_nil, or_false] at ht
  rcases ht with rfl | rfl | rfl | rfl <;> cases c <;>
    exact ⟨issues rfl rfl rfl rfl rfl rfl, rfl, rfl, by decide +kernel, rfl, nofun, rfl, rfl⟩

theorem wit_eret_at_word : ∀ tret ∈ [(0 : Word), 1, 2, 4], ∀ e ∈ [none, some 0], Issues .eret (handling (frame0 e true) tret) ∧
    (handling (frame0 e true) tret).G.frame = some (frame0 e true) ∧ (frame0 e true).atWord = true ∧
    handlerBusy (handling (frame0 e true) tret) (handling (frame0 e true) tret).G (frame0 e true) = false := by
  intro tret ht e he
  simp only [List.mem_cons, List.not_mem_nil, or_false] at ht he
  rcases ht with rfl | rfl | rfl | rfl <;> rcases he with rfl | rfl <;> exact ⟨issues rfl rfl rfl rfl rfl rfl, rfl, rfl, rfl⟩

/-- A miss waits in cluster 0, with a walker routine installed or without. -/
noncomputable def missing (w : DWord) : State :=
  { s0 with clusters := [(0, { Cluster.empty with misses := [⟨1, 17, 0, 0⟩] })], dev := { s0.dev with walkers := [(0, w)] } }

theorem wit_walker : ((missing 0x2000000).cluster 0).walk = none ∧ ((missing 0x2000000).cluster 0).misses = [⟨1, 17, 0, 0⟩] ∧
    mgetD (missing 0x2000000).dev.walkers 0 0 ≠ 0 ∧ mgetD (missing 0).dev.walkers 0 0 = 0 :=
  ⟨rfl, rfl, by decide, rfl⟩

/-- A load that has waited for its page: the page is there now, or its walk ended without a fill. -/
def missed0 (failed : List Nat) : Pend := { pend1 (.load .b32 true) with missed := true, failed := failed }

theorem wit_reissue : Outstanding (issued (missed0 [])) 1 1 (missed0 []) ∧
    (∀ a ∈ (missed0 []).accs, stillMissed (issued (missed0 [])) 0 1 (pageOf a.va) = false) ∧
    (∀ a ∈ (missed0 []).accs, translate (issued (missed0 [])) ((issued (missed0 [])).group 1).who .read a.va =
      .hit 0x2000040 none none) ∧
    (∀ a ∈ (missed0 [16]).accs, pageOf a.va ∈ (missed0 [16]).failed ∧ a.lane < 96) ∧
    ((issued (missed0 [16])).group 1).frame = none ∧ (missed0 []).failed = [] ∧ (issued (missed0 [])).bad = [] :=
  ⟨out _ rfl, by decide +kernel, by decide +kernel, by decide, rfl, rfl, rfl⟩

/-- The task has a handler. -/
theorem wit_handler : ({ issued (missed0 [16]) with tasks := [(1, { placeTask with thand := 0x100 })] } : State).thand
    ((issued (missed0 [16])).group 1) ≠ 0 := by decide +kernel

theorem wit_bankrole : firstMark (roleWrites (issued (pend0 (.bankrole 0 2))) 0 0) = some (1, pend0 (.bankrole 0 2), 2) ∧
    bankQuiet (issued (pend0 (.bankrole 0 2))) 0 0 0 = true ∧ ((issued (pend0 (.bankrole 0 2))).groups.map Prod.fst).Nodup :=
  ⟨rfl, rfl, by decide +kernel⟩

/-! ### Witnesses: the dealer, the host, the package -/

/-- The record of chapter 18's example, as bytes at its offsets. -/
def record0 : List Host.Cell :=
  bputN (bputN (bputN (bputN (bputN (bputN (bputN []
    0x00 (leBytes 8 0x100000040)) 0x08 (leBytes 8 0x2000000)) 0x14 (leBytes 8 0x7000000000100))
    0x3C (leBytes 4 0x180002)) 0x70 (leBytes 16 (2 ^ 64 + 0x80000005))) 0xB0 (leBytes 16 (2 ^ 64 + 0x90000006)))
    0xFC (leBytes 4 1)

/-- Mailbox 0 after its owner's set-up, with slot bytes; the package is powered, linked and owned by master 0. -/
def box (slots : List Host.Cell) : Mailbox :=
  { Mailbox.empty with slots := slots, ccount := 16, parts := BitVec.allOnes 64, ctxsize := 0x40000000 }
noncomputable def managed (slots : List Host.Cell) (f : State → State) : State :=
  f { State.reset with
    mailboxes := [(0, box slots)],
    dev := { Device.reset with powered := true, linkUp := true, owner := 0 } }

/-- The same, owned by master 1, whose function has mailbox 0. -/
noncomputable def hosted : State := managed [] (fun s => { s with dev := { s.dev with owner := 1 } })

theorem wit_denied_host : hostStore (.counterSet 3 5 1) = some (3, 2, 5, 10 * 2 ^ 48 + 160) ∧ InWindow 3 2 5 ∧
    ¬InWindow 3 1 0 ∧ (managed [] id).dev.linkUp = true ∧ ¬Granted (managed [] id).dev 3 2 5 false true := by
  refine ⟨rfl, ⟨by decide, nofun⟩, fun h => absurd (h.2 rfl) (by decide), rfl, ?_⟩
  rintro (⟨h, -⟩ | ⟨r, hr, h, -⟩)
  · exact absurd h (by decide)
  · exact absurd h (by revert r; decide)

theorem wit_host_writes : HostAllowed (.mailboxSlotWrite 1 0 4 [1]) hosted 1 ∧
    HostAllowed (.mailboxKill 1 0 0x80000000) hosted 1 ∧ HostAllowed (.counterSet 1 5 1) hosted 1 ∧
    HostAllowed (.counterAdd 1 5 1) hosted 1 ∧ HostAllowed (.counterReset 1 5 1) hosted 1 :=
  have g : ∀ cls unit, cls ≠ 4 → Granted hosted.dev 1 cls unit false true := fun _ _ h => Or.inl ⟨rfl, h⟩
  ⟨⟨1, 0, _, rfl, ⟨by decide, fun _ => rfl⟩, rfl, g _ _ (by decide)⟩, ⟨1, 0, _, rfl, ⟨by decide, fun _ => rfl⟩, rfl, g _ _ (by decide)⟩,
    ⟨2, 5, _, rfl, ⟨by decide, nofun⟩, rfl, g _ _ (by decide)⟩, ⟨2, 5, _, rfl, ⟨by decide, nofun⟩, rfl, g _ _ (by decide)⟩,
    ⟨2, 5, _, rfl, ⟨by decide, nofun⟩, rfl, g _ _ (by decide)⟩⟩

/-- A started task of slot 0 with a group, and a waiting task. -/
noncomputable def busy : State := managed [] (fun s => { s with
  groups := s0.groups, cur := 1, teams := [(1, placeTeam)],
  tasks := [(1, placeTask), (2, { placeTask with stage := .waiting, slot := 1, record := parseRecord (slotBytes (box record0) 0) })] })

theorem wit_kill : KeysOnce busy.tasks ∧ busy.task? 1 = some placeTask ∧
    (∃ gid g, mget busy.groups gid = some g ∧ g.task = 1 ∧ g.kind = .started) :=
  ⟨by unfold KeysOnce; decide, rfl, 1, _, rfl, rfl, rfl⟩

theorem wit_counter_reset : (∀ e ∈ busy.tasks, e.2.succOf = none) ∧
    ∃ x, busy.task? 2 = some x ∧ x.stage ≠ .started ∧
      ∃ e ∈ x.record.waits, e.w0.getLsbD 31 = true ∧ e.w0.toNat % 4096 = 5 :=
  ⟨by decide, _, rfl, by decide, ⟨0x80000005, 0, 1⟩, by decide +kernel, rfl, rfl⟩

theorem listening (slots : List Host.Cell) : Listening (managed slots id) 0 :=
  ⟨rfl, rfl, (by decide : (0x40000000 : DWord) ≠ 0), (by decide : BitVec.allOnes 64 ≠ 0), fun _ h => nomatch h⟩

theorem wit_record : Listening (managed record0 id) 0 ∧ fieldAt (slotBytes (box record0) 0) 0xFC 4 = 1 ∧
    ∀ d, ¬RecordFails ((managed record0 id).setMailbox 0 { box record0 with consumed := 1 }) 0 (slotBytes (box record0) 0) d := by
  refine ⟨listening _, by decide +kernel, fun d h => ?_⟩
  unfold RecordFails CounterOut at h
  rcases h with ⟨-, h⟩ | ⟨-, h⟩ | ⟨-, h⟩ | ⟨-, h⟩ | ⟨-, h⟩ | ⟨-, h⟩ | ⟨-, h⟩ | ⟨-, h⟩ | ⟨-, h⟩ | ⟨-, h⟩ | ⟨k, hk, -, h⟩ |
    ⟨-, h⟩ | ⟨k, hk, rfl, h⟩ | ⟨k, hk, rfl, h⟩ | ⟨-, h⟩
  all_goals revert h
  all_goals first | decide +kernel | (revert k; decide +kernel)

/-- A record of zeros with SEQ 1 has no team. -/
theorem wit_record_fails : RecordFails ((managed (bputN [] 0xFC [1]) id).setMailbox 0 { box (bputN [] 0xFC [1]) with consumed := 1 })
    0 (slotBytes (box (bputN [] 0xFC [1])) 0) 4 := by
  unfold RecordFails
  exact Or.inr (Or.inl ⟨rfl, by decide +kernel⟩)

/-- The example's task, ready to start, in quarters at point `opp`; or saved after a start; or with a lower task in its way. -/
def ready0 : Task :=
  { placeTask with record := parseRecord (slotBytes (box record0) 0), stage := .ready, plan := [none], placed := 0 }
noncomputable def placing (opp : Nat) : State :=
  managed record0 (fun s => { s with tasks := [(1, ready0)], dev := { s.dev with opp := [(0, opp)] } })

theorem wit_place : (placing 0).task? 1 = some ready0 ∧ workOf (placing 0) 1 ready0 = some (.fresh none) ∧
    passedOver (placing 0) 1 ready0 = false ∧ (spotFor (placing 0) ready0 (.fresh none) 0).isSome ∧
    oppOf (placing 0).dev 0 ≤ max ready0.record.opp (minPoint (placing 0).dev 0) ∧
    max ready0.record.opp (minPoint (placing 7).dev 0) < oppOf (placing 7).dev 0 :=
  ⟨rfl, by decide +kernel, by decide +kernel, by decide +kernel, by decide +kernel, by decide +kernel⟩

/-- A team that was saved with one scratch bank, its area at 0x4000000 and its group's at 0x5000000. -/
def saved0 : Team := { placeTeam with scratch := [0], saved := true, saveRoles := [1], area := [(0x4000000, 0x100000)] }
noncomputable def resuming : State :=
  managed record0 (fun s => { s with
    tasks := [(1, { ready0 with stage := .started, plan := [], placed := 1 })], teams := [(1, saved0)],
    groups := [(1, { s0.G with clause := none, area := [(0x5000000, 0x20000)] })], dev := { s.dev with opp := [(0, 0)] } })

theorem wit_resume : workOf resuming 1 { ready0 with stage := .started, plan := [], placed := 1 } = some (.resume 1) ∧
    (spotFor resuming { ready0 with stage := .started, plan := [], placed := 1 } (.resume 1) 0).isSome ∧
    passedOver resuming 1 { ready0 with stage := .started, plan := [], placed := 1 } = false ∧
    KeysOnce resuming.groups ∧ AreasOf resuming 1 saved0 ∧ Memory.wf (resuming.pool 0) = true ∧
    (∀ c, Memory.wf (resuming.core c).acc = true) ∧ (resuming.cluster 0).cache = [] := by
  refine ⟨by decide +kernel, by decide +kernel, by decide +kernel, by unfold KeysOnce; decide +kernel, ?_, rfl, fun _ => rfl, rfl⟩
  exact ⟨by unfold Apart; decide +kernel, by decide +kernel, by decide +kernel⟩

/-- A task of one core only, on which a team of a task of lower priority runs with every scratch bank of the cluster. -/
noncomputable def crowded (prio : Word) : State :=
  managed record0 (fun s => { s with
    mailboxes := [(0, { box record0 with parts := 1 })],
    tasks := [(1, ready0), (2, { placeTask with record := { placeRecord with ctrl := prio } })],
    teams := [(1, { placeTeam with task := 2, scratch := List.range 64 })],
    clusters := [(0, { Cluster.empty with banks := (List.range 64).map (fun k => (k, ⟨1, some 1, []⟩)) }),
      (1, { Cluster.empty with banks := (List.range 64).map (fun k => (k, ⟨1, some 1, []⟩)) })],
    groups := [(1, { s0.G with task := 2, clause := none })] })

theorem wit_preempt : workOf (crowded 0x50) 1 ready0 = some (.fresh none) ∧ passedOver (crowded 0x50) 1 ready0 = false ∧
    placeable (crowded 0x50) ready0 (.fresh none) = false ∧
    takeVictims (crowded 0x50) ready0 (.fresh none) (victimsOf (crowded 0x50) ready0
      (fun _ _ u => decide (ready0.record.prio < u.record.prio))) [] = some [1] ∧
    KeysOnce (crowded 0x50).teams ∧ KeysOnce (crowded 0x50).groups := by
  refine ⟨by decide +kernel, by decide +kernel, by decide +kernel, by decide +kernel, ?_, ?_⟩ <;> unfold KeysOnce <;> decide +kernel

noncomputable def withHeld (h : Held) (mark : Nat) : State := on (fun g => { g with held := some h, clause := none, saveMark := mark })

theorem wit_held (h : Held) (mark : Nat) : mget (withHeld h mark).groups 1 = some (withHeld h mark).G ∧
    (withHeld h mark).G.kind ≠ .vacant ∧ (withHeld h mark).G.held = some h ∧ inFlight (withHeld h mark) 1 = 0 ∧
    (withHeld h mark).cmds = [] ∧ (withHeld h mark).team? 1 = some placeTeam ∧ atRest (withHeld h mark) (withHeld h mark).G = true ∧
    (withHeld h mark).G.tpend = [] ∧ (withHeld h mark).G.saveMark = mark ∧ bufferClear (withHeld h mark) 0 mark = true ∧
    allClear (withHeld h mark) mark .package = true ∧
    refusedBefore (withHeld h mark).G (withHeld h mark).G.saveFence .package = [] :=
  ⟨rfl, (by decide : GroupKind.started ≠ .vacant), rfl, rfl, rfl, rfl, rfl, rfl, rfl, rfl, rfl, rfl⟩

/-- Two groups of one team, the first to be killed or to retire. -/
noncomputable def twins (f : Group → Group) : State := let s := on f; { s with groups := s.groups ++ [(2, s0.G)] }

theorem wit_killed : let s := twins (fun g => { g with held := some (.kill false) })
    mget s.groups 1 = some s.G ∧ s.G.held = some (.kill false) ∧ inFlight s 1 = 0 ∧ MemberOf s 2 1 s0.G ∧
    runningInv s 1 = none ∧ (s.task? 1).isSome := ⟨rfl, rfl, rfl, ⟨rfl, rfl, .inl rfl⟩, rfl, rfl⟩

/-- A team of which everything is at rest, to be saved: its area at 0x4000000, its group's at 0x5000000. -/
noncomputable def saving : State :=
  let s := banked (fun g => { g with clause := none, area := [(0x5000000, 0x20000)] })
  { s with teams := [(1, { placeTeam with scratch := [0], fifo := [1], saving := true, area := [(0x4000000, 0x100000)] })] }

theorem wit_save : ∃ tm, saving.team? 1 = some tm ∧ tm.saving = true ∧ (∃ gid g, MemberOf saving gid 1 g) ∧
    (∀ e ∈ saving.groups, e.2.team = 1 → e.2.held = none ∧ atRest saving e.2 = true) ∧ AreasOf saving 1 tm ∧
    KeysOnce saving.groups ∧ Memory.wf saving.mem = true ∧ Memory.wf (saving.pool 0) = true ∧
    (∀ c, Memory.wf (saving.core c).acc = true) ∧ (saving.cluster 0).cache = [] := by
  refine ⟨_, rfl, rfl, ⟨1, saving.G, rfl, rfl, .inl rfl⟩, by decide +kernel,
    ⟨by unfold Apart; decide +kernel, by decide +kernel, by decide +kernel⟩, by unfold KeysOnce; decide +kernel,
    by decide +kernel, rfl, fun _ => rfl, rfl⟩

/-- A group without a lane left, in its task. -/
def ended (g : Group) : Group := { g with splits := [], clause := none }
noncomputable def finishing (r : Record) : State := { on ended with tasks := [(1, { placeTask with record := r })] }

theorem wit_retire : MayRetire (twins ended) 1 (twins ended).G ∧ runningInv (twins ended) 1 = none ∧
    MemberOf (twins ended) 2 1 s0.G ∧ MayRetire (finishing placeRecord) 1 (finishing placeRecord).G ∧
    ∀ e ∈ (finishing placeRecord).groups, e.1 = 1 :=
  ⟨⟨rfl, .inl rfl, rfl, rfl, rfl, fun _ h => (nomatch h), fun _ h => nomatch h⟩, rfl, ⟨rfl, rfl, .inl rfl⟩,
    ⟨rfl, .inl rfl, rfl, rfl, rfl, fun _ h => (nomatch h), fun _ h => nomatch h⟩, by decide +kernel⟩

/-- Records that signal by ADD, or name a successor that cannot be read, or one that can. -/
theorem wit_retire_ends : ((parseRecord (slotBytes (box record0) 0)).sigs.headD ⟨0, 0, 0⟩).w0.toNat / 2 ^ 28 % 4 = 1 ∧
    ({ placeRecord with ctrl := 0x10000 } : Record).nsucc = 1 ∧
    hwRead (finishing { placeRecord with ctrl := 0x10000, succ := 0x2001000 }) 1 1 0x2001000 256 = none ∧
    (hwRead ({ finishing { placeRecord with ctrl := 0x10000, succ := 0x2001000 } with
        mem := kmem, dev := { s0.dev with spaces := [(1, (0x10001, 0))] } } : State) 1 1 0x2001000 256).isSome := by
  decide +kernel

theorem wit_opp : let s : State := { s0 with dev := { s0.dev with oppNext := [(0, 3)], opp := [(0, 3)] } }
    mget s.dev.oppNext 0 = some 3 ∧ KeysOnce s.dev.oppNext ∧ LowestOpp s 0 (waitingOpps s 0) 0 :=
  ⟨rfl, by unfold KeysOnce; decide, by decide, by decide +kernel, .inr (by decide +kernel)⟩

theorem wit_management : (managed [] id).dev.linkUp = true ∧ (managed [] id).dev.owner = 0 ∧ ¬OpenTo 3 8 ∧ unitInRange (.rule 7) ∧
    (leBytes 16 5).length = (unitOffset (.rule 7)).2 ∧ mgmtStore (.give 3 1) = some (3, 8) ∧
    (managed [] (fun s => { s with dev := { s.dev with owner := 0xFF } })).dev.powered = true ∧
    mget ({ s0.dev with attreq := [(3, leBytes 32 9)] } : Device).attreq 3 = some (leBytes 32 9) := by
  refine ⟨rfl, rfl, ?_, by unfold unitInRange; decide, rfl, rfl, rfl, rfl⟩
  unfold OpenTo; decide

/-- One task of virtual function 0, with its group. -/
noncomputable def resetting : State := { busy with tasks := [(1, placeTask)] }

theorem wit_function_reset : KeysOnce resetting.handles ∧ KeysOnce resetting.tasks ∧ (∃ x, resetting.task? 1 = some x ∧ x.mailbox / 8 = 0) ∧
    (∀ k x, resetting.task? k = some x → x.mailbox / 8 = 0 →
      ∃ gid g, mget resetting.groups gid = some g ∧ g.task = k ∧ (g.kind = .started ∨ g.kind = .spawned)) ∧
    ∀ k x, resetting.task? k = some x → x.mailbox / 8 ≠ 5 := by
  have key : ∀ k x, resetting.task? k = some x → k = 1 ∧ x = placeTask := by
    intro k x h
    by_cases hk : 1 = k
    · subst hk; exact ⟨rfl, (Option.some.inj h).symm⟩
    · simp [resetting, State.task?, mget, hk] at h
  refine ⟨by unfold KeysOnce; decide, by unfold KeysOnce; decide, ⟨_, rfl, rfl⟩, ?_, ?_⟩
  · intro k x h _
    obtain ⟨rfl, rfl⟩ := key k x h
    exact ⟨1, _, rfl, rfl, .inl rfl⟩
  · intro k x h
    obtain ⟨rfl, rfl⟩ := key k x h
    decide

theorem wit_power_cap : 2400 < [600, 700, 600, 600].foldl (· + ·) 0 ∧ minPoint s0.dev 1 < 7 ∧
    ∀ k, k < 4 → [600, 700, 600, 600].getD k 0 < [600, 700, 600, 600].getD 1 0 ∨
      ([600, 700, 600, 600].getD k 0 = [600, 700, 600, 600].getD 1 0 ∧ 1 ≤ k) := by decide +kernel

/-- A port that has sent one flit, or two. -/
def sent0 : Port := Port.empty.send 0 ⟨0, 1, [1, 2, 3], 9, 0⟩
def sent1 : Port := sent0.send 0 ⟨1, 1, [4], 9, 1⟩
noncomputable def linked (x : Port) : State := { s0 with ports := [(3, x)] }

/-- A change to point 3 or to point 7 is under way for a task that asks for point 0. -/
theorem wit_opp_redirect : ∀ x ∈ [3, 7], LowestOpp { placing 7 with dev := { (placing 7).dev with oppNext := [(0, x)] } } 0 [ready0.record.opp] 0 ∧
    max ready0.record.opp (minPoint { (placing 7).dev with oppNext := [(0, x)] } 0) < oppOf { (placing 7).dev with oppNext := [(0, x)] } 0 := by
  intro x h
  simp only [List.mem_cons, List.not_mem_nil, or_false] at h
  rcases h with rfl | rfl <;> exact ⟨⟨by decide, by decide +kernel, .inr (by decide +kernel)⟩, by decide +kernel⟩

/-- A master without rules: what it would write to a function's configuration space, or read of a mailbox, is denied. -/
theorem wit_denied_config : (managed [] id).dev.linkUp = true ∧ ¬Granted (managed [] id).dev 3 3 1 false true ∧
    hostReads 8 (.mailbox 16) = some (1, 16, 9 * 2 ^ 48 + 16384 * 16 + 8) ∧ InWindow 3 1 16 ∧
    ¬Granted (managed [] id).dev 3 1 16 true false := by
  refine ⟨rfl, ?_, rfl, ⟨by decide, fun _ => rfl⟩, ?_⟩ <;> rintro (⟨h, -⟩ | ⟨r, hr, h, -⟩)
  · exact absurd h (by decide)
  · exact absurd h (by revert r; decide)
  · exact absurd h (by decide)
  · exact absurd h (by revert r; decide)

theorem wit_port : (linked sent0).port 3 = sent0 ∧ sent0.up = true ∧ Numbered sent0 ∧ sent0.kept ≠ [] ∧ sent0.resends < 16 ∧
    sent0.queue = [] ∧ sent0.nakSent = false ∧ sent0.since.toNat + 2000 ≤ 2000 ∧
    (linked sent0).clock.toNat < sent0.since.toNat + 2000 := by
  refine ⟨rfl, rfl, ⟨by decide, by decide, (by decide : 1 ≤ 512), rfl, (fun h => absurd rfl h), nofun, ?_⟩,
    (List.cons_ne_nil _ _), by decide, rfl, rfl, by decide, by decide⟩
  intro k f h
  have hk : k < 1 := (List.getElem?_eq_some_iff.mp h).1
  have e : k = 0 := by omega
  subst e
  cases h
  exact ⟨flitBytes_good _ _ _, flitBytes_seq _ _ _⟩

theorem wit_port_two : Numbered sent1 ∧ (sent1.kept[0]?).map flitNo = some 0 ∧ sent1.kept.drop 1 ≠ [] ∧ sent1.queue = [] := by
  refine ⟨⟨by decide, by decide, (by decide : 2 ≤ 512), rfl, (fun h => absurd rfl h), nofun, ?_⟩, ?_, List.cons_ne_nil _ _, rfl⟩
  · intro k f h
    have hk : k < 2 := (List.getElem?_eq_some_iff.mp h).1
    rcases (by omega : k = 0 ∨ k = 1) with rfl | rfl <;> cases h <;> exact ⟨flitBytes_good _ _ _, flitBytes_seq _ _ _⟩
  · exact congrArg some (flitBytes_seq _ _ _)

/-- The next flit of the other side, one of a wrong number, and an idle flit that acknowledges. -/
theorem wit_flits : flitGood (flitBytes 0 4095 ⟨0, false, 1, [1]⟩) = true ∧
    flitNo (flitBytes 0 4095 ⟨0, false, 1, [1]⟩) = (sent0.lastSeq + 1) % 4096 ∧
    flitNo (flitBytes 5 4095 ⟨0, false, 1, [1]⟩) ≠ (sent0.lastSeq + 1) % 4096 ∧
    flitGood (flitBytes 4095 0 ⟨0, false, 0, []⟩) = true ∧
    leNat (((flitBytes 4095 0 ⟨0, false, 0, []⟩).drop 2).take 2) = 2 ^ 15 + 0 ∧
    flitGood (flitBytes 4095 0 ⟨0, true, 0, []⟩) = true ∧ (sent0.kept[0]?).map flitNo = some 0 := by
  have hn : ∀ a b c, flitNo (flitBytes a b c) = a % 4096 := flitBytes_seq
  refine ⟨flitBytes_good _ _ _, hn _ _ _, by rw [hn]; decide, flitBytes_good _ _ _, flitBytes_ack _ _ _, flitBytes_good _ _ _, ?_⟩
  exact congrArg some (hn _ _ _)

/-- A stream that uses a port which has failed sixteen times; port 5 leads the same way. -/
def request0 : Message := ⟨1, 1, 0, 0, 0, 0, .accepted, 7, .store 1 0x2000040 0 [(1, 0xFF)] ⟨0, 0, 0, true, 0⟩⟩
def stream0 (b : Nat) : Stream := ⟨1, 0, 1, 0, 1, [(request0, some (1, 1, 0), 0)], some 3, b, 0⟩
noncomputable def failing : State :=
  { s0 with
    ports := [(3, { sent0 with resends := 16 }), (5, Port.empty)], streams := [(9, stream0 0)]
    dev := { s0.dev with routes := [(1, 0x28)] } }

theorem wit_port_down : (failing.port 3).up = true ∧ (failing.port 3).kept ≠ [] ∧ 16 ≤ (failing.port 3).resends ∧
    KeysOnce failing.streams ∧ (stream0 0).route = some 3 ∧ (mgetD failing.dev.routes 1 0).getLsbD 5 = true ∧
    (failing.port 5).up = true :=
  ⟨rfl, List.cons_ne_nil _ _, by decide, (by decide : List.Nodup [9]), rfl, rfl, rfl⟩

/-- Port 3 is down, and a stream waits for a way. -/
noncomputable def cutOff : State :=
  { failing with ports := [(3, { sent0 with up := false }), (5, { Port.empty with up := false })], streams := [(9, { stream0 0 with route := none })] }

theorem wit_retrain : (cutOff.port 3).up = false ∧ KeysOnce cutOff.streams ∧ ({ stream0 0 with route := none } : Stream).route = none ∧
    (mgetD cutOff.dev.routes 1 0).getLsbD 3 = true :=
  ⟨rfl, (by decide : List.Nodup [9]), rfl, rfl⟩

/-- A store from package 1 to this one, at a page that the tables of address space 1 map and every master may write. -/
def store0 (n : Word) : Message :=
  ⟨1, 0, 0, 1, 0, n, .accepted, 7, .store 1 0x2000040 0x2000040 [(1, 0xFF), (2, 0xFF)] ⟨0, 0, 0, true, 0⟩⟩
noncomputable def receiving : State :=
  { s0 with
    mem := kmem
    dev := { s0.dev with
      powered := true, spaces := [(1, (0x10001, 0))], routes := [(1, 8)]
      access := [(5200, (0xFFFFFFFFFF : BitVec 40) ++ (0 : BitVec 40) ++ (7 : BitVec 48))] } }

theorem wit_message : (store0 0).dstPkg = receiving.dev.pkg ∧ wanted receiving (store0 0) = 0 ∧ receiving.dev.powered = true ∧
    (routePort receiving 1).isSome = true ∧ KeysOnce receiving.streams ∧ s0.dev.powered = false ∧
    destXlat receiving 1 0 0x2000040 0x2000040 .write = .ok (0x2000040, none) ∧ receiving.task? 0 = none ∧ mget receiving.guests 0 = none ∧
    (∀ e ∈ receiving.clusters, cacheLine e.2 (0x2000040 / 128) = none) ∧ destXlat { receiving with mem := [] } 1 0 0x2000040 0x2000040 .read = .error 1 ∧
    2 ^ 31 ≤ (wanted receiving (store0 5) - 5).toNat ∧
    (wanted { receiving with recvs := [⟨1, 1, 0, 0, 3, [(1, store0 1)]⟩] } (store0 1) - 1).toNat < 2 ^ 31 := by
  have h : (destXlat receiving 1 0 0x2000040 0x2000040 .write).toOption = some (0x2000040, none) := by decide +kernel
  have h2 : (match destXlat { receiving with mem := [] } 1 0 0x2000040 0x2000040 .read with | .error 1 => true | _ => false) = true := by decide +kernel
  refine ⟨rfl, rfl, rfl, rfl, by unfold KeysOnce; decide, rfl, of_toOption h, rfl, rfl, by decide +kernel, ?_,
    by decide, by decide +kernel⟩
  split at h2
  · assumption
  · exact absurd h2 (by decide)

/-- A store of an ordered phase of task 5, which has no record here; and a quarter that is in reset. -/
theorem wit_guest : receiving.task? 5 = none ∧ mget receiving.guests 5 = none ∧
    (store0 0).dstQtr ∈ ({ receiving with dev := { receiving.dev with down := [0] } } : State).dev.down ∧
    (store0 0).dstQtr ∉ receiving.dev.down := ⟨rfl, rfl, List.mem_cons_self, nofun⟩

/-- A result message for a handle of this package, in class 3. -/
theorem wit_result_message : wanted receiving ⟨3, 0, 0, 1, 0, 0, .accepted, 7, .result (3 * 2 ^ 26 + 1) 1 [7] 0⟩ = 0 ∧
    (3 * 2 ^ 26 + 1 : DWord).toNat / 2 ^ 44 = receiving.dev.pkg := ⟨rfl, by decide⟩

/-- A sending stream with one store out, whose group waits for it. -/
def far0 : Pend := { pend1 .store with accs := [{ acc0 with rem := some 1, st := 1 }] }
noncomputable def sending (b : Nat) : State :=
  { issued far0 with
    streams := [(9, stream0 b)], ports := [(3, Port.empty)], dev := { s0.dev with routes := [(1, 8)] } }

theorem wit_response : Kept (sending 0) 9 (stream0 0) request0 (some (1, 1, 0)) 0 ∧ Outstanding (sending 0) 1 1 far0 ∧
    ((sending 0).group 1).kind ≠ .vacant ∧ KeysOnce (sending 0).streams ∧ (0 : DWord).toNat ≤ (sending 0).clock.toNat ∧
    wanted (sending 0) ⟨4, 0, 0, 1, 0, 0, .retry, 7, .answer [] 0⟩ = 0 ∧
    (stream0 1000).backoff ≠ 0 ∧ streamPort (sending 1000) (stream0 1000) = some 3 := by
  refine ⟨⟨rfl, by decide, by decide, List.mem_singleton_self _, ?_⟩, ⟨rfl, rfl⟩, (by decide : GroupKind.started ≠ .vacant),
    by unfold KeysOnce; decide, by decide, rfl, by decide, rfl⟩
  intro e he q hq _
  rw [List.mem_singleton.mp he] at hq ⊢
  rw [List.mem_singleton.mp hq]
  exact ⟨rfl, rfl⟩

/-- A store to host memory that the host has not acknowledged, and a load. -/
def host0 (b : PendBody) (d : Bool) : Pend :=
  { pend1 b with accs := [{ acc0 with pa := 8 * 2 ^ 48, st := if d then 1 else 0 }], done := d }
theorem wit_host_timeout : Outstanding (issued (host0 .store true)) 1 1 (host0 .store true) ∧
    (hostWaits (host0 .store true)).isSome ∧ (hostWaits (host0 (.load .b32 true) false)).isSome ∧
    (host0 .store true).born.toNat + 64000 * 2 ^ 4 ≤ ({ issued (host0 .store true) with clock := 1024000 } : State).clock.toNat :=
  ⟨out _ rfl, by decide +kernel, by decide +kernel, by decide⟩

/-! ### Witnesses: the machine as a whole -/

/-- A step's turn of a group at a word whose bytes stand in memory; and one whose word is reserved. -/
noncomputable def placed (w : Nat) : State := State.reset.withFetchWord 32 w

/-- What makes a one-word instruction stand ahead, for a word that is known. -/
theorem words_ahead {w : Word} {s : State} {c : Clause} (h1 : (s.group 1).clause = some c) (h0 : (s.group 1).off = false) (h2 : c.len = 1 ∧ c.pos = 0 ∧ c.words = [])
    (h3 : litsOfWord w = 0)
    (h4 : translate { s with cur := 1 } (s.group 1).who .fetch (c.start + 4) = .hit 0x2000004 none none) (h5 : s.bad = [])
    (h6 : leWord (bgetN s.mem 0x2000004 4) = w) (h7 : textWord { s with cur := 1 } (s.group 1) 0x2000004 = w) :
    WordsAhead s 1 c [w] [w] := by
  obtain ⟨ha, hb, hc⟩ := h2
  refine ⟨h1, h0, by omega, by omega, by simp [hb, hc], by simp, ?_, ?_, ?_⟩
  · simp [h3]
  · simp [ha, hb]
  · intro k x hx
    have hk : k < 1 := (List.getElem?_eq_some_iff.mp hx).1
    have e : k = 0 := by omega
    subst e
    cases hx
    refine ⟨0x2000004, none, ?_, by decide, by simp [h5], h6, h7⟩
    rw [hc]
    exact h4

theorem wit_words : ∃ c, (placed 0x20680180).sched = [.issue 1] ∧ WordsAhead (placed 0x20680180) 1 c [0x20680180] [0x20680180] ∧
    ((placed 0x20680180).group 1).frame = none :=
  ⟨_, rfl, words_ahead rfl rfl ⟨rfl, rfl, rfl⟩ rfl (by decide +kernel) rfl (by decide +kernel) (by decide +kernel), rfl⟩

theorem wit_words_reserved : ∃ c, (placed 0xD4000000).sched = [.issue 1] ∧
    WordsAhead (placed 0xD4000000) 1 c [0xD4000000] [0xD4000000] :=
  ⟨_, rfl, words_ahead rfl rfl ⟨rfl, rfl, rfl⟩ rfl (by decide +kernel) rfl (by decide +kernel) (by decide +kernel)⟩

theorem wit_reserved : (match decode [0xD4000000, 0, 0] with | .error .reservedCell => true | _ => false) = true ∧
    cellShape [0xD4000000] = none := ⟨rfl, rfl⟩

/-- The task has a handler, and the group can take a fault, with its log empty. -/
noncomputable def handled (f : Group → Group) : State := { on f with tasks := [(1, { placeTask with thand := 0x100 })] }

theorem wit_exception : (handled id).G.frame = none ∧ (handled id).thand (handled id).G ≠ 0 ∧ (handled id).G.ovr = none ∧
    mget (handled id).G.log 0 = none ∧ s0.thand s0.G = 0 := ⟨rfl, by decide +kernel, rfl, rfl, rfl⟩

/-- A walker's fault has no handler. -/
theorem wit_walker_fault : (handled (fun g => { g with kind := .walker })).G.kind = .walker ∧
    (handled (fun g => { g with kind := .walker })).G.frame = none := ⟨rfl, rfl⟩

theorem no_break {b d : Nat} {os : List Opd} (h : ∀ o ∈ os, (4 < d → ¬FieldBreaks b o 4) ∧ (5 < d → ¬FieldBreaks b o 5) ∧
    (6 < d → ¬FieldBreaks b o 6)) : ∀ o ∈ os, ∀ e, e < d → ¬FieldBreaks b o e := by
  intro o ho e he hb
  obtain ⟨h4, h5, h6⟩ := h o ho
  by_cases e4 : e = 4
  · subst e4; exact h4 he hb
  · by_cases e5 : e = 5
    · subst e5; exact h5 he hb
    · by_cases e6 : e = 6
      · subst e6; exact h6 he hb
      · unfold FieldBreaks at hb
        split at hb <;> simp_all

/-- Words that earn the details 4 to 8: uniform register 64; a pair at an odd register; s63 as a destination; a temporary that the clause has
not written; a jump that does not end its clause. -/
theorem wit_details : ∀ e ∈ [(Instr.sadd 64 0 1, 4), (.sadd64 13 0 2, 5), (.sadd 63 0 1, 6), (.vadd 1 124 3, 7), (.bra 0 0, 8)],
    ∃ sh c, e.1.shape = some sh ∧ s0.G.clause = some c ∧ s0.G.blocked = false ∧ s0.G.notReady sh = false ∧ EarnsDetail s0.G c sh e.2 := by
  intro e h
  simp only [List.mem_cons, List.not_mem_nil, or_false] at h
  rcases h with rfl | rfl | rfl | rfl | rfl <;> refine ⟨_, _, rfl, rfl, rfl, by decide +kernel, no_break ?_, ?_⟩
  · simp [Shape.opds, FieldBreaks]
  · exact .inl ⟨_, List.mem_cons_self, (by decide : 64 ≤ 64)⟩
  · simp [Shape.opds, FieldBreaks]
  · exact .inl ⟨_, List.mem_cons_self, (by decide : 13 % 2 ≠ 0)⟩
  · simp [Shape.opds, FieldBreaks]
  · exact .inl ⟨_, List.mem_cons_self, ⟨nofun, rfl⟩⟩
  · simp only [Shape.opds, FieldBreaks, show s0.G.budget = 124 from rfl]; simp
  · exact .inr (.inl ⟨rfl, 124, List.mem_cons_self, by decide, rfl⟩)
  · simp [Shape.opds, FieldBreaks]
  · refine .inr (.inr ⟨rfl, ?_, .inr ⟨rfl, by decide⟩⟩)
    rintro ⟨n, h1, -, -⟩
    exact absurd h1 (by simp [Shape.srcs, Shape.opds, Opd.regs])

/-- At the end of a clause with a TRAP and a breakpoint pending. -/
noncomputable def trapping : State := handled (fun g => { g with
  clause := g.clause.map (fun c => { c with pos := 5 }), tpend := [⟨41, 0, 0, 0⟩, ⟨40, 7, 0, 0⟩] })

theorem wit_boundary_trap : (∃ c, trapping.G.clause = some c ∧ c.len ≤ c.pos) ∧ trapping.G.after = [] ∧
    trapping.G.splits = [(trapping.G.cur, trapping.G.split)] ∧ trapping.G.parked = [] ∧ trapping.G.live ≠ 0 ∧
    trapping.G.mayEnd = true ∧ ⟨40, 7, 0, 0⟩ ∈ trapping.G.tpend ∧
    ∀ y ∈ trapping.G.tpend, y = ⟨40, 7, 0, 0⟩ ∨ (40 : Nat) < y.code :=
  ⟨⟨_, rfl, by decide⟩, rfl, rfl, rfl, by decide, rfl, by decide +kernel, by decide +kernel⟩

theorem wit_header : decodeHeader 0x3FE = some ⟨0, 1, 15, 15⟩ ∧ (Instr.sadd 13 0 12).shape ≠ none := ⟨rfl, nofun⟩

theorem wit_level : (Instr.nop).shape ≠ none ∧ s0.G.level < 2 ∧ ∃ t, exec .nop s0 = .next t :=
  ⟨nofun, by decide, _, rfl⟩

/-- The invariants hold in a state with a group, and a step leads on from it. -/
theorem wit_invariants : Canonical (placed 0x20680180) ∧ Rising (placed 0x20680180) ∧
    ∃ t, step (placed 0x20680180) = .next t := by
  refine ⟨⟨by decide +kernel, by decide +kernel, by decide +kernel, by decide +kernel⟩, ?_, ?_⟩
  · unfold Rising
    decide +kernel
  · have h : (match step (placed 0x20680180) with | .next _ => true | _ => false) = true := by decide +kernel
    split at h
    · next t ht => exact ⟨t, ht⟩
    · exact absurd h (by decide)

/-- One step of the machine: the header and SLIT s12 are fetched where the group stands, and the literal is written. -/
theorem test_step : (match step (State.reset.withFetchWord 64 0x72C600000) with
    | .next t => t.G.uni 12
    | _ => 0) = 7 := by
  decide +kernel

/-- R355 with the example of R380: NTEAMS 1, TEXT, one role of two groups of width 32, its WAIT and its SIGNAL. -/
theorem test_record : let r := parseRecord (slotBytes (box record0) 0)
    r.prio = 4 ∧ r.level = 0 ∧ r.nteams = 1 ∧ r.text = 0x2000000 ∧ r.seq = 1 ∧
    r.roles.map (fun e => (e.groups, e.widthC, e.regs)) = [(0, 0, 0), (2, 0, 24), (0, 0, 0)] ∧
    r.waits.map (fun e => (e.used, e.counter)) = [(true, 5), (false, 0), (false, 0), (false, 0)] ∧
    r.sigs.map (fun e => (e.used, e.op, e.counter)) = [(true, 1, 6), (false, 0, 0), (false, 0, 0), (false, 0, 0)] := by
  decide +kernel

end Sys2Proof.Tests
end

section
/-! SUPPORT. The model's two invariants, kept together: what leads from one state to the next is a chain of the operations below, and each of
them keeps the canonical form of every byte memory (R3, R206) and the order of every table. -/

namespace Sys2Proof.Machine

open Sys2Proof.Claims

/-! ### Rising tables -/

/-- A table that comes from another one by updates which keep the order of its keys. -/
def Rises {α β : Type} (m : List (Nat × α)) (n : List (Nat × β)) : Prop :=
  (mkeys m).Pairwise (· < ·) → (mkeys n).Pairwise (· < ·)

theorem mem_mput {α : Type} {m : List (Nat × α)} {k : Nat} {x : α} {e : Nat × α} (h : e ∈ mput m k x) : e = (k, x) ∨ e ∈ m := by
  induction m with
  | nil => exact .inl (List.mem_singleton.1 h)
  | cons y l ih =>
    simp only [mput] at h
    split at h
    · exact List.mem_cons.1 h
    · split at h
      · exact (List.mem_cons.1 h).imp_right (List.mem_cons_of_mem y)
      · rcases List.mem_cons.1 h with rfl | h
        · exact .inr List.mem_cons_self
        · exact (ih h).imp_right (List.mem_cons_of_mem y)

theorem mem_mkeys_mput {α : Type} {m : List (Nat × α)} {k j : Nat} {x : α} (h : j ∈ mkeys (mput m k x)) : j = k ∨ j ∈ mkeys m := by
  obtain ⟨e, he, rfl⟩ := List.mem_map.1 h
  rcases mem_mput he with rfl | he
  · exact .inl rfl
  · exact .inr (List.mem_map_of_mem he)

theorem rises_mput {α : Type} {m : List (Nat × α)} {k : Nat} {x : α} : Rises m (mput m k x) := by
  intro h
  induction m with
  | nil => simp [mput, mkeys]
  | cons e t ih =>
    obtain ⟨i, y⟩ := e
    obtain ⟨hi, ht⟩ := List.pairwise_cons.1 h
    simp only [mput]
    split
    next hk =>
      refine List.pairwise_cons.2 ⟨fun j hj => ?_, h⟩
      rcases List.mem_cons.1 hj with rfl | hj
      · exact hk
      · exact Nat.lt_trans hk (hi j hj)
    next hk =>
      split
      next he => subst he; exact h
      next he =>
        refine List.pairwise_cons.2 ⟨fun j hj => ?_, ih ht⟩
        rcases mem_mkeys_mput hj with rfl | hj
        · show i < j; omega
        · exact hi j hj

theorem rises_mdel {α : Type} {m : List (Nat × α)} {k : Nat} : Rises m (mdel m k) :=
  fun h => h.sublist (List.filter_sublist.map Prod.fst)

theorem rises_mmap {α : Type} {m : List (Nat × α)} {f : Nat → α → α} : Rises m (mmap f m) := by
  intro h
  simpa [mmap, mkeys, Function.comp_def] using h

/-! ### A state that keeps what another one has -/

/-- `s` comes from `a` by operations that keep both invariants of the model. -/
def Intact (a s : State) : Prop := (Canonical a → Canonical s) ∧ (Rising a → Rising s)

/-- The same of a cluster's pool, a core's accumulator memory and a mailbox's slots. -/
def WfFrom (a : State) (m : List Host.Cell) : Prop := Canonical a → Memory.wf m = true

/-- A step that may have nothing to do. -/
def OptIntact (a : State) : Option State → Prop
  | some s => Intact a s
  | none => True

/-- What a word does in its issue: a trap without a state leaves the one before, and a stall waits in it. -/
def ResIntact (a : State) : Res → Prop
  | .ok s | .done s | .trapIn s _ => Intact a s
  | .trap _ | .stall => True

/-- A turn that is answered by another state. -/
def OutIntact (a : State) : Host.Outcome State Fault Refusal → Prop
  | .next s => Intact a s
  | .fault _ | .refused _ => True

variable {a s t : State}

theorem Intact.refl (s : State) : Intact s s := ⟨id, id⟩

theorem OptIntact.of_eq {o : Option State} (h : OptIntact a o) (e : o = some t) : Intact a t := by subst e; exact h

theorem OptIntact.getD {o : Option State} (h : OptIntact a o) (hs : Intact a s) : Intact a (o.getD s) := by
  cases o with
  | none => exact hs
  | some t => exact h

theorem OptIntact.map {β : Type} {o : Option β} {f : β → State} (h : ∀ x, o = some x → Intact a (f x)) : OptIntact a (o.map f) := by
  cases o with
  | none => trivial
  | some x => exact h x rfl

theorem OptIntact.bind {β : Type} {o : Option β} {f : β → Option State} (h : ∀ x, o = some x → OptIntact a (f x)) :
    OptIntact a (o.bind f) := by
  cases o with
  | none => trivial
  | some x => exact h x rfl

theorem Intact.of_fst {β : Type} {x : State × β} {y : β} (h : Intact a x.1) (e : x = (t, y)) : Intact a t := by subst e; exact h

theorem Intact.of_snd {β : Type} {x : β × State} {y : β} (h : Intact a x.2) (e : x = (y, t)) : Intact a t := by subst e; exact h

theorem Intact.foldl {β : Type} {f : State → β → State} (l : List β) (h : Intact a s)
    (hf : ∀ s x, x ∈ l → Intact a s → Intact a (f s x)) : Intact a (l.foldl f s) :=
  List.foldlRecOn l f h (fun s hs x hx => hf s x hx hs)

/-! ### Choices -/

section
variable {p : Prop} [Decidable p]

theorem Intact.ite (hs : Intact a s) (ht : Intact a t) : Intact a (if p then s else t) := by split <;> assumption

theorem OptIntact.ite {o o' : Option State} (h : OptIntact a o) (h' : OptIntact a o') : OptIntact a (if p then o else o') := by
  split <;> assumption

theorem ResIntact.ite {r r' : Res} (h : ResIntact a r) (h' : ResIntact a r') : ResIntact a (if p then r else r') := by
  split <;> assumption

theorem OutIntact.ite {o o' : Host.Outcome State Fault Refusal} (h : OutIntact a o) (h' : OutIntact a o') :
    OutIntact a (if p then o else o') := by
  split <;> assumption

end

/-! ### Byte memories -/

theorem WfFrom.bput {m : List Host.Cell} {k : Nat} {b : Byte} (h : WfFrom a m) : WfFrom a (bput m k b) := fun ha => bput_wf m k b (h ha)

theorem WfFrom.bputN {m : List Host.Cell} {k : Nat} {bs : List Byte} (h : WfFrom a m) : WfFrom a (bputN m k bs) :=
  fun ha => bputN_wf bs m k (h ha)

theorem WfFrom.bsplice {m : List Host.Cell} {k : Nat} {bs : List Byte} (h : WfFrom a m) : WfFrom a (bsplice m k bs) :=
  fun ha => bsplice_wf m k bs (h ha)

theorem WfFrom.filter {m : List Host.Cell} {f : Host.Cell → Bool} (h : WfFrom a m) : WfFrom a (m.filter f) :=
  fun ha => filter_wf m f (h ha)

theorem WfFrom.foldl {β : Type} {f : List Host.Cell → β → List Host.Cell} {m : List Host.Cell} (l : List β) (h : WfFrom a m)
    (hf : ∀ m x, WfFrom a m → WfFrom a (f m x)) : WfFrom a (l.foldl f m) :=
  List.foldlRecOn l f h (fun m hm x _ => hf m x hm)

theorem WfFrom.areaPut {m : List Host.Cell} {p : Area} {off : Nat} {bs : List Byte} (h : WfFrom a m) : WfFrom a (areaPut p m off bs) :=
  fun ha => areaPut_wf p m off bs (h ha)

theorem mgetD_mem {α : Type} {m : List (Nat × α)} {k : Nat} {d : α} : mgetD m k d = d ∨ (k, mgetD m k d) ∈ m := by
  induction m with
  | nil => exact .inl rfl
  | cons e t ih =>
    obtain ⟨i, y⟩ := e
    by_cases h : i = k
    · subst h; simp [mgetD, mget]
    · simp only [mgetD, mget, h, if_false] at ih ⊢
      exact ih.imp_right (List.mem_cons_of_mem _)

namespace Intact

theorem mem (h : Intact a s) : WfFrom a s.mem := fun ha => (h.1 ha).1

theorem pools (h : Intact a s) {e : Nat × Cluster} (he : e ∈ s.clusters) : WfFrom a e.2.pool := fun ha => (h.1 ha).2.1 e he

theorem accs (h : Intact a s) {e : Nat × Core} (he : e ∈ s.cores) : WfFrom a e.2.acc := fun ha => (h.1 ha).2.2.1 e he

theorem pool (h : Intact a s) (c : Nat) : WfFrom a (s.cluster c).pool := by
  unfold State.cluster
  rcases mgetD_mem (m := s.clusters) (k := c) (d := Cluster.empty) with e | hm
  · rw [e]; exact fun _ => rfl
  · exact h.pools hm

theorem acc (h : Intact a s) (c : Nat) : WfFrom a (s.core c).acc := by
  unfold State.core
  rcases mgetD_mem (m := s.cores) (k := c) (d := Core.empty) with e | hm
  · rw [e]; exact fun _ => rfl
  · exact h.accs hm

theorem slots (h : Intact a s) (m : Nat) : WfFrom a (s.mailbox m).slots := by
  unfold State.mailbox
  rcases mgetD_mem (m := s.mailboxes) (k := m) (d := Mailbox.empty) with e | hm
  · rw [e]; exact fun _ => rfl
  · exact fun ha => (h.1 ha).2.2.2 _ hm

/-! ### Updates of one field -/

theorem withMem {m : List Host.Cell} (h : Intact a s) (hm : WfFrom a m) : Intact a { s with mem := m } :=
  ⟨fun ha => ⟨hm ha, (h.1 ha).2⟩, h.2⟩

theorem withClusters {m : Map Cluster} (h : Intact a s) (hm : ∀ e ∈ m, WfFrom a e.2.pool) : Intact a { s with clusters := m } :=
  ⟨fun ha => ⟨(h.1 ha).1, fun e he => hm e he ha, (h.1 ha).2.2⟩, h.2⟩

theorem withCores {m : Map Core} (h : Intact a s) (hm : ∀ e ∈ m, WfFrom a e.2.acc) : Intact a { s with cores := m } :=
  ⟨fun ha => ⟨(h.1 ha).1, (h.1 ha).2.1, fun e he => hm e he ha, (h.1 ha).2.2.2⟩, h.2⟩

theorem withGroups {m : Map Group} (h : Intact a s) (hm : Rises s.groups m) : Intact a { s with groups := m } :=
  ⟨h.1, fun ha => ⟨hm (h.2 ha).1, (h.2 ha).2⟩⟩

theorem withTasks {m : Map Task} (h : Intact a s) (hm : Rises s.tasks m) : Intact a { s with tasks := m } :=
  ⟨h.1, fun ha => let ⟨hg, ht, hr⟩ := h.2 ha; ⟨hg, hm ht, hr⟩⟩

theorem withTeams {m : Map Team} (h : Intact a s) (hm : Rises s.teams m) : Intact a { s with teams := m } :=
  ⟨h.1, fun ha => let ⟨hg, ht, he, hr⟩ := h.2 ha; ⟨hg, ht, hm he, hr⟩⟩

theorem withStreams {m : Map Stream} (h : Intact a s) (hm : Rises s.streams m) : Intact a { s with streams := m } :=
  ⟨h.1, fun ha => let ⟨hg, ht, he, hs, hr⟩ := h.2 ha; ⟨hg, ht, he, hm hs, hr⟩⟩

theorem withHandles {m : Map HandleEntry} (h : Intact a s) (hm : Rises s.handles m) : Intact a { s with handles := m } :=
  ⟨h.1, fun ha => let ⟨hg, ht, he, hs, hh, hc⟩ := h.2 ha; ⟨hg, ht, he, hs, hm hh, hc⟩⟩

theorem withCuts {m : Map CutTables} (h : Intact a s) (hm : Rises s.cuts m) : Intact a { s with cuts := m } :=
  ⟨h.1, fun ha => let ⟨hg, ht, he, hs, hh, hc⟩ := h.2 ha; ⟨hg, ht, he, hs, hh, hm hc⟩⟩

/-! The rest of the state is in neither invariant. -/

theorem withCur {x : Nat} (h : Intact a s) : Intact a { s with cur := x } := h

theorem withCmds {x : List Cmd} (h : Intact a s) : Intact a { s with cmds := x } := h

theorem withInvs {x : List InvRec} (h : Intact a s) : Intact a { s with invs := x } := h

theorem withDev {x : Device} (h : Intact a s) : Intact a { s with dev := x } := h

/-! ### The updates of Ops.lean -/

theorem setGroup {k : Nat} {g : Group} (h : Intact a s) : Intact a (s.setGroup k g) := h.withGroups rises_mput

theorem setG {g : Group} (h : Intact a s) : Intact a (s.setG g) := h.setGroup

theorem setTask {k : Nat} {x : Task} (h : Intact a s) : Intact a (s.setTask k x) := h.withTasks rises_mput

theorem setTeam {k : Nat} {x : Team} (h : Intact a s) : Intact a (s.setTeam k x) := h.withTeams rises_mput

theorem setCluster {k : Nat} {x : Cluster} (h : Intact a s) (hx : WfFrom a x.pool) : Intact a (s.setCluster k x) :=
  h.withClusters (fun e he => by
    rcases mem_mput he with rfl | he
    · exact hx
    · exact h.pools he)

theorem setCore {k : Nat} {x : Core} (h : Intact a s) (hx : WfFrom a x.acc) : Intact a (s.setCore k x) :=
  h.withCores (fun e he => by
    rcases mem_mput he with rfl | he
    · exact hx
    · exact h.accs he)

theorem setMailbox {k : Nat} {x : Mailbox} (h : Intact a s) (hx : WfFrom a x.slots) : Intact a (s.setMailbox k x) :=
  ⟨fun ha => ⟨(h.1 ha).1, (h.1 ha).2.1, (h.1 ha).2.2.1, fun e he => by
    rcases mem_mput he with rfl | he
    · exact hx ha
    · exact (h.1 ha).2.2.2 e he⟩, h.2⟩

theorem draw (h : Intact a s) : Intact a s.draw.2 := h

theorem tick1 (h : Intact a s) : Intact a s.tick1 := h

theorem putArea {p : Area} {off : Nat} {bs : List Byte} (h : Intact a s) : Intact a (s.putArea p off bs) := h.withMem h.mem.areaPut

/-! ### Exceptions and the frame of a word -/

theorem enterHandler {cause tinfo : Word} {tepc taddr : DWord} {tret : Nat} {entry : Option Nat} {atWord : Bool} {redo : Option Clause}
    (h : Intact a s) : Intact a (enterHandler s cause tinfo tepc taddr tret entry atWord redo) :=
  ite h.setG h.setG

theorem takePrecise {sh : Shape} {t : Trap} (h : Intact a s) : Intact a (takePrecise s sh t) :=
  ite h.setG.enterHandler h.enterHandler

theorem issue {sh : Option Shape} {body : State → Res} (h : Intact a s) (hb : ResIntact a (body s)) : OutIntact a (issue sh s body) := by
  unfold Machine.issue
  split
  · refine OutIntact.ite h ?_
    split
    · exact h.takePrecise
    · cases hr : body s <;> rw [hr] at hb
      case ok => exact hb.setG
      case done => exact hb
      case trap => exact h.takePrecise
      case trapIn => exact hb.takePrecise
      case stall => exact h
  · exact h

theorem writeUnis {ex : Bool} {ws : List (Nat × Word)} (h : Intact a s) : ResIntact a (writeUnis s ex ws) :=
  .ite trivial (.ite trivial h.setG)

theorem writeAff {d : Nat} {x : Aff} (h : Intact a s) : ResIntact a (writeAff s d x) := .ite trivial h.setG

theorem writeV {d : Nat} {f : Nat → Word} (h : Intact a s) : ResIntact a (writeV s d f) := h.setG

theorem writeVs {d n : Nat} {f : Nat → Nat → Word} (h : Intact a s) : ResIntact a (writeVs s d n f) := h.setG

theorem writeP {d : Nat} {f : Nat → Bool} (h : Intact a s) : ResIntact a (writeP s d f) := h.setG

theorem addPend {p : Pend} (h : Intact a s) : Intact a (s.addPend p) := h.setG

theorem finishFB {sh : Shape} {slow : Bool} {unis : List (Nat × Word)} {rest : List RegWrite} (h : Intact a s) :
    ResIntact a (finishFB s sh slow unis rest) := .ite h.addPend h.setG

theorem affWrite {β : Type} {op : AffOp β} {checked : Bool} {d : Nat} {x : Aff} {y : β} (h : Intact a s) :
    ResIntact a (affWrite s op checked d x y) := .ite trivial (.ite trivial h.writeAff)

theorem addMiss {who : Who} {kind page : Nat} (h : Intact a s) : Intact a (s.addMiss who kind page) :=
  ite h (h.setCluster (h.pool _))

theorem keepRecords {old g : Group} (h : Intact a s) : Intact a (keepRecords old g s) := by
  unfold Machine.keepRecords
  have hp : Intact a (if g.parked = old.parked then s else s.putArea g.area g.parkOff (parkBytes g)) := ite h h.putArea
  refine foldl _ ?_ (fun s k _ hs => ?_)
  · cases g.frame
    case none => exact hp
    case some => exact ite hp hp.putArea
  · cases mget g.log k
    case none => exact hs
    case some => exact ite hs hs.putArea

/-! ### Lines and their homes (13) -/

theorem writeBack {l : CLine} (h : Intact a s) : Intact a (writeBack s l) := ite (h.withMem h.mem.bputN) h

theorem cacheInsert {c pline : Nat} {data : List Byte} {dirty : Bool} (h : Intact a s) : Intact a (cacheInsert s c pline data dirty) := by
  unfold Machine.cacheInsert
  dsimp only
  split
  · exact h
  · refine ite (h.setCluster (h.pool c)) ?_
    split
    · exact h.draw.writeBack.setCluster (h.pool c)
    · exact h.draw

theorem dropCached {pline : Nat} (h : Intact a s) : Intact a (dropCached s pline) := by
  refine foldl _ h (fun t e he ht => ?_)
  split
  · exact ht.writeBack.setCluster (h.pools he)
  · exact ht

theorem rehash {c : Nat} (h : Intact a s) : Intact a (rehash s c) :=
  (foldl _ h (fun _ _ _ ht => ht.writeBack)).setCluster (h.pool c)

theorem dropCopies {pline : Nat} (h : Intact a s) : Intact a (dropCopies s pline) :=
  h.withClusters (fun e he => by
    obtain ⟨e', he', rfl⟩ := List.mem_map.1 he
    exact (h.pools he' : WfFrom a e'.2.pool))

theorem sliceTouch {pline : Nat} (h : Intact a s) : Intact a (sliceTouch s pline) := by
  refine ite h (ite h ?_)
  dsimp only
  split
  · exact dropCopies h.draw
  · exact h

theorem touchHome {home : Option Nat} {pline : Nat} (h : Intact a s) : Intact a (touchHome s home pline) := ite h.sliceTouch h

theorem homeStore {home : Option Nat} {pline : Nat} {cs : Cells} (h : Intact a s) : Intact a (homeStore s home pline cs) := by
  unfold Machine.homeStore
  split
  · exact h.cacheInsert
  · have ht : Intact a (Machine.sliceTouch (Machine.dropCached s pline) pline) := h.dropCached.sliceTouch
    exact ht.withMem (WfFrom.foldl _ ht.mem (fun _ _ hm => hm.bput))

theorem setPhaseLine {tid pline : Nat} {l : PhaseLine} (h : Intact a s) : Intact a (setPhaseLine s tid pline l) := by
  unfold Machine.setPhaseLine
  cases s.task? tid
  case none => exact h
  case some => exact ite h.setTask.setTask h.setTask

theorem openPhase {tid : Nat} (h : Intact a s) : Intact a (openPhase s tid) := by
  unfold Machine.openPhase
  refine ite h ?_
  cases s.task? tid
  case none => exact ite h h
  case some => exact ite h h.setTask

theorem phaseWrite {tid : Nat} {ls : Map PhaseLine} {pline : Nat} {key : DWord} {group : Nat} {cs : Cells} (h : Intact a s) :
    Intact a (phaseWrite s tid ls pline key group cs) := by
  unfold Machine.phaseWrite
  refine homeStore ?_
  cases mget ls pline
  case none => exact h.dropCached.setPhaseLine
  case some => exact ite h.dropCached.setPhaseLine h.dropCached.setPhaseLine

theorem lineWrite {home : Option Nat} {pline task : Nat} {key : DWord} {group : Nat} {cs : Cells} (h : Intact a s) :
    Intact a (lineWrite s home pline task key group cs) := by
  unfold Machine.lineWrite
  split
  · exact h.phaseWrite
  · exact h.homeStore

theorem spanWrite {home : Option Nat} {pa task : Nat} {key : DWord} {group : Nat} {data : List (Byte × Byte)} (h : Intact a s) :
    Intact a (spanWrite s home pa task key group data) := foldl _ h (fun _ _ _ ht => ht.lineWrite)

theorem addConflicts {task n : Nat} (h : Intact a s) : Intact a (addConflicts s task n) := by
  unfold Machine.addConflicts
  split
  · exact ite h h.setTask
  · exact h

theorem countConflicts {task : Nat} {key : DWord} {ls : List Nat} (h : Intact a s) : Intact a (countConflicts s task key ls) := by
  unfold Machine.countConflicts
  split
  · exact h.addConflicts
  · exact h

theorem atomAt {home : Option Nat} {pa : Nat} {op : AtomOp} {y cmp : Word} {task : Nat} {key : DWord} {group : Nat} (h : Intact a s) :
    Intact a (atomAt s home pa op y cmp task key group).2 := by
  unfold Machine.atomAt
  dsimp only
  split
  · exact h.dropCached.setPhaseLine.homeStore
  · exact h.homeStore

theorem rebuildAt {pline : Nat} {l : PhaseLine} (h : Intact a s) : Intact a (rebuildAt s pline l) :=
  ite h.homeStore h.homeStore

theorem sgbPut {core pline : Nat} {home : Option Nat} {p : SgbPart} {who : Nat × Nat} (h : Intact a s) :
    OptIntact a (sgbPut s core pline home p who) :=
  .ite (h.setCore (h.acc core)) (.ite (h.setCore (h.acc core)) trivial)

theorem sgbSend {core : Nat} {f : SgbEntry → Bool} (h : Intact a s) : Intact a (sgbSend s core f) := h.setCore (h.acc core)

theorem sgbSendOldest {core : Nat} (h : Intact a s) : Intact a (sgbSendOldest s core) := by
  unfold Machine.sgbSendOldest
  split
  · exact h.sgbSend
  · exact h

theorem l1Drop {core : Nat} (h : Intact a s) : Intact a (l1Drop s core) := h.setCore (h.acc core)

theorem l1DropLines {core : Nat} {ls : List Nat} (h : Intact a s) : Intact a (l1DropLines s core ls) := h.setCore (h.acc core)

theorem l1Space {core asid : Nat} (h : Intact a s) : Intact a (l1Space s core asid) := ite h (h.setCore (h.acc core))

theorem l1Insert {core : Nat} {l : L1Line} (h : Intact a s) : Intact a (l1Insert s core l) := by
  have hp (purge : Nat → Core → Core) (hk : ∀ k c, (purge k c).acc = c.acc) : Intact a { s with cores := mmap purge s.cores } :=
    h.withCores (fun e he => by
      obtain ⟨e', he', rfl⟩ := List.mem_map.1 he
      rw [hk]
      exact h.accs he')
  unfold Machine.l1Insert
  extract_lets purge u c lines mates
  have hu : Intact a u := hp purge (fun k c => by simp only [purge]; split <;> rfl)
  refine ite (hu.setCore (hu.acc core)) ?_
  dsimp only
  split
  · exact hu.draw.setCore (hu.acc core)
  · exact hu.draw

theorem fillLine {core : Nat} {home : Option Nat} {pline : Nat} (h : Intact a s) : Intact a (fillLine s core home pline).2 := by
  unfold Machine.fillLine
  dsimp only
  split
  · exact h
  · exact ite h.touchHome h.touchHome.cacheInsert

theorem loadBytes {core : Nat} {tag : Option (Nat × Nat)} {pa : Nat} {home : Option Nat} {n : Nat} {byp : Bool} (h : Intact a s) :
    Intact a (loadBytes s core tag pa home n byp).2 := by
  unfold Machine.loadBytes
  dsimp only
  split
  · exact h
  · split
    · exact h.touchHome
    · split
      · exact h.fillLine
      · split
        · exact h.l1Space
        · exact h.l1Space.fillLine.l1Insert

theorem hwWrite {asid master : Nat} {va : DWord} {data : List Byte} (h : Intact a s) : OptIntact a (hwWrite s asid master va data) := by
  unfold Machine.hwWrite
  refine List.foldlRecOn _ _ (motive := OptIntact a) h (fun o ho p _ => ?_)
  exact .bind (fun t ht => .bind (fun x _ => .ite trivial (ho.of_eq ht).spanWrite))

end Intact
end Sys2Proof.Machine
end

section
/-! SUPPORT. The same of the fabric's sending side, of handles, tasks, mailboxes, counters and the host's windows. -/

namespace Sys2Proof.Machine

open Sys2Proof.Claims

variable {a s t : State}

namespace Intact

/-! ### The fabric's sending side (22) -/

theorem setPort {p : Nat} {x : Port} (h : Intact a s) : Intact a (s.setPort p x) := h

theorem transmit {p k : Nat} {m : Message} (h : Intact a s) : Intact a (transmit s p k m) := h

theorem resendStream {k : Nat} (h : Intact a s) : Intact a (resendStream s k) := by
  unfold Machine.resendStream
  cases mget s.streams k
  case none => exact h
  case some st =>
    dsimp only
    split
    · exact h.withStreams rises_mput
    · exact foldl _ (h.withStreams rises_mput) (fun _ _ _ ht => ht.transmit)

theorem sendMsg {cls srcQ dstPkg dstQ : Nat} {stat : MsgStat} {tag : Nat} {body : MsgBody} {link : Option (Nat × Nat × Nat)}
    (h : Intact a s) : OptIntact a (sendMsg s cls srcQ dstPkg dstQ stat tag body link) := by
  unfold Machine.sendMsg
  dsimp only
  split
  · trivial
  · exact .ite (h.withStreams rises_mput) (.ite (h.withStreams rises_mput).transmit (h.withStreams rises_mput).resendStream)

/-! ### Handles (20) -/

theorem setHandle {k : Nat} {e : HandleEntry} (h : Intact a s) : Intact a (s.setHandle k e) := h.withHandles rises_mput

theorem issueHandle {q task tmo : Nat} {lookup : Option (DWord × Nat)} (h : Intact a s) :
    OptIntact a ((issueHandle s q task tmo lookup).map Prod.snd) := by
  unfold Machine.issueHandle
  split
  · trivial
  · exact h.setHandle

theorem sendNotice {q : Nat} {hd : DWord} {body : MsgBody} (h : Intact a s) : Intact a (sendNotice s q hd body) := h.sendMsg.getD h

theorem followAway {q : Nat} {hd : DWord} {task : Nat} {fwd : DWord} (h : Intact a s) : Intact a (followAway s q hd task fwd) := by
  unfold Machine.followAway
  dsimp only
  split
  · exact h.sendNotice.sendNotice
  · exact h.sendNotice.sendNotice
  · exact h.sendNotice.setHandle

theorem tellHandle {q : Nat} {hd : DWord} {task : Nat} {words : List Word} {cause : Word} {fwd of : DWord} (h : Intact a s) :
    Intact a (tellHandle s q hd task words cause fwd of) :=
  ite h (ite h.sendNotice h.followAway)

theorem freeIfDone {k : Nat} (h : Intact a s) : Intact a (freeIfDone s k) := ite h.setHandle h

theorem begunFrom {hd : DWord} (h : Intact a s) : Intact a (begunFrom s hd) := ite h.setHandle.freeIfDone h

theorem begunVia {q : Nat} {i : Invocation} (h : Intact a s) : Intact a (begunVia s q i) :=
  foldl _ h (fun _ _ _ ht => ite ht.begunFrom ht.sendNotice)

theorem breakInv {q : Nat} {i : Invocation} {cause : Word} (h : Intact a s) : Intact a (breakInv s q i cause) := h.begunVia.tellHandle

theorem sentFrom {r : InvRec} {hd : DWord} (h : Intact a s) : Intact a (sentFrom s r hd).2 := h.setHandle

theorem sendInvAway {q : Nat} {i : Invocation} {pkg dst : Nat} (h : Intact a s) : Intact a (sendInvAway s q i pkg dst) := by
  unfold Machine.sendInvAway
  split
  next ht => exact h.sendMsg.of_eq ht
  next => exact h.breakInv

theorem reachHandle (fuel : Nat) {q : Nat} {r : InvRec} {hd : DWord} (h : Intact a s) : Intact a (reachHandle fuel s q r hd) := by
  induction fuel generalizing s q r hd with
  | zero => exact h.breakInv
  | succ fuel ih =>
    unfold Machine.reachHandle
    split
    case h_1 => exact h.sendInvAway
    case h_2 => exact h.setHandle
    case h_3 => exact h
    case h_4 => exact ite h.breakInv.freeIfDone h.breakInv
    case h_5 hd' _ => exact ih (h.sentFrom (r := r) (hd := hd))

theorem settle {k : Nat} {e : HandleEntry} (h : Intact a s) : Intact a (settle s k e) := by
  refine freeIfDone (foldl _ (foldl _ h.setHandle (fun t r _ ht => ?_)) (fun t f _ ht => ?_))
  · cases e.state
    case ready => exact ht
    case broken => exact ht.breakInv
    case forwarded => exact (ht.sentFrom (r := r)).reachHandle 66
    all_goals exact ht
  · cases e.state
    case ready => exact ht.tellHandle
    case broken => exact ht.tellHandle
    all_goals exact ht

theorem deepen (fuel : Nat) {q : Nat} {hd : DWord} {task depth : Nat} (h : Intact a s) : Intact a (deepen fuel s q hd task depth) := by
  induction fuel generalizing s q hd task depth with
  | zero => exact h
  | succ fuel ih =>
    exact ite h.sendNotice (ite h (ite (ite h.setHandle.settle (ih h.setHandle)) h.setHandle))

theorem arriveResult {m : ResultMsg} (h : Intact a s) : Intact a (arriveResult s m) := by
  refine ite h (ite (ite h.settle ?_) (ite h.settle h.settle))
  have hd : Intact a (Machine.deepen 65 s (handleKey m.h / 65536) m.fwd m.task ((s.handle (handleKey m.h)).depth + 1)) := h.deepen 65
  dsimp only
  split <;> exact hd.settle

theorem letHandlesGo {ps : List Pend} (h : Intact a s) : Intact a (letHandlesGo s ps) :=
  foldl _ h (fun _ _ _ ht => ite ht.freeIfDone ht)

theorem breakTask {task cause : Nat} (h : Intact a s) : Intact a (breakTask s task cause) :=
  foldl _ h (fun _ _ _ ht => ite ht.settle ht)

/-! ### Events, counters, records and tasks (18) -/

theorem post {master code source : Nat} {detail : Word} {addr : DWord} (h : Intact a s) : Intact a (s.post master code source detail addr) := h

theorem deny {master : Nat} {detail : Word} {addr : DWord} (h : Intact a s) : Intact a (s.deny master detail addr) := ite h h.post

theorem setCutTables {q : Nat} {x : CutTables} (h : Intact a s) : Intact a (s.setCutTables q x) := h.withCuts rises_mput

theorem loadCuts {task q : Nat} {cs : List Cut} (h : Intact a s) : Intact a (loadCuts s task q cs) := h.setCutTables

theorem dropTask {task : Nat} (h : Intact a s) : Intact a (s.dropTask task) := (h.withTasks rises_mdel).withCuts rises_mmap

theorem hwDeny {asid master : Nat} {kind : AccKind} {va : DWord} {n : Nat} (h : Intact a s) : Intact a (hwDeny s asid master kind va n) := by
  unfold Machine.hwDeny
  split
  · exact h.deny
  · exact h

theorem denyKeyspace {mbox : Nat} {r : Record} (h : Intact a s) : Intact a (denyKeyspace s mbox r) := by
  unfold Machine.denyKeyspace
  split
  · exact h.deny
  · exact h

theorem writeStatus {mbox slot : Nat} {succ : Option (DWord × Nat)} {w : Word} (h : Intact a s) :
    Intact a (writeStatus s mbox slot succ w) := by
  unfold Machine.writeStatus
  split
  next => exact h.setMailbox (h.slots mbox).bputN
  next =>
    split
    next ht => exact h.hwWrite.of_eq ht
    next => exact h.hwDeny

theorem refreshReady (h : Intact a s) : Intact a (refreshReady s) := by
  refine foldl _ h (fun t k _ ht => ?_)
  cases t.task? k
  case none => exact ht
  case some => exact ite ht.setTask.tick1 ht

theorem acceptRecord {mbox slot : Nat} {succ : Option (DWord × Nat)} {r : Record} (h : Intact a s) :
    Intact a (acceptRecord s mbox slot succ r) := by
  unfold Machine.acceptRecord
  split
  · exact h.denyKeyspace.writeStatus
  · dsimp only
    refine refreshReady (tick1 (setTask ?_))
    split
    · exact foldl _ h (fun _ _ _ ht => ht.loadCuts)
    · exact h

theorem counterError {c : Nat} {k : Counter} {code log : Nat} (h : Intact a s) : Intact a (counterError s c k code log) := h

theorem counterSetOp {c : Nat} {v : DWord} {log : Nat} (h : Intact a s) : Intact a (counterSetOp s c v log) :=
  ite h.counterError (refreshReady h)

theorem counterAddOp {c : Nat} {v : DWord} {log : Nat} (h : Intact a s) : Intact a (counterAddOp s c v log) :=
  ite h.counterError.refreshReady (refreshReady h)

theorem counterResetOp {c : Nat} {v : DWord} (h : Intact a s) : Intact a (counterResetOp s c v) :=
  refreshReady (foldl _ h (fun _ _ _ ht => ht.writeStatus.dropTask))

theorem signal {mbox : Nat} {e : CtrEnt} (h : Intact a s) : Intact a (signal s mbox e) := by
  unfold Machine.signal
  refine ite h ?_
  split
  · exact h.counterAddOp
  · exact h.counterSetOp
  · exact h.counterResetOp
  · exact h

theorem clearSeqs {vf : Nat} (h : Intact a s) : Intact a (clearSeqs s vf) := by
  unfold Machine.clearSeqs
  refine foldl _ h (fun t k _ ht => ht.setMailbox ?_)
  dsimp only
  exact WfFrom.foldl _ (ht.slots _) (fun _ _ hm => hm.bputN)

theorem endReset {vf : Nat} (h : Intact a s) : Intact a (endReset s vf) := by
  unfold Machine.endReset
  extract_lets t
  have ht : Intact a t := foldl _ h.clearSeqs (fun u k _ hu => hu.setMailbox (hu.slots _))
  exact ht.withDev

theorem finishTask {tid : Nat} {x : Task} (h : Intact a s) : Intact a (finishTask s tid x) := by
  unfold Machine.finishTask
  refine ite (ite h.writeStatus.dropTask h.writeStatus.dropTask.endReset) ?_
  extract_lets res chosen s1 s2 s3 s4 adr
  have h1 : Intact a s1 := ite h h.hwDeny
  have h4 : Intact a s4 := foldl _ h1.writeStatus.dropTask (fun _ _ _ ht => ht.signal)
  refine ite h4 ?_
  split
  · exact h4.acceptRecord
  · exact h4.hwDeny.post

theorem completeIfDone {tid : Nat} (h : Intact a s) : Intact a (completeIfDone s tid) := by
  unfold Machine.completeIfDone
  split
  · exact ite h.finishTask h
  · exact h

theorem killTask {tid : Nat} {flr : Bool} (h : Intact a s) : Intact a (killTask s tid flr) := by
  unfold Machine.killTask
  split
  · exact h
  · exact (h.setTask.withGroups rises_mmap).completeIfDone

theorem killSlot {mbox : Nat} {w : Word} (h : Intact a s) : Intact a (killSlot s mbox w) :=
  ite h (foldl _ h (fun _ _ _ ht => ht.killTask))

theorem moveOpp {q : Nat} {wanted : List Nat} (h : Intact a s) : Intact a (moveOpp s q wanted) := by
  unfold Machine.moveOpp
  cases mget s.dev.oppNext q
  case none => exact ite h h
  case some => exact ite h h

theorem refreshOpp (h : Intact a s) : Intact a (refreshOpp s) := foldl _ h (fun _ _ _ ht => ht.moveOpp)

/-! ### Mailboxes, counters and management space as memory (18, 23) -/

theorem mailboxWrite {master m off : Nat} {data : List Byte} (h : Intact a s) : Intact a (mailboxWrite s master m off data) :=
  ite (h.setMailbox (h.slots m).bputN) (ite h.killSlot h)

theorem counterWrite {master c off : Nat} {data : List Byte} (h : Intact a s) : Intact a (counterWrite s master c off data) :=
  ite h.counterSetOp (ite h.counterAddOp (ite h.counterResetOp h))

theorem setUnit {base : Nat} {bs : List Byte} (h : Intact a s) : Intact a (setUnit s base bs) :=
  ite h (ite h (ite (h.setMailbox (h.slots ((base - 0x48000) / 64))) (ite h (ite h h))))

theorem writeUnits (fuel : Nat) {at' off : Nat} {data : List Byte} (h : Intact a s) : Intact a (writeUnits fuel s at' off data) := by
  induction fuel generalizing s at' with
  | zero => exact h
  | succ fuel ih => exact ite h (ih h.setUnit)

theorem claimWrite {master : Nat} {v : Word} (h : Intact a s) : Intact a (claimWrite s master v) := ite h h

theorem giveWrite {master : Nat} {v : Word} (h : Intact a s) : Intact a (giveWrite s master v) := ite h h

theorem takeWrite {master : Nat} {v : Word} (h : Intact a s) : Intact a (takeWrite s master v) := ite h h

theorem minptSet {v : Word} (h : Intact a s) : Intact a (minptSet s v) := refreshOpp h

theorem nonceWrite {master off : Nat} {data : List Byte} (h : Intact a s) : Intact a (nonceWrite s master off data) := h

theorem killWrites {off : Nat} {data : List Byte} (h : Intact a s) : Intact a (killWrites s off data) :=
  foldl _ h (fun _ _ _ ht => ht.killSlot)

theorem mgmtWrite {master off : Nat} {data : List Byte} (h : Intact a s) : Intact a (mgmtWrite s master off data) :=
  ite h.claimWrite (ite h.takeWrite (ite h.nonceWrite (ite h (ite h.giveWrite (ite h (ite h.minptSet (ite h
    (ite (h.writeUnits _).killWrites h))))))))

theorem apertureRead {pa n : Nat} (h : Intact a s) : Intact a (apertureRead s pa n).2 := by
  unfold Machine.apertureRead
  dsimp only
  split <;> exact h

theorem apertureWrite {master pa : Nat} {data : List Byte} (h : Intact a s) : Intact a (apertureWrite s master pa data) := by
  unfold Machine.apertureWrite
  dsimp only
  split
  · exact h.mailboxWrite
  · exact h.counterWrite
  · exact h.mgmtWrite
  · exact h

theorem postHost {vf : Nat} {va : DWord} (h : Intact a s) : Intact a (postHost s vf va) := h

theorem hostAnswers {l : List Acc} (h : Intact a s) : Intact a (hostAnswers s l).2 := by
  induction l generalizing s with
  | nil => exact h
  | cons x l ih =>
    unfold Machine.hostAnswers
    dsimp only
    split
    · exact h.draw
    · exact ih h.draw

end Intact
end Sys2Proof.Machine
end

section
/-! SUPPORT. The same of fetching, of control and float words, and of global, pool and queue accesses. -/

namespace Sys2Proof.Machine

open Sys2Proof.Claims

variable {a s t : State}

namespace Intact

/-! ### Fetching words (R75, R79) -/

theorem fetchFrom {g : Group} {va : DWord} {pa : Nat} {rem home : Option Nat} (h : Intact a s) :
    Intact a (fetchFrom s g va pa rem home).2 := by
  unfold Machine.fetchFrom
  split
  · exact h.draw
  · split
    · split
      next he => exact (h.hostAnswers.of_snd he).postHost
      next he => exact (h.hostAnswers.of_snd he).apertureRead
    · split
      · exact h
      · dsimp only
        split
        · exact h.loadBytes
        · exact h.loadBytes.draw

theorem fetchWord {g : Group} {va : DWord} (h : Intact a s) : Intact a (fetchWord s g va).2 := by
  unfold Machine.fetchWord
  split
  · split
    · exact h.setG
    · split
      · exact h.addMiss.setG
      · exact h
  · exact ite h.deny h
  · exact h.fetchFrom

theorem fetchUpTo (fuel : Nat) {n : Nat} (h : Intact a s) : Intact a (fetchUpTo fuel n s).2 := by
  induction fuel generalizing s with
  | zero => exact h
  | succ fuel ih =>
    unfold Machine.fetchUpTo
    dsimp only
    split
    · exact h
    · split
      · exact h
      · split
        next he => exact ih (h.fetchWord.of_snd he).setG
        next he => exact h.fetchWord.of_snd he

theorem fetchInstr (h : Intact a s) : Intact a (fetchInstr s).2.2 := by
  unfold Machine.fetchInstr
  split
  · exact h
  · split
    next he =>
      have h1 := (h.fetchUpTo 24).of_snd he
      dsimp only
      split
      next he' => split <;> exact (h1.fetchUpTo 24).of_snd he'
      next he' => exact (h1.fetchUpTo 24).of_snd he'
    next he => exact (h.fetchUpTo 24).of_snd he

/-! ### Control (05) -/

theorem transfer {b : Hint} {m : Mask} {target : DWord} {link : Group → Group} (h : Intact a s) :
    ResIntact a (transfer s b m target link) := by
  unfold Machine.transfer
  dsimp only
  split
  · trivial
  · refine .ite h (.ite trivial (.ite h.setG ?_))
    exact .ite h.setG h.setG

theorem branch {b : Hint} {c : F7} {off : Word} (h : Intact a s) : ResIntact a (branch s b c off) := h.transfer

theorem execRet {x : F7} (h : Intact a s) : OutIntact a (execRet x s) := by
  refine issue h ?_
  dsimp only
  split
  · trivial
  · refine .ite h (.ite trivial ?_)
    split
    · exact h
    · exact h.setG
    · exact h.setG

theorem execSpawn {d x y : F7} (h : Intact a s) : OutIntact a (execSpawn d x y s) := by
  refine issue h (.ite h ?_)
  dsimp only
  split
  · trivial
  · exact .ite trivial (ite h.setGroup h).writeP

theorem raiseBoundary {code : Nat} {info : Word} (h : Intact a s) : ResIntact a (raiseBoundary s code info) :=
  .ite h (.ite h.setG h.setG)

theorem clauseStartTrap {detail code : Nat} {info : Word} {addr : DWord} (h : Intact a s) :
    Intact a (clauseStartTrap s detail code info addr) := h.enterHandler

theorem openClause {hd : Header} (h : Intact a s) : Intact a (openClause s hd) := h.setG.withGroups rises_mmap

theorem execClauseStart (h : Intact a s) : OutIntact a (execClauseStart s) := by
  unfold Machine.execClauseStart
  refine .ite h ?_
  split
  next he => exact h.fetchWord.of_snd he
  next he => exact (h.fetchWord.of_snd he).clauseStartTrap
  next he =>
    have hw := h.fetchWord.of_snd he
    split
    · exact hw.clauseStartTrap
    · exact .ite hw.openClause hw

theorem takeBoundary (h : Intact a s) : Intact a (takeBoundary s) := by
  unfold Machine.takeBoundary
  dsimp only
  split
  · exact h
  · exact h.setG.enterHandler

theorem boundary {ended : Bool} (h : Intact a s) : Intact a (boundary s ended) :=
  ite (takeBoundary (ite h.setG.setG h.setG)) h.setG.setG

theorem execClauseBoundary (h : Intact a s) : OutIntact a (execClauseBoundary s) := by
  unfold Machine.execClauseBoundary
  dsimp only
  split
  · exact .ite h.setG h
  · exact .ite h.boundary h
  · exact .ite h h.boundary

theorem execSplitRotate (h : Intact a s) : OutIntact a (execSplitRotate s) := .ite h.setG h

/-! ### Floating results and cross-lane words (07, 08) -/

theorem writeFloat {sh : Shape} {flag : Option Nat} {d : Nat} {f : Group → Nat → Word × Bool} (h : Intact a s) :
    ResIntact a (writeFloat s sh flag d f) := by
  unfold Machine.writeFloat
  refine .ite trivial ?_
  cases flag
  case none => exact .ite h.setG h.setG.addPend
  case some => exact h.addPend

theorem floatOp {sh : Option Shape} {op : ElemOp} {d x y z : F7} (h : Intact a s) : OutIntact a (floatOp sh op d x y z s) :=
  h.issue h.writeFloat

theorem halfOp {sh : Option Shape} {op : ElemOp} {d x y z : F7} (h : Intact a s) : OutIntact a (halfOp sh op d x y z s) :=
  h.issue h.writeFloat

theorem specialOp {sh : Option Shape} {f : Fmt → Num → Approx} {d x : F7} (h : Intact a s) : OutIntact a (specialOp sh f d x s) :=
  h.issue h.writeFloat

theorem convert {sh : Option Shape} {d : F7} {f : Group → Nat → Word × Bool} (h : Intact a s) : OutIntact a (convert sh d f s) :=
  h.issue h.writeFloat

theorem fcmp {sh : Option Shape} {d x y : F7} {rel : Option Int → Bool} (h : Intact a s) : OutIntact a (fcmp sh d x y rel s) :=
  h.issue h.writeP

theorem finishUni {sh : Shape} {slow : Bool} {unis : List (Nat × Word)} {rest : List RegWrite} (h : Intact a s) :
    ResIntact a (finishUni s sh slow unis rest) := .ite trivial h.finishFB

theorem shuffle {sh : Option Shape} {d x : F7} {w : ShflW} {n : Group → Nat → Nat → Int} (h : Intact a s) :
    OutIntact a (shuffle sh d x w n s) := h.issue (.ite trivial h.finishFB)

theorem withOp {x : F7} {body : (Word → Word → Word) → Word → Res} (hb : ∀ op z, ResIntact a (body op z)) :
    ResIntact a (withOp s x body) := by
  unfold Machine.withOp
  split
  · trivial
  · exact hb _ _

/-! ### Accesses as they issue (09) -/

theorem pushEntries {g : Group} {p : Pend} (h : Intact a s) : Intact a (pushEntries s g p) := ite h.sgbSend h

theorem lateFault {p : Pend} {x : Trap} (h : Intact a s) : Intact a (lateFault s p x) := h.setG.enterHandler.setG

theorem addMisses {g : Group} {kind : AccKind} {ps : List Nat} (h : Intact a s) : Intact a (addMisses s g kind ps).1 := by
  induction ps generalizing s with
  | nil => exact h
  | cons p ps ih =>
    unfold Machine.addMisses
    split
    · exact ih h.addMiss
    · exact h

theorem issueGlobal {sh : Shape} {w : Want} {fix : Pend → Pend} {body : PendBody} (h : Intact a s) :
    ResIntact a (issueGlobal s sh w fix body) := by
  unfold Machine.issueGlobal
  refine .ite trivial (.ite trivial (.ite trivial ?_))
  dsimp only
  split
  · exact .ite (.ite h.deny trivial) (.ite trivial h.addPend.setG)
  · refine .ite h.setG ?_
    split
    next he => exact .ite trivial (h.addMisses.of_fst he).setG
    next he => exact (h.addMisses.of_fst he).setG.addPend.setG

theorem issuePool {sh : Shape} {size : Nat} {off : Nat → Nat} {data : Nat → List (Byte × Byte)} {body : PendBody} (h : Intact a s) :
    ResIntact a (issuePool s sh size off data body) := .ite trivial (.ite trivial (.ite trivial h.addPend))

theorem setPool {c : Nat} {m : List Host.Cell} (h : Intact a s) (hm : WfFrom a m) : Intact a (s.setPool c m) := h.setCluster hm

theorem issueWith {sh : Option Shape} {body : Shape → State → Res} (h : Intact a s) (hb : ∀ sh, ResIntact a (body sh s)) :
    OutIntact a (issueWith sh s body) := h.issue (hb _)

theorem ifActive {r : Res} (h : Intact a s) (hr : ResIntact a r) : ResIntact a (ifActive s r) := .ite hr h

theorem withConv {m : BitVec 2} {k : Word → Word → Res} (h : Intact a s) (hk : ∀ f sc, ResIntact a (k f sc)) :
    ResIntact a (withConv s m k) := by
  unfold Machine.withConv
  refine .ite h (.ite trivial ?_)
  split
  · trivial
  · exact hk _ _

theorem ldcAt {sh : Shape} {m : BitVec 2} {addr : Nat → DWord} {byp : Bool} (h : Intact a s) : ResIntact a (ldcAt s sh m addr byp) :=
  h.withConv (fun _ _ => h.issueGlobal)

theorem stcAt {sh : Shape} {m : BitVec 2} {d : F7} {addr : Nat → DWord} (h : Intact a s) : ResIntact a (stcAt s sh m d addr) :=
  h.withConv (fun _ _ => h.issueGlobal)

theorem withObject {off : Nat} {k : Nat → Res} (hk : ∀ pa, ResIntact a (k pa)) : ResIntact a (withObject s off k) := by
  unfold Machine.withObject
  refine .ite trivial ?_
  split
  · exact hk _
  · trivial

theorem objectPend {sh : Shape} {pa : Nat} {body : PendBody} (h : Intact a s) : Intact a (objectPend s sh pa body) := h.addPend

theorem execBoset {x y : F7} (h : Intact a s) : OutIntact a (execBoset x y s) :=
  h.issueWith (fun _ => h.ifActive (withObject (fun _ => .ite trivial (.ite trivial h.objectPend))))

theorem execBoadd {x y : F7} (h : Intact a s) : OutIntact a (execBoadd x y s) :=
  h.issueWith (fun _ => h.ifActive (withObject (fun _ => .ite trivial (.ite trivial h.objectPend))))

theorem execBowait {x y : F7} (h : Intact a s) : OutIntact a (execBowait x y s) :=
  h.issueWith (fun _ => h.ifActive (withObject (fun _ => h.objectPend)))

theorem execBopoll {d x y : F7} (h : Intact a s) : OutIntact a (execBopoll d x y s) :=
  h.issueWith (fun _ => h.ifActive (withObject (fun _ => .ite (writeP (ite h.setG.l1Drop h)) h.objectPend)))

theorem waitPend {sh : Shape} {body : PendBody} (h : Intact a s) : ResIntact a (waitPend s sh body) := h.addPend.tick1

theorem execBar (h : Intact a s) : OutIntact a (execBar s) :=
  h.issueWith (fun _ => .ite trivial (.ite h.setG.waitPend h.waitPend))

theorem prefLane {va : DWord} (h : Intact a s) : Intact a (prefLane s va) := by
  unfold Machine.prefLane
  refine ite h ?_
  split
  · exact ite h.loadBytes h
  · exact h

theorem execPref {x : F7} (h : Intact a s) : OutIntact a (execPref x s) :=
  h.issueWith (fun _ => foldl _ h (fun _ _ _ ht => ht.prefLane))

theorem atomIssue {sh : Shape} {d x y : F7} {o : AtomOrder} {op : AtomOp} (h : Intact a s) : ResIntact a (atomIssue s sh d x y o op) :=
  h.ifActive h.issueGlobal

theorem issueQueue {sh : Shape} {name : Word} {count : Nat} {body : PendBody} (h : Intact a s) :
    ResIntact a (issueQueue s sh name count body) := by
  unfold Machine.issueQueue
  dsimp only
  split
  · exact .ite h.deny trivial
  · exact h.addPend.tick1

/-! ### Accesses as they are performed (09, 13) -/

theorem withGroup {gid : Nat} {f : State → State} (hf : Intact a (f { s with cur := gid })) : Intact a (withGroup s gid f) := hf.withCur

theorem postRefusal {g : Group} {cause : Nat} {va : DWord} (h : Intact a s) : Intact a (postRefusal s g cause va) := h

theorem refuseLoad {p : Pend} {lane : Nat} {va : DWord} (h : Intact a s) : Intact a (refuseLoad s p lane va) := h.lateFault

theorem noteAway {tid pkg : Nat} (h : Intact a s) : Intact a (noteAway s tid pkg) := by
  unfold Machine.noteAway
  split
  · exact ite h.setTask h
  · exact h

theorem sendParts {p : Pend} {unit cls : Nat} {body : List Acc → Acc → MsgBody} (h : Intact a s) :
    Intact a (sendParts s p unit cls body).1 := by
  unfold Machine.sendParts
  refine List.foldlRecOn _ _ (motive := fun r : State × Pend × Option Acc => Intact a r.1) h (fun r hr x _ => ?_)
  split
  · split
    · exact hr
    · split
      next ht =>
        have hs := hr.sendMsg.of_eq ht
        exact ite hs.noteAway hs
      next => exact hr
  · exact hr

theorem setRacy {g : Group} (h : Intact a s) : Intact a (s.setRacy g) := by
  unfold State.setRacy
  split
  · exact h.setTask
  · exact h

theorem loadAcc {byp : Bool} {x : Acc} (h : Intact a s) : Intact a (loadAcc s byp x).2 := by
  unfold Machine.loadAcc
  dsimp only
  split
  · exact h
  · split
    · split
      · exact h.setRacy.draw
      · exact h.loadBytes
    · exact h.apertureRead

theorem loadAccs {byp : Bool} {l : List Acc} (h : Intact a s) : Intact a (loadAccs s byp l).2 := by
  induction l generalizing s with
  | nil => exact h
  | cons x l ih => exact ih h.loadAcc

theorem dropConflicts {g : Group} {key : DWord} {ls : List Nat} (h : Intact a s) : Intact a (dropConflicts s g key ls) := by
  unfold Machine.dropConflicts
  split
  · exact h.l1DropLines
  · exact h

theorem tryLoad {p : Pend} {byp : Bool} {slow : List Acc → Bool} {value : List Acc → List RegWrite} (h : Intact a s) :
    OptIntact a (tryLoad s p byp slow value) := by
  unfold Machine.tryLoad
  refine .ite trivial ?_
  split
  · split
    next he => exact (h.sendParts.of_fst he).setG
    next he => exact (h.sendParts.of_fst he).postRefusal.refuseLoad
  · refine .ite trivial (.ite trivial ?_)
    split
    next he => exact (h.hostAnswers.of_snd he).postHost.refuseLoad
    next he =>
      have hh := h.hostAnswers.of_snd he
      exact hh.dropConflicts.loadAccs.countConflicts.setG

theorem storedAcc {x : Acc} (h : Intact a s) : Intact a (storedAcc s x).2 := by
  unfold Machine.storedAcc
  split
  · exact h.setRacy.draw
  · exact h

theorem storeAcc {p : Pend} {x : Acc} (h : Intact a s) : OptIntact a ((storeAcc s p x).map Prod.fst) := by
  unfold Machine.storeAcc
  have hs : Intact a (Machine.storedAcc s x).2 := h.storedAcc
  dsimp only
  generalize (Machine.storedAcc s x).1 = y
  generalize (Machine.storedAcc s x).2 = u at hs
  split
  · exact hs.setG
  · split
    · split
      next ht => exact (hs.sendMsg.of_eq ht).noteAway
      next => exact hs.postRefusal.setG
    · split
      · rw [Option.map_map]
        exact .map (fun _ ht => hs.sgbPut.of_eq ht)
      · split
        · exact hs
        · exact hs.apertureWrite.setG

theorem storeAccs {p : Pend} {l : List Acc} (h : Intact a s) : Intact a (storeAccs s p l).1 := by
  induction l generalizing s p with
  | nil => exact h
  | cons x l ih =>
    unfold Machine.storeAccs
    split
    · exact ih h
    · split
      next s' p' ht => exact ih (h.storeAcc.of_eq (congrArg (Option.map Prod.fst) ht))
      next => exact h

theorem tryStore {p : Pend} (h : Intact a s) : OptIntact a (tryStore s p) := by
  unfold Machine.tryStore
  refine .ite trivial ?_
  split
  next he => exact (h.storeAccs.of_fst he).setG
  next he =>
    have hs := h.storeAccs.of_fst he
    exact .ite (.ite trivial hs.setG) hs.setG.sgbSendOldest

theorem ackHost {p : Pend} (h : Intact a s) : OptIntact a (ackHost s p) := by
  unfold Machine.ackHost
  split
  next =>
    refine .ite trivial ?_
    split
    next he => exact (h.hostAnswers.of_snd he).postHost.setG
    next he => exact (h.hostAnswers.of_snd he).setG
  next => trivial

theorem apertureAtom {master pa : Nat} {op : AtomOp} {y cmp : Word} (h : Intact a s) : Intact a (apertureAtom s master pa op y cmp).2 :=
  h.apertureRead.apertureWrite

theorem atomLane {p : Pend} {op : AtomOp} {x : Acc} (h : Intact a s) : Intact a (atomLane s p op x).2 := by
  unfold Machine.atomLane
  dsimp only
  split
  · exact h
  · dsimp only
    split
    · exact h.atomAt
    · exact h.apertureAtom

theorem atomLanes {p : Pend} {op : AtomOp} {l : List Acc} (h : Intact a s) : Intact a (atomLanes s p op l).2 := by
  induction l generalizing s with
  | nil => exact h
  | cons x l ih => exact ih h.atomLane

theorem clearLines {ls : List Nat} (h : Intact a s) : OptIntact a (clearLines s ls) := .ite trivial (.ite h h.sgbSend)

theorem tryPush {p : Pend} (h : Intact a s) : OptIntact a (tryPush s p) := .ite trivial h.pushEntries

theorem tryAtom {p : Pend} {op : AtomOp} (h : Intact a s) : OptIntact a (tryAtom s p op) := by
  unfold Machine.tryAtom
  refine .ite h.tryPush ?_
  split
  next ht => exact .ite trivial (h.clearLines.of_eq ht)
  next =>
    split
    · split
      next he => exact (h.sendParts.of_fst he).setG
      next he => exact (h.sendParts.of_fst he).postRefusal.refuseLoad
    · refine .ite trivial (.ite trivial ?_)
      split
      next he => exact (h.hostAnswers.of_snd he).postHost.refuseLoad
      next he =>
        have hh := h.hostAnswers.of_snd he
        exact setG (ite hh.atomLanes.l1Drop hh.atomLanes.l1DropLines)

theorem myPool (h : Intact a s) : WfFrom a s.myPool := h.pool _

theorem setMyPool {m : List Host.Cell} (h : Intact a s) (hm : WfFrom a m) : Intact a (s.setMyPool m) := h.setPool hm

theorem tryPool {p : Pend} (h : Intact a s) : OptIntact a (tryPool s p) := by
  unfold Machine.tryPool
  refine .ite trivial ?_
  split
  · exact h.setG
  · exact (h.setMyPool (WfFrom.foldl _ h.myPool (fun _ _ hm => hm.bputN))).setG
  · exact (h.setMyPool h.myPool.bputN).setG
  · exact (h.setMyPool h.myPool.bputN).setG
  · exact .ite h.l1Drop.setG trivial
  · exact setG (ite h.setG.l1Drop h)
  · trivial

theorem tryFence {p : Pend} {o : FenceOrder} {q : Scope} (h : Intact a s) : OptIntact a (tryFence s p o q) :=
  .ite (setG (ite h.l1Drop h)) h.tryPush

theorem tryOrder {p : Pend} {o : FenceOrder} {q : Scope} (h : Intact a s) : OptIntact a (tryOrder s p o q) :=
  .ite (setG (ite h.l1Drop h)) h.tryPush

theorem queueWrite {p : Pend} {va : DWord} {bs : List Byte} (h : Intact a s) : Intact a (queueWrite s p va bs) := by
  unfold Machine.queueWrite
  split
  · exact h.spanWrite
  · exact h

theorem queueMove {p : Pend} {name : Word} {pushed : List Word} {popped : Nat} (h : Intact a s) :
    Intact a (queueMove s p name pushed popped) := by
  unfold Machine.queueMove
  dsimp only
  split
  · split
    · exact h.setCluster (h.pool _)
    · exact h
  · split
    next q _ _ k _ _ =>
      have he : Intact a (((k.elems k.tail pushed.length).zip pushed).foldl (fun s e =>
          Machine.queueWrite s p e.1 (leBytes 4 e.2.toNat)) s) := foldl _ h (fun _ _ _ ht => ht.queueWrite)
      exact ite (ite he he.queueWrite) (ite he he.queueWrite).queueWrite
    next => exact h

theorem arriveAt {p : Pend} (h : Intact a s) : Intact a (arriveAt s p) := h.setG.tick1

theorem tryQueue {p : Pend} (h : Intact a s) : OptIntact a (tryQueue s p) := by
  unfold Machine.tryQueue
  split
  · trivial
  · refine .ite h.tryPush (.ite h.arriveAt (.ite trivial ?_))
    split
    next ht => exact .ite trivial (h.clearLines.of_eq ht)
    next =>
      split
      · split
        · exact .ite trivial h.queueMove.l1DropLines.setG
        · trivial
      · dsimp only
        split
        · exact .ite trivial (.ite h.lateFault h.queueMove.l1Drop.setG)
        · trivial
      · trivial

end Intact
end Sys2Proof.Machine
end

section
/-! SUPPORT. The same of the engines and their commands. -/

namespace Sys2Proof.Machine

open Sys2Proof.Claims

variable {a s t : State}

/-- What a unit of an engine command does. -/
def UnitIntact (a : State) : UnitRes → Prop
  | .done s _ _ | .wait s _ | .refused s _ => Intact a s
  | .miss _ _ | .fault _ _ | .denied _ _ | .noRoute _ => True

theorem UnitIntact.ite {p : Prop} [Decidable p] {r r' : UnitRes} (h : UnitIntact a r) (h' : UnitIntact a r') :
    UnitIntact a (if p then r else r') := by
  split <;> assumption

theorem UnitIntact.engCheck {c : Cmd} {kind : AccKind} {va : DWord} {n : Nat} {r : UnitRes} (e : engCheck s c kind va n = some r) :
    UnitIntact a r := by
  obtain ⟨p, -, hp⟩ := List.exists_of_findSome?_eq_some e
  dsimp only at hp
  split at hp
  · cases hp; trivial
  · split at hp
    · cases hp; trivial
    · split at hp <;> cases hp <;> trivial
    · split at hp <;> cases hp; trivial
    · cases hp

namespace Intact

/-! ### Commands as they issue (10) -/

theorem issueCmd {sub n : Nat} {x y : F7} (h : Intact a s) : ResIntact a (issueCmd s sub n x y) := by
  unfold Machine.issueCmd
  refine .ite h (.ite trivial ?_)
  dsimp only
  split
  · trivial
  · exact .ite trivial (tick1 (withCmds (ite h.setG.withDev h.setG)))

theorem closeBatch {cls : Nat} {d : F7} (h : Intact a s) : ResIntact a (closeBatch s cls d) := by
  unfold Machine.closeBatch
  refine .ite trivial (.ite trivial ?_)
  have hw : ResIntact a (Machine.writeUnis s false [(d.toNat, BitVec.ofNat 32 (s.G.batch cls).openN.toNat)]) := h.writeUnis
  dsimp only
  split
  next he => rw [he] at hw; exact setG hw
  next => exact hw

theorem batchWait {sh : Shape} {cls : Nat} {x : F7} (h : Intact a s) : ResIntact a (batchWait s sh cls x) := .ite trivial h.waitPend

theorem batchStat {cls : Nat} {d x : F7} (h : Intact a s) : ResIntact a (batchStat s cls d x) := h.writeUnis

/-! ### What an engine reads and writes (10, 13) -/

theorem setCmd {c : Cmd} (h : Intact a s) : Intact a (setCmd s c) := h

theorem askPiece {c : Cmd} {p : Nat × Nat} (h : Intact a s) : Intact a (askPiece s c p).1 := by
  unfold Machine.askPiece
  split
  · split
    · exact h
    · split
      next he => exact h.sendMsg.of_eq he
      next => exact h
  · exact h

theorem pipeBytes {c : Cmd} {pa : Nat} {home : Option Nat} {n : Nat} (h : Intact a s) : Intact a (pipeBytes s c pa home n).2 := by
  unfold Machine.pipeBytes
  split
  · exact h.fillLine
  · exact h.touchHome

theorem pieceBytes {c : Cmd} {p : Nat × Nat} (h : Intact a s) : Intact a (pieceBytes s c p).2 := by
  unfold Machine.pieceBytes
  split
  · exact h
  · split
    · exact h.pipeBytes
    · exact h.apertureRead
  · exact h

theorem gatherPieces {c : Cmd} {ps : List (Nat × Nat)} (h : Intact a s) : Intact a (gatherPieces s c ps).2 := by
  induction ps generalizing s with
  | nil => exact h
  | cons p ps ih =>
    unfold Machine.gatherPieces
    split
    next he => exact ih (h.pieceBytes.of_snd he)
    next he => exact h.pieceBytes.of_snd he

theorem sendLines {core : Nat} {ls : List Nat} (h : Intact a s) : Intact a (sendLines s core ls) := h.sgbSend

theorem countLines {c : Cmd} {ls : List Nat} (h : Intact a s) : Intact a (countLines s c ls).1 := by
  unfold Machine.countLines
  split
  · exact h.countConflicts
  · exact h

theorem hostRefusal {c : Cmd} {kind : AccKind} {va : DWord} {n : Nat} (h : Intact a s) : Intact a (hostRefusal s c kind va n).2 := by
  unfold Machine.hostRefusal
  refine List.foldlRecOn _ _ (motive := fun r : Option DWord × State => Intact a r.2) h (fun r hr x _ => ?_)
  split
  · exact hr
  · exact hr.draw

theorem readR {c : Cmd} {va : DWord} {n : Nat} {k : State → Cmd → List Byte → UnitRes} (h : Intact a s)
    (hk : ∀ s c bs, Intact a s → UnitIntact a (k s c bs)) : UnitIntact a (readR s c va n k) := by
  unfold Machine.readR
  split
  next he => exact .engCheck he
  next =>
    split
    · trivial
    · refine .ite h.sendLines ?_
      have ha : Intact a ((piecesOf va.toNat n).foldl (fun r p => Machine.askPiece r.1 r.2 p) (s, c)).1 :=
        List.foldlRecOn _ _ (motive := fun r : State × Cmd => Intact a r.1) h (fun r hr x _ => hr.askPiece)
      split
      next he =>
        have hg := ha.of_fst he
        split
        next he =>
          have hb := hg.gatherPieces.of_snd he
          split
          next he => exact hb.hostRefusal.of_snd he
          next he => exact hk _ _ _ (hb.hostRefusal.of_snd he).countLines
        next => exact hg

theorem readMany {ps : List (DWord × Nat)} {c : Cmd} {acc : List (List Byte)} {k : State → Cmd → List (List Byte) → UnitRes} (h : Intact a s)
    (hk : ∀ s c bs, Intact a s → UnitIntact a (k s c bs)) : UnitIntact a (readMany ps s c acc k) := by
  induction ps generalizing s c acc with
  | nil => exact hk _ _ _ h
  | cons p ps ih => exact h.readR (fun _ _ _ ht => ih ht)

theorem writeCk {c : Cmd} {va : DWord} {n : Nat} {k : State → UnitRes} (h : Intact a s) (hk : ∀ s, Intact a s → UnitIntact a (k s)) :
    UnitIntact a (writeCk s c va n k) := by
  unfold Machine.writeCk
  split
  next he => exact .engCheck he
  next =>
    refine .ite h.sendLines ?_
    split
    next he => exact h.hostRefusal.of_snd he
    next he => exact hk _ (h.hostRefusal.of_snd he)

theorem writePiece {c : Cmd} {va : Nat} {bs : List Byte} (h : Intact a s) : Intact a (writePiece s c va bs).1 := by
  unfold Machine.writePiece
  split
  · split
    next he => exact (h.sendMsg.of_eq he).noteAway
    next => exact h
  · split
    · exact h.spanWrite
    · exact h.apertureWrite
  · exact h

theorem engWrite {c : Cmd} {va : DWord} {bs : List Byte} (h : Intact a s) : Intact a (engWrite s c va bs).1 :=
  List.foldlRecOn _ _ (motive := fun r : State × Cmd => Intact a r.1) h (fun _ hr _ _ => hr.writePiece)

theorem poolPut {c : Cmd} {off : Nat} {bs : List Byte} (h : Intact a s) : Intact a (poolPut s c off bs) :=
  h.setPool (WfFrom.foldl _ (h.pool _) (fun _ _ hm => hm.bput))

theorem accPut {team core x m n : Nat} {w : Word} (h : Intact a s) : Intact a (accPut s team core x m n w) :=
  h.setCore (h.acc core).bputN

theorem boArrive {c : Cmd} {n : Nat} (h : Intact a s) : Intact a (boArrive s c n) := ite h (h.setPool (WfFrom.bputN (h.pool _)))

theorem freeRow {twice : Nat → Bool} {bs : List Byte} (h : Intact a s) : Intact a (freeRow s twice bs).2 := by
  unfold Machine.freeRow
  split
  · exact h.draw
  · exact h

theorem putUnit {c : Cmd} {slot : Nat} {bs : List Byte} (h : Intact a s) : Intact a (putUnit s c slot bs) :=
  ite (ite h.draw.poolPut h.draw) h.poolPut

theorem putPart {c : Cmd} {j off : Nat} {bs : List Byte} (h : Intact a s) : Intact a (putPart s c j off bs) :=
  foldl _ h (fun _ _ _ ht => ht.putUnit)

theorem putRows {c : Cmd} {core x : Nat} {rows : List Nat} {v : Nat → Nat → Word → Word} {zero : Bool} (h : Intact a s) :
    Intact a (putRows s c core x rows v zero) :=
  foldl _ h (fun _ _ _ ht => foldl _ ht (fun _ _ _ hu => hu.accPut))

/-! ### The units of each command (10) -/

theorem unitCpy {c : Cmd} {q : Nat} (h : Intact a s) : UnitIntact a (unitCpy s c q) := by
  unfold Machine.unitCpy
  extract_lets d rb ctl rows sp dp swz src dst sa da twice put
  have hp (u : State) (c : Cmd) (bs : List Byte) (hu : Intact a u) : UnitIntact a (put u c bs) :=
    .ite hu.freeRow.poolPut (hu.freeRow.writeCk (fun _ hw => hw.engWrite))
  exact .ite (hp _ _ _ h) (.ite (h.readR hp) (h.writeCk (fun _ hw => hw.readR hp)))

theorem unitRow {c : Cmd} (h : Intact a s) : UnitIntact a (unitRow s c) := .ite h.draw.putPart (h.draw.readR (fun _ _ _ ht => ht.putPart))

theorem unitGather {c : Cmd} {scatter : Bool} {u : Nat} (h : Intact a s) : UnitIntact a (unitGather s c scatter u) :=
  .ite (.ite h (h.readR (fun _ _ _ ht => ht))) (.ite h.unitRow (.ite h (h.writeCk (fun _ hw => hw.engWrite))))

theorem unitMma {c : Cmd} {u : Nat} (h : Intact a s) : UnitIntact a (unitMma s c u) := by
  unfold Machine.unitMma
  dsimp only
  split
  · exact h
  · exact h.readMany (fun _ _ _ ht => ite ht.putRows.putRows ht.putRows)

theorem unitDrain {c : Cmd} {m : Nat} (h : Intact a s) : UnitIntact a (unitDrain s c m) := by
  unfold Machine.unitDrain
  extract_lets d ctl
  split
  · exact h
  · refine h.writeCk (fun u hu => .ite (hu.readR (fun v _ _ hv => ?_)) ?_)
    · exact ite (foldl _ hv.engWrite (fun _ _ _ ht => ht.accPut)) hv.engWrite
    · exact ite (foldl _ hu.engWrite (fun _ _ _ ht => ht.accPut)) hu.engWrite

theorem unitWalk {c : Cmd} (h : Intact a s) : UnitIntact a (unitWalk s c) := by
  unfold Machine.unitWalk
  refine h.readR (fun _ _ _ ht => ?_)
  refine ht.readMany (fun _ _ _ hu => ?_)
  exact hu.poolPut

theorem unitCstore {c : Cmd} {u : Nat} (h : Intact a s) : UnitIntact a (unitCstore s c u) := by
  unfold Machine.unitCstore
  extract_lets d e z n buf table source
  have hs (off len : Nat) (k : State → Cmd → List Byte → UnitRes) (hk : ∀ s c bs, Intact a s → UnitIntact a (k s c bs)) :
      UnitIntact a (source off len k) := .ite (hk _ _ _ h) (h.readR hk)
  refine .ite (hs _ _ _ fun _ _ _ ht => ht.writeCk (fun _ hw => hw.engWrite)) (.ite ?_ ?_)
  · exact .ite h (hs _ _ _ fun _ _ _ ht => ht.writeCk (fun _ hw => hw.engWrite))
  · rename_i count
    exact h.writeCk (fun _ hw => hw.engWrite (c := c) (va := buf) (bs := leBytes 4 count))

theorem unitCload {c : Cmd} {k : Nat} (h : Intact a s) : UnitIntact a (unitCload s c k) := by
  unfold Machine.unitCload
  extract_lets d e z n len buf da put
  have hp (u : State) (c : Cmd) (bs : List Byte) (hu : Intact a u) : UnitIntact a (put u c bs) :=
    .ite hu.poolPut (hu.writeCk (fun _ hw => hw.engWrite))
  refine h.readMany (fun _ _ _ ht => .ite (hp _ _ _ ht) ?_)
  exact ht.readR (fun _ _ _ hu => hu.readR (fun _ _ _ hv => hp _ _ _ hv))

theorem unitCollSend {c : Cmd} (h : Intact a s) : UnitIntact a (unitCollSend s c) := by
  unfold Machine.unitCollSend
  refine h.readR (fun t _ _ ht => ?_)
  show Intact a _
  exact foldl _ ht (fun _ _ _ hu => foldl _ hu (fun _ _ _ hv => hv.sendMsg.getD hv))

theorem unitColl {c : Cmd} {ranks : List RankData} (h : Intact a s) : UnitIntact a (unitColl s c ranks) :=
  h.writeCk (fun _ hw => hw.engWrite)

theorem doUnit {c : Cmd} {u : Nat} (h : Intact a s) : UnitIntact a (doUnit s c u) := by
  unfold Machine.doUnit
  split
  · exact h.unitCpy
  · exact h.unitGather
  · exact h.unitGather
  · exact h.unitMma
  · exact h.unitDrain
  · exact h.unitWalk
  · exact h.unitCstore
  · exact h.unitCload
  · refine .ite h.unitCollSend ?_
    split
    · exact h.unitColl
    · exact h

/-! ### Running a command (10) -/

theorem collArrive {comm : Nat} {d : RankData} (h : Intact a s) : Intact a (collArrive s comm d) := ite h h

theorem finishCmd {c : Cmd} (h : Intact a s) : Intact a (finishCmd s c) := by
  have hc : Intact a (if c.sub = 8 then { s with
      cmds := s.cmds.filter (fun x => x.id != c.id),
      collIn := s.collIn.filter (collOpen { s with cmds := s.cmds.filter (fun x => x.id != c.id) }) }
      else { s with cmds := s.cmds.filter (fun x => x.id != c.id) }) := ite h h
  exact ite hc hc.setGroup

theorem stopCmd {c : Cmd} {cause : Nat} {va : DWord} (h : Intact a s) : Intact a (stopCmd s c cause va) :=
  ite h.finishCmd.post (ite h.finishCmd h.finishCmd.setGroup)

theorem endUnit {c : Cmd} {n : Nat} (h : Intact a s) : Intact a (endUnit s c n) := h.boArrive.setCmd

theorem applyUnit {c : Cmd} {r : UnitRes} (h : Intact a s) (hr : UnitIntact a r) : OptIntact a (applyUnit s c r) := by
  cases r
  case done => exact ite (endUnit hr) (setCmd hr)
  case miss => exact .ite h.addMiss.setCmd trivial
  case fault => exact h.stopCmd
  case denied => exact h.deny.stopCmd
  case noRoute => exact h.post.stopCmd
  case refused => exact (postHost hr).stopCmd
  case wait => exact .ite trivial (setCmd hr)

theorem tryUnit {c : Cmd} (h : Intact a s) : OptIntact a (tryUnit s c) := by
  unfold Machine.tryUnit
  refine .ite trivial ?_
  dsimp only
  split
  · exact .ite h.endUnit trivial
  · exact .ite trivial (h.applyUnit h.doUnit)

theorem runCmd (fuel : Nat) {id : Nat} (h : Intact a s) : Intact a (runCmd fuel s id) := by
  induction fuel generalizing s with
  | zero => exact h
  | succ fuel ih =>
    unfold Machine.runCmd
    split
    · exact h
    · refine ite h.finishCmd ?_
      split
      next he => exact ih (h.tryUnit.of_eq he)
      next => exact h

theorem execEngineAccept {cmd : Nat} (h : Intact a s) : OutIntact a (execEngineAccept cmd s) := by
  unfold Machine.execEngineAccept
  split
  · exact .ite h.setGroup.setCmd h
  · exact h

theorem execBoArrival {cmd : Nat} (h : Intact a s) : OutIntact a (execBoArrival cmd s) := by
  unfold Machine.execBoArrival
  split
  · exact h.tryUnit.getD h
  · exact h

theorem execEngineCommandComplete {cmd : Nat} (h : Intact a s) : OutIntact a (execEngineCommandComplete cmd s) := by
  unfold Machine.execEngineCommandComplete
  split
  · exact h.runCmd _
  · exact h

theorem execEngineResume {cmd : Nat} (h : Intact a s) : OutIntact a (execEngineResume cmd s) := by
  unfold Machine.execEngineResume
  split
  · split
    · exact .ite h (.ite h.stopCmd h.setCmd)
    · exact h
  · exact h

theorem refuseColl {c : Cmd} (h : Intact a s) : Intact a (refuseColl s c) := h.boArrive.finishCmd

theorem matchColl {c : Cmd} (h : Intact a s) : OptIntact a (matchColl s c) := .ite trivial (.ite trivial (.ite h.refuseColl h.setCmd))

theorem execCollMatch {cmd comm : Nat} (h : Intact a s) : OutIntact a (execCollMatch cmd comm s) := by
  unfold Machine.execCollMatch
  split
  · refine .ite ?_ h
    split
    next he => exact (h.matchColl.of_eq he).runCmd 2
    next => exact h
  · exact h

theorem execCollTimeout {cmd : Nat} (h : Intact a s) : OutIntact a (execCollTimeout cmd s) := by
  unfold Machine.execCollTimeout
  split
  · exact .ite h.refuseColl h
  · exact h

end Intact
end Sys2Proof.Machine
end

section
/-! SUPPORT. The same of keyspaces: their tables, costs, commits, barriers and rebalancing. -/

namespace Sys2Proof.Machine

open Sys2Proof.Claims

variable {a s t : State}

/-! ### Results that may fail at an address -/

/-- What holds of the value, if there is one. -/
def ExcAll {β : Type} (P : β → Prop) : Except DWord β → Prop
  | .ok x => P x
  | .error _ => True

namespace ExcAll

variable {β γ : Type} {P : β → Prop} {Q : γ → Prop}

theorem of_eq {x : Except DWord β} {y : β} (h : ExcAll P x) (e : x = .ok y) : P y := by subst e; exact h

theorem bind {x : Except DWord β} {f : β → Except DWord γ} (hx : ExcAll P x) (hf : ∀ y, P y → ExcAll Q (f y)) : ExcAll Q (x >>= f) := by
  cases x with
  | error => trivial
  | ok y => exact hf y hx

theorem ret {x : β} (h : P x) : ExcAll P (pure x) := h

/-- A step that only reads. -/
theorem read {x : Except DWord β} {f : β → Except DWord γ} (hf : ∀ y, ExcAll Q (f y)) : ExcAll Q (x >>= f) := by
  cases x with
  | error => trivial
  | ok y => exact hf y

theorem ite {p : Prop} [Decidable p] {x y : Except DWord β} (hx : ExcAll P x) (hy : ExcAll P y) : ExcAll P (if p then x else y) := by
  split <;> assumption

theorem foldlM {f : β → γ → Except DWord β} {l : List γ} {x : β} (hx : P x) (hf : ∀ x y, P x → ExcAll P (f x y)) :
    ExcAll P (l.foldlM f x) := by
  induction l generalizing x with
  | nil => exact hx
  | cons y l ih => exact bind (hf x y hx) (fun _ hz => ih hz)

end ExcAll

namespace Intact

/-! ### The tables of a keyspace (11, 20) -/

theorem tput {x : Task} {va : DWord} {data : List Byte} (h : Intact a s) : ExcAll (Intact a) (tput s x va data) := by
  unfold Machine.tput
  refine .ite trivial ?_
  split
  next he => exact h.hwWrite.of_eq he
  next => trivial

theorem writeIndex {x : Task} {d : KDesc} {j : Nat} {es : List KEnt} (h : Intact a s) : ExcAll (Intact a) (writeIndex s x d j es) := h.tput

theorem freeRange {x : Task} {r : DWord × Nat} (h : Intact a s) : Intact a (freeRange s x r) := by
  refine foldl _ h.draw (fun u p _ hu => ?_)
  split
  · exact ite hu.spanWrite hu
  · exact hu

theorem tableFail {tid : Nat} {x : Task} {va : DWord} (h : Intact a s) : Intact a (tableFail s tid x va) := by
  unfold Machine.tableFail
  refine killTask (breakTask (setTask ?_))
  split
  · exact foldl _ h.post (fun _ _ _ ht => ht.freeRange)
  · exact h.post

theorem endTable {tid : Nat} {x : Task} {r : Except DWord State} (h : Intact a s) (hr : ExcAll (Intact a) r) :
    Intact a (endTable s tid x r) := by
  cases r with
  | ok => exact hr
  | error => exact h.tableFail

/-! ### KLOCATE and KOWNER -/

theorem drawWords (n : Nat) (h : Intact a s) : Intact a (drawWords n s).2 := by
  induction n generalizing s with
  | zero => exact h
  | succ n ih => exact ih h.draw

theorem kRun {v : Option KView} {k : Nat} (h : Intact a s) : OptIntact a ((kRun s v k).map Prod.snd) := by
  unfold Machine.kRun
  split
  · exact h.drawWords 4
  · split
    · exact h.drawWords 4
    · dsimp only
      split
      · trivial
      · exact h

theorem kRuns {v : Option KView} {q task : Nat} {handles : Bool} {ks : List (Nat × DWord)} (h : Intact a s) :
    OptIntact a ((kRuns s v q task handles ks).map Prod.snd) := by
  induction ks generalizing s with
  | nil => exact h
  | cons e ks ih =>
    obtain ⟨i, k⟩ := e
    unfold Machine.kRuns
    split
    next he =>
      rw [Option.map_map]
      exact .map (fun r hr => (ih (h.kRun.of_eq (congrArg (Option.map Prod.snd) he))).of_eq (congrArg (Option.map Prod.snd) hr))
    next =>
      split
      · trivial
      · split
        next => trivial
        next he =>
          rw [Option.map_map]
          exact .map (fun r hr => (ih (h.issueHandle.of_eq (congrArg (Option.map Prod.snd) he))).of_eq (congrArg (Option.map Prod.snd) hr))

theorem withKeyspace {k : Nat → Task → KDesc → Res} (hk : ∀ tid x d, ResIntact a (k tid x d)) : ResIntact a (withKeyspace s k) := by
  unfold Machine.withKeyspace
  split
  · split
    · exact hk _ _ _
    · trivial
  · trivial

theorem execKlocate {d x : F7} (h : Intact a s) : OutIntact a (execKlocate d x s) := by
  refine h.issueWith (fun _ => withKeyspace (fun _ _ _ => ?_))
  dsimp only
  split
  next he => exact (h.kRuns.of_eq (congrArg (Option.map Prod.snd) he)).setG
  next => exact h.addPend

theorem tryKlocate {p : Pend} (h : Intact a s) : OptIntact a (tryKlocate s p) := by
  unfold Machine.tryKlocate
  refine .ite trivial ?_
  dsimp only
  split
  next he => exact (h.kRuns.of_eq (congrArg (Option.map Prod.snd) he)).setG
  next => trivial

theorem lookupOwner {x : Task} {d : KDesc} {q tid k : Nat} (h : Intact a s) : Intact a (lookupOwner s x d q tid k).2 := by
  unfold Machine.lookupOwner
  dsimp only
  split
  · exact h
  · split
    · exact h.setCutTables
    · split
      · exact h.setCutTables
      · exact h.draw

theorem lookupOwners {x : Task} {d : KDesc} {q tid : Nat} {ks : List (Nat × DWord)} (h : Intact a s) :
    Intact a (lookupOwners s x d q tid ks).2 := by
  induction ks generalizing s with
  | nil => exact h
  | cons e ks ih =>
    obtain ⟨i, k⟩ := e
    unfold Machine.lookupOwners
    refine ih ?_
    split
    · exact h.lookupOwner
    · exact h

theorem execKowner {d x : F7} (h : Intact a s) : OutIntact a (execKowner d x s) :=
  h.issueWith (fun _ => withKeyspace (fun _ _ _ => h.lookupOwners.writeVs))

/-! ### Refinement, coarsening and costs -/

theorem stageReq {refine_ : Bool} {d x : F7} (h : Intact a s) : ResIntact a (stageReq s refine_ d x) := by
  refine withKeyspace (fun _ _ _ => ?_)
  dsimp only
  split
  · exact h.setTeam.writeP
  · exact h.draw.writeP
  · exact h.writeP

theorem addCostAt {x : Task} {d : KDesc} {j k amount : Nat} (h : Intact a s) : ExcAll (OptIntact a) (addCostAt s x d j k amount) := by
  refine .read (fun es => ?_)
  dsimp only
  split
  · trivial
  · exact .bind h.tput (fun _ ht => ht)

theorem addCostAny {x : Task} {d : KDesc} {k amount : Nat} {js : List Nat} (h : Intact a s) :
    ExcAll (Intact a) (addCostAny s x d k amount js) := by
  induction js with
  | nil => exact h
  | cons j js ih =>
    refine .bind h.addCostAt (fun o ho => ?_)
    cases o with
    | none => exact ih
    | some => exact ho

theorem tellOwner {q : Nat} {o : Word} {body : MsgBody} (h : Intact a s) : Intact a (tellOwner s q o body) := h.sendMsg.getD h

theorem addCost {q tid : Nat} {k : DWord} {amount : Word} {link : Option (Nat × Nat × Nat)} (h : Intact a s) :
    Intact a (addCost s q tid k amount link).2 := by
  unfold Machine.addCost
  split
  · exact h
  · split
    · exact h
    · split
      · exact h
      · extract_lets +onlyGivenNames away
        have haway (o : Word) : Intact a (away s o).2 := by
          simp only [away]
          split
          next he => exact h.sendMsg.of_eq he
          next => exact h
        dsimp only
        split
        next he =>
          refine ExcAll.of_eq (P := fun r : Bool × State => Intact a r.2) ?_ he
          refine .read (fun v => .read (fun cs => ?_))
          split
          · refine .ite (.ret h.setTask) (.ite ?_ (.ret (haway _)))
            exact .bind h.addCostAny (fun _ ht => ht)
          · split
            · exact .ite (.bind h.addCostAny (fun _ ht => ht)) (.ret (haway _))
            · exact h
        next => exact h.tableFail

theorem addCosts {tid id : Nat} {l : List (Nat × DWord × Word)} (h : Intact a s) : Intact a (addCosts s tid id l).2 := by
  induction l generalizing s with
  | nil => exact h
  | cons e l ih => exact ih h.addCost

theorem execKcost {x y : F7} (h : Intact a s) : OutIntact a (execKcost x y s) := by
  refine h.issueWith (fun _ => withKeyspace (fun _ _ _ => .ite trivial ?_))
  exact .ite h.addCosts h.addCosts.setG.addPend

theorem tryKcost {p : Pend} (h : Intact a s) : OptIntact a (tryKcost s p) := .ite h.setG trivial

theorem execKcommit (h : Intact a s) : OutIntact a (execKcommit s) :=
  h.issueWith (fun _ => .ite trivial (withKeyspace (fun _ _ _ => .ite h.setG.waitPend h.waitPend)))

theorem tellPackages {q : Nat} {cs : List Cut} {body : MsgBody} (h : Intact a s) : Intact a (tellPackages s q cs body) :=
  foldl _ h (fun _ _ _ ht => ht.tellOwner)

theorem rewriteFirst {tid : Nat} {x : Task} {d : KDesc} {old new : DWord} (h : Intact a s) :
    ExcAll (fun r : Bool × State => Intact a r.2) (rewriteFirst s tid x d old new) := by
  refine .read (fun head => .bind (P := fun r : List Word × State => Intact a r.2) (.foldlM h (fun r v hr => ?_)) (fun r hr => ?_))
  · refine .read (fun cs => .foldlM hr (fun r j hr => ?_))
    exact .ite (.bind hr.tput (fun _ ht => ht)) (.bind hr.tput (fun _ ht => ht))
  · exact .ite h (hr.withCuts rises_mmap)

theorem followFirst {tid : Nat} {x : Task} {d : KDesc} {cs : List Cut} {j : Nat} {before after : List KEnt} (h : Intact a s) :
    ExcAll (Intact a) (followFirst s tid x d cs j before after) := by
  unfold Machine.followFirst
  extract_lets go
  have hgo (plan : List Cut) : ExcAll (Intact a) (go plan) :=
    .foldlM h (fun u e hu => .bind hu.rewriteFirst (fun r hr => ite hr.tellPackages hr))
  split
  · exact .ite (.read hgo) (hgo _)
  · exact hgo _

theorem planAfter {tid : Nat} {x : Task} {d : KDesc} {cs : List Cut} {j : Nat} {after : List KEnt} (h : Intact a s) :
    Intact a (planAfter s tid x d cs j after) := by
  unfold Machine.planAfter
  split
  · exact h
  · exact ite h (ite h.setTask (foldl _ h.setTask (fun _ _ _ ht => ht.tellOwner)))

theorem applyCommit {tid : Nat} {x : Task} {core : Nat} {reqs : List (Bool × DWord)} (h : Intact a s) :
    Intact a (applyCommit s tid x core reqs) := by
  unfold Machine.applyCommit
  split
  · exact h
  · refine h.endTable (.read (fun v => .read (fun cs => ?_)))
    dsimp only
    split
    · exact h
    · exact .read (fun es => .bind h.writeIndex (fun _ hu => .bind hu.followFirst (fun _ hv => hv.planAfter)))

/-! ### Barriers -/

theorem completeArrival {gid : Nat} {p : Pend} {q : Scope} (h : Intact a s) : Intact a (completeArrival s gid p q) :=
  withGroup (setG (l1Drop h.withCur))

theorem keepHeader {team : Nat} {tm : Team} (h : Intact a s) : Intact a (s.keepHeader team tm) := ite h.setTeam.putArea h.setTeam

theorem tryBarrier {team : Nat} (h : Intact a s) : OptIntact a (tryBarrier s team) := by
  unfold Machine.tryBarrier
  split
  · trivial
  next tm _ =>
    refine .ite trivial ?_
    extract_lets kcommit commits
    split
    · trivial
    · refine .ite trivial ?_
      extract_lets u late v
      have hu : Intact a u := ite h.applyCommit h
      have hv : Intact a v := by
        simp only [v]
        split
        · exact hu.keepHeader
        · exact hu
      exact ite hv (foldl _ hv (fun _ _ _ ht => ht.completeArrival))

theorem execTeamBarrierComplete {team : Nat} (h : Intact a s) : OutIntact a (execTeamBarrierComplete team s) := h.tryBarrier.getD h

/-! ### Rebalancing -/

theorem startRebal {tid : Nat} {x : Task} {d : KDesc} {hd : DWord} (h : Intact a s) : Intact a (startRebal s tid x d hd) := by
  unfold Machine.startRebal
  refine ite h.tellHandle ?_
  dsimp only
  split
  · exact h.setTask.tellPackages
  · exact h.setTask

theorem execKrebal {d x : F7} (h : Intact a s) : OutIntact a (execKrebal d x s) := by
  refine h.issue (.ite trivial (withKeyspace (fun tid x kd => .ite trivial (.ite trivial ?_))))
  dsimp only
  split
  · exact h.writeUnis
  next hd s1 he =>
    have h1 : Intact a s1 := h.issueHandle.of_eq (congrArg (Option.map Prod.snd) he)
    have h2 : ResIntact a (Machine.writeUnis s1 false (pairWrites d.toNat hd)) := h1.writeUnis
    split
    next s2 he =>
      rw [he] at h2
      have h3 : Intact a (s2.setG { s2.G with issued := hd :: s2.G.issued }) := setG h2
      split
      · refine .ite h3.startRebal (.ite h3.tellHandle ?_)
        split
        next he => exact (h3.sendMsg.of_eq he).setG
        next => exact h3.tellHandle
      · exact h3.startRebal
    next => exact h2

theorem snapshotCosts {x : Task} {d : KDesc} {js : List Nat} (h : Intact a s) :
    ExcAll (fun r : List (KEnt × Nat) × State => Intact a r.2) (snapshotCosts s x d js) := by
  induction js generalizing s with
  | nil => exact h
  | cons j js ih => exact .read (fun es => .bind h.writeIndex (fun _ ht => .bind (ih ht) (fun _ hu => hu)))

theorem newCuts {cs : List Cut} {as : List (DWord × Nat × Nat)} (h : Intact a s) : Intact a (newCuts s cs as).2 := by
  refine List.foldlRecOn _ _ (motive := fun r : List Byte × State => Intact a r.2) h (fun r hr j _ => ?_)
  dsimp only
  split
  · exact hr
  · exact hr.draw

theorem advance {tid : Nat} {x : Task} {d : KDesc} {r : Rebal} (h : Intact a s) : ExcAll (Intact a) (advance s tid x d r) := by
  refine .ite (.ret h) (.read (fun cs => .ite (.ite (.ret h) ?_) (.ite (.ret h) (.ret (h.setTask.sendMsg.getD h.setTask)))))
  exact .bind h.tput (fun _ ht => ht.setTask.tellPackages)

theorem keepRebal {tid : Nat} {x : Task} {d : KDesc} {r : Rebal} (h : Intact a s) : ExcAll (Intact a) (keepRebal s tid x d r) :=
  h.setTask.advance

theorem trySnapshot {tid : Nat} (h : Intact a s) : OptIntact a (trySnapshot s tid) := by
  unfold Machine.trySnapshot
  split
  · trivial
  · split
    · refine .ite trivial ?_
      dsimp only
      split
      next he =>
        refine ExcAll.of_eq (P := OptIntact a) ?_ he
        refine .read (fun cs => .ite (.ret trivial) (.bind h.snapshotCosts (fun r hr => ?_)))
        refine .ite (.ret hr.setTask.tellHandle) (.bind hr.newCuts.tput (fun u hu => ?_))
        exact .bind (keepRebal (foldl _ hu (fun _ _ _ ht => ht.tellOwner))) (fun _ hv => hv)
      next => exact h.tableFail
    · trivial

theorem execRebalanceSnapshotComplete {task : Nat} (h : Intact a s) : OutIntact a (execRebalanceSnapshotComplete task s) :=
  h.trySnapshot.getD h

theorem arriveEnt {x : Task} {d : KDesc} {m : Move} (h : Intact a s) : ExcAll (Intact a) (arriveEnt s x d m) :=
  .read (fun _ => h.writeIndex)

theorem tryCopyStart {tid : Nat} {key : DWord} (h : Intact a s) : OptIntact a (tryCopyStart s tid key) := by
  unfold Machine.tryCopyStart
  split
  · trivial
  · split
    · split
      · trivial
      · dsimp only
        split
        next he =>
          refine ExcAll.of_eq (P := OptIntact a) ?_ he
          refine .read (fun cs => .ite (.ret trivial) (.read (fun es => .ite (.bind h.keepRebal (fun _ ht => ht)) ?_)))
          refine .bind h.writeIndex (fun u hu => .ite ?_ ?_)
          · exact .bind hu.arriveEnt (fun _ hv => hv.setTask)
          · exact hu.tellOwner.setTask
        next => exact h.tableFail
    · trivial

theorem execMigrationCopyStart {task : Nat} {key : DWord} (h : Intact a s) : OutIntact a (execMigrationCopyStart task key s) :=
  h.tryCopyStart.getD h

theorem tryCopyEnd {tid : Nat} {key : DWord} (h : Intact a s) : OptIntact a (tryCopyEnd s tid key) := by
  unfold Machine.tryCopyEnd
  split
  · trivial
  · split
    · split
      · trivial
      · dsimp only
        split
        next he =>
          refine ExcAll.of_eq (P := OptIntact a) ?_ he
          refine .read (fun cs => .ite (.ret trivial) (.read (fun es => .read (fun bs => .ite ?_ ?_))))
          · exact .bind h.tput (fun _ hu => .bind hu.keepRebal (fun _ hv => hv))
          · exact .bind (P := Intact a) h.tellOwner (fun _ hu => .bind hu.keepRebal (fun _ hv => hv))
        next => exact h.tableFail
    · trivial

theorem execMigrationCopyComplete {task : Nat} {key : DWord} (h : Intact a s) : OutIntact a (execMigrationCopyComplete task key s) :=
  h.tryCopyEnd.getD h

theorem switchMove {tid : Nat} {x : Task} {d : KDesc} {cs : List Cut} {m : Move} (h : Intact a s) :
    ExcAll (Intact a) (switchMove s tid x d cs m) := by
  unfold Machine.switchMove
  extract_lets x y go
  have hgo (u : State) (hu : Intact a u) : ExcAll (Intact a) (go u) := by
    refine .ite (.read (fun _ => .bind hu.writeIndex (fun _ hv => ?_))) (.ret (ite hu hu.tellOwner))
    exact ite hv hv.tellOwner
  exact .ite (.read (fun _ => .bind h.writeIndex hgo)) (hgo _ h)

theorem dropForwarded {x : Task} {d : KDesc} {cs : List Cut} {ms : List Move} (h : Intact a s) :
    ExcAll (Intact a) (dropForwarded s x d cs ms) := by
  induction ms generalizing s with
  | nil => exact h
  | cons m ms ih => exact .ite (ih h) (.read (fun _ => .bind h.writeIndex (fun _ ht => ih ht)))

theorem answerLookups {tid q : Nat} (h : Intact a s) : Intact a (answerLookups s tid q) := by
  refine foldl _ h (fun u e _ hu => ?_)
  split
  · refine ite ?_ hu
    split
    next he => exact (hu.kRun.of_eq (congrArg (Option.map Prod.snd) he)).settle
    next => exact hu
  · exact hu

theorem sendOn {cs : List Cut} {tid : Nat} {m : Move} (h : Intact a s) : Intact a (sendOn s cs tid m) :=
  ite h (foldl _ h.withInvs (fun _ _ _ ht => ht.sendInvAway))

theorem finishRebal {tid : Nat} {x : Task} {d : KDesc} {r : Rebal} (h : Intact a s) : ExcAll (Intact a) (finishRebal s tid x d r) := by
  refine .read (fun cs => .ite (.ret h) (.ite (.ret (h.sendMsg.getD h)) (.ite (.ret h) ?_)))
  exact .bind h.dropForwarded (fun _ ht => ht.setTask.tellPackages.tellHandle)

theorem trySwitch {tid q : Nat} (h : Intact a s) : OptIntact a (trySwitch s tid q) := by
  unfold Machine.trySwitch
  split
  · trivial
  · split
    · refine .ite trivial (h.endTable (.read (fun cs => .bind (.foldlM h (fun _ _ ht => ht.switchMove)) (fun u hu => ?_))))
      exact finishRebal (answerLookups (foldl _ hu.setTask.loadCuts (fun _ _ _ ht => ht.sendOn)))
    · trivial

theorem execQuarterSwitch {task quarter : Nat} (h : Intact a s) : OutIntact a (execQuarterSwitch task quarter s) := h.trySwitch.getD h

theorem takePlan {m : Message} {tid : Nat} {x : Task} {d : KDesc} {version : DWord} {cuts : List Byte} {moves : List (DWord × Nat × Nat)}
    (h : Intact a s) : ExcAll (Intact a) (takePlan s m tid x d version cuts moves) := by
  unfold Machine.takePlan
  extract_lets go
  have hgo (u : State) (hu : Intact a u) : ExcAll (Intact a) (go u) := by
    refine .read (fun cs => .read (fun all => ?_))
    dsimp only
    split <;> exact hu.keepRebal
  exact .ite (hgo _ h) (.bind h.tput hgo)

theorem keepEarly {tid : Nat} {x : Task} {m : Message} (h : Intact a s) : Intact a (keepEarly s tid x m) := h.setTask

theorem takeKeyspace {m : Message} {tid : Nat} {x : Task} {d : KDesc} (h : Intact a s) :
    ExcAll (Intact a) (takeKeyspace s m tid x d) := by
  unfold Machine.takeKeyspace
  split
  · exact h.addCost
  · exact .bind h.rewriteFirst (fun _ hr => hr)
  · exact h.startRebal
  · exact h.sendMsg.getD h
  · refine .ite h.setTask.tellHandle (.read (fun cs => ?_))
    exact ite h.setTask.tellPackages h.setTask
  · exact .read (fun v => .read (fun cs => .bind h.snapshotCosts (fun r hr => hr.sendMsg.getD hr)))
  · exact h.setTask
  · exact h.takePlan
  · split
    · exact .bind h.arriveEnt (fun _ ht => ht.setTask)
    · exact h.keepEarly
  · split
    · exact .bind h.tput (fun _ ht => ht.keepRebal)
    · exact h.keepEarly
  · exact h.keepEarly
  · exact h.keepEarly
  · split
    · exact .read (fun cs => .bind h.switchMove (fun _ ht => ht.setTask.sendOn.finishRebal))
    · exact h
  · exact h.keepRebal
  · refine .bind h.tput (fun u hu => ?_)
    show Intact a _
    split
    · exact hu.setTask
    · exact hu
  · exact h.setTask.finishRebal
  · exact .read (fun cs => .bind h.dropForwarded (fun _ ht => ht.setTask))
  · exact h

theorem tableMsg {m : Message} (h : Intact a s) : Intact a (tableMsg s m) := by
  unfold Machine.tableMsg
  split
  · exact h
  · split
    · split
      · exact h.endTable h.takeKeyspace
      · exact h
    · exact h

theorem takeEarly {m : Message} (h : Intact a s) : Intact a (takeEarly s m) := by
  unfold Machine.takeEarly
  split
  · split
    · exact foldl _ h.setTask (fun _ _ _ ht => ht.tableMsg)
    · exact h
  · exact h

/-! ### Ordered phases -/

theorem ordArrive {sh : Shape} {opens : Bool} (h : Intact a s) : ResIntact a (ordArrive s sh opens) := by
  unfold Machine.ordArrive
  refine .ite trivial ?_
  dsimp only
  split
  · trivial
  · exact .ite trivial h.setG.waitPend

theorem sayOrd {tid : Nat} {x : Task} {ready : Bool} (h : Intact a s) : Intact a (sayOrd s tid x ready) :=
  foldl _ h.setTask (fun _ _ _ ht => ht.tellOwner)

theorem askGuest {tid p : Nat} (h : Intact a s) : Intact a (askGuest tid s p) := by
  unfold Machine.askGuest
  split
  · exact h
  · dsimp only
    split
    next he => exact (h.sendMsg.of_eq he).setTask
    next => exact h.setTask

theorem tryRebuild {tid : Nat} (h : Intact a s) : OptIntact a (tryRebuild s tid) := by
  unfold Machine.tryRebuild
  split
  · trivial
  · exact .ite trivial (foldl _ h.setTask (fun _ _ _ ht => ht.rebuildAt))

theorem execWeirRebuildComplete {task : Nat} (h : Intact a s) : OutIntact a (execWeirRebuildComplete task s) := h.tryRebuild.getD h

theorem endOrd {tid : Nat} {x : Task} {as : List (Nat × Pend)} (h : Intact a s) : Intact a (endOrd s tid x as) :=
  foldl _ h.setTask (fun _ _ _ ht => ht.completeArrival)

theorem tryOrdBarrier {tid : Nat} (h : Intact a s) : OptIntact a (tryOrdBarrier s tid) := by
  unfold Machine.tryOrdBarrier
  split
  · trivial
  · split
    · trivial
    · refine .ite h.sayOrd (.ite trivial (.ite h.endOrd (.ite trivial (.ite ?_ (.ite trivial (.ite h.sayOrd (.ite trivial h.endOrd)))))))
      exact foldl _ h (fun _ _ _ ht => ht.askGuest)

theorem execOrdBarrierComplete {task : Nat} (h : Intact a s) : OutIntact a (execOrdBarrierComplete task s) := h.tryOrdBarrier.getD h

theorem ordMsg {m : Message} (h : Intact a s) : Intact a (ordMsg s m) := by
  unfold Machine.ordMsg
  split
  · split
    · exact h.setTask
    · exact h
  · extract_lets ls u v
    have hu : Intact a u := by
      simp only [u]
      split
      · exact h.setTask
      · exact h
    have hv : Intact a v := foldl _ hu (fun _ _ _ ht => ht.rebuildAt)
    exact hv.sendMsg.getD hv
  · exact h

theorem keyspaceMsg {m : Message} (h : Intact a s) : Intact a (keyspaceMsg s m) := by
  unfold Machine.keyspaceMsg
  split
  · exact h.ordMsg
  · exact h.ordMsg
  · exact h.tableMsg.takeEarly

end Intact
end Sys2Proof.Machine
end

section
/-! SUPPORT. The same of remote invocations, system registers and walkers. -/

namespace Sys2Proof.Machine

open Sys2Proof.Claims

variable {a s t : State}

namespace Intact

/-! ### Remote invocations and handles (11, 20) -/

theorem issueRinv {sh : Shape} {d x y : F7} {keyed : Bool} {reserved : List Word → Bool} {tgt : List Word → InvTarget} (h : Intact a s) :
    ResIntact a (issueRinv s sh d x y keyed reserved tgt) := by
  unfold Machine.issueRinv
  refine .ite trivial (.ite trivial (.ite trivial (.ite trivial ?_)))
  dsimp only
  split
  · exact h.writeUnis
  next hd s1 he =>
    have h1 : Intact a s1 := h.issueHandle.of_eq (congrArg (Option.map Prod.snd) he)
    have h2 : ResIntact a (Machine.writeUnis s1 false (pairWrites d.toNat hd)) := h1.writeUnis
    split
    next s2 he =>
      rw [he] at h2
      have h3 : Intact a (s2.setG { s2.G with issued := hd :: s2.G.issued }) := setG h2
      split
      · split
        · exact h3.tellHandle
        · exact h3.addPend.tick1
      · exact h3.addPend.tick1
    next => exact h2

theorem reachLeaf {q : Nat} {r : InvRec} {k : DWord} (h : Intact a s) : Intact a (reachLeaf s q r k) := by
  unfold Machine.reachLeaf
  dsimp only
  split
  · exact h.breakInv
  · split
    · exact h.breakInv
    · refine ite h.breakInv (h.endTable (.read (fun v => .read (fun cs => .read (fun all => ?_)))))
      split
      · exact h
      · exact ite h.breakInv h.sendInvAway
      · split
        · exact h.breakInv
        · exact ite h.breakInv h.sendInvAway

theorem deliverInv {q : Nat} {i : Invocation} (h : Intact a s) : Intact a (deliverInv s q i) := by
  unfold Machine.deliverInv
  dsimp only
  split
  · exact h.tick1.reachLeaf
  · exact ite h h.tick1.sendInvAway
  · exact h.tick1.reachHandle 66

theorem countInv {hd : DWord} (h : Intact a s) : Intact a (countInv s hd) := ite (h.withStreams rises_mmap).setG h

theorem tryRinv {p : Pend} {i : Invocation} (h : Intact a s) : OptIntact a (tryRinv s p i) := .ite h.tryPush h.setG.deliverInv.countInv

theorem issueRawait {sh : Shape} {x : F7} {trap : Bool} (h : Intact a s) : ResIntact a (issueRawait s sh x trap) := by
  unfold Machine.issueRawait
  refine .ite trivial ?_
  dsimp only
  split
  · exact .ite trivial (.ite trivial h.setG)
  · exact ite h.addPend.setG h.addPend

theorem tryRawait {p : Pend} {hd : DWord} {trap : Bool} (h : Intact a s) : OptIntact a (tryRawait s p hd trap) := by
  unfold Machine.tryRawait
  extract_lets src finish
  have hf (u : State) (ws : List Word) (ok : Bool) (hu : Intact a u) : Intact a (finish u ws ok) := by
    simp only [finish]
    refine ite (freeIfDone ?_) ?_ <;>
      exact ite hu.lateFault (ite hu.lateFault (setG (ite hu.l1Drop hu)))
  generalize findHandle s hd s.G.task true = v
  refine .ite trivial ?_
  cases v with
  | ready ws => exact hf _ _ _ h
  | broken c => exact hf _ _ _ h
  | elsewhere => exact ite (hf _ _ _ (h.draw.drawWords 8)) (hf _ _ _ (h.draw.drawWords 8))
  | _ => trivial

theorem resolved {hd : DWord} (h : Intact a s) : Intact a (resolved s hd).2 := by
  unfold Machine.resolved
  generalize findHandle s hd s.G.task false = v
  cases v
  all_goals exact h

theorem execRpoll {d x : F7} (h : Intact a s) : OutIntact a (execRpoll d x s) := h.issueWith (fun _ => .ite h.resolved.writeP h.addPend)

theorem tryRpoll {p : Pend} {hd : DWord} (h : Intact a s) : OptIntact a (tryRpoll s p hd) := .ite trivial h.resolved.setG

theorem execRdrop {x : F7} (h : Intact a s) : OutIntact a (execRdrop x s) := h.issue (.ite h.setHandle.freeIfDone h)

theorem startService {r : InvRec} {v : Service} {core : Nat} {key payload : DWord} (h : Intact a s) :
    Intact a (startService s r v core key payload) := by
  unfold Machine.startService
  refine refreshOpp (withInvs (begunVia (l1Drop (setGroup ?_))))
  split
  · exact ite h h.setTask
  · exact h

theorem leaveHandle {i : Invocation} (h : Intact a s) : Intact a (leaveHandle s i) := by
  unfold Machine.leaveHandle
  split
  · exact ite h.freeIfDone h
  · exact h

theorem refuseInv {q : Nat} {r : InvRec} {cause : Nat} (h : Intact a s) : Intact a (refuseInv s q r cause) :=
  h.withInvs.breakInv.leaveHandle

theorem tryService {id core : Nat} (h : Intact a s) : OptIntact a (tryService s id core) := by
  unfold Machine.tryService
  split
  · trivial
  · refine .ite trivial (.ite h.refuseInv ?_)
    split
    · exact h.refuseInv
    · refine .ite ?_ trivial
      split
      · split
        · exact h.startService
        · trivial
      · exact h.startService.leaveHandle

theorem execServiceStart {inv core : Nat} (h : Intact a s) : OutIntact a (execServiceStart inv core s) := h.tryService.getD h

theorem execHandleResultArrive {msg : Nat} (h : Intact a s) : OutIntact a (execHandleResultArrive msg s) := by
  unfold Machine.execHandleResultArrive
  split
  · exact arriveResult h
  · exact h

theorem dropWaiting {hd : DWord} (h : Intact a s) : Intact a (dropWaiting s hd) := by
  refine foldl _ (foldl _ h.withInvs (fun _ _ _ ht => ht.begunVia)) (fun u r _ hu => ?_)
  split
  · exact hu.setHandle.freeIfDone
  · exact hu.leaveHandle

theorem tryTimeout {quarter index : Nat} (h : Intact a s) : OptIntact a (tryTimeout s quarter index) := .ite h.dropWaiting.settle trivial

theorem execHandleTimeout {quarter index : Nat} (h : Intact a s) : OutIntact a (execHandleTimeout quarter index s) := h.tryTimeout.getD h

/-! ### System registers and walkers (12) -/

theorem sysWrite {r : SysReg} {w : Word} (h : Intact a s) : Intact a (sysWrite s r w) := by
  unfold Machine.sysWrite
  dsimp only
  split
  · exact h.setG
  · exact h.setG
  · exact h.setG
  · refine ite h.setG ?_
    split
    · exact h.setTask
    · exact h
  · exact h
  · exact h
  · exact h

theorem execSysrd {d x : F7} (h : Intact a s) : OutIntact a (execSysrd d x s) := by
  refine h.issue (h.ifActive ?_)
  split
  · trivial
  · exact .ite trivial h.writeUnis

theorem execSyswr {x y : F7} (h : Intact a s) : OutIntact a (execSyswr x y s) := by
  refine h.issueWith (fun _ => h.ifActive ?_)
  split
  · trivial
  · refine .ite trivial (.ite trivial ?_)
    split
    · exact h.waitPend
    · exact h.sysWrite

theorem failPage {cluster asid page : Nat} (h : Intact a s) : Intact a (failPage s cluster asid page) := h.withGroups rises_mmap

theorem dropWalker {cluster : Nat} (h : Intact a s) : Intact a (dropWalker s cluster) := by
  unfold Machine.dropWalker
  have hc {w : Option (Miss × DWord)} {k : Option Nat} :
      Intact a (s.setCluster cluster { s.cluster cluster with walk := w, walker := k }) := h.setCluster (h.pool cluster)
  dsimp only
  split
  · exact hc.withGroups rises_mdel
  · exact hc

theorem endWait {cluster asid page : Nat} (h : Intact a s) : Intact a (endWait s cluster asid page) := by
  unfold Machine.endWait
  have hc {ms : List Miss} : Intact a (s.setCluster cluster { s.cluster cluster with misses := ms }) := h.setCluster (h.pool cluster)
  dsimp only
  split
  · exact ite hc.dropWalker hc
  · exact hc

theorem failWalk {cluster : Nat} (h : Intact a s) : Intact a (failWalk s cluster) := by
  unfold Machine.failWalk
  split
  · exact h.dropWalker.failPage
  · exact h

theorem tryWalk {cluster : Nat} (h : Intact a s) : OptIntact a (tryWalk s cluster) := by
  unfold Machine.tryWalk
  have hc {ms : List Miss} {w : Option (Miss × DWord)} {k : Option Nat} :
      Intact a (s.setCluster cluster { s.cluster cluster with misses := ms, walk := w, walker := k }) := h.setCluster (h.pool cluster)
  dsimp only
  split
  · exact .ite hc.failPage hc.setGroup
  · trivial

theorem execWalkerStart {cluster : Nat} (h : Intact a s) : OutIntact a (execWalkerStart cluster s) := h.tryWalk.getD h

theorem tryWalkEnd {cluster : Nat} (h : Intact a s) : OptIntact a (tryWalkEnd s cluster) := by
  unfold Machine.tryWalkEnd
  split
  · exact .ite h.failWalk trivial
  · trivial

theorem execWalkerTimeout {cluster : Nat} (h : Intact a s) : OutIntact a (execWalkerTimeout cluster s) := h.tryWalkEnd.getD h

theorem tlbPut {cluster : Nat} {e : TlbEntry} (h : Intact a s) : Intact a (tlbPut s cluster e) := by
  unfold Machine.tlbPut
  refine ite (h.setCluster (h.pool cluster)) ?_
  dsimp only
  split
  · exact h.draw.setCluster (h.pool cluster)
  · exact h.draw

theorem tlbFill {cluster asid page : Nat} {b : BitVec 128} (h : Intact a s) : Intact a (tlbFill s cluster asid page b) :=
  ite h.tlbPut.endWait h.endWait.failPage

theorem readLeaf {pa : Nat} (h : Intact a s) : Intact a (readLeaf s pa).2 := by
  unfold Machine.readLeaf
  split
  · exact h
  · split
    · exact h
    · split
      next he => exact (h.hostAnswers.of_snd he).postHost
      next he => exact (h.hostAnswers.of_snd he).apertureRead

theorem execTlbfill {x y : F7} (h : Intact a s) : OutIntact a (execTlbfill x y s) := by
  refine h.issue (.ite trivial (h.ifActive (.ite trivial ?_)))
  dsimp only
  split
  next he => exact h.readLeaf.of_snd he
  next he => exact .ite (h.readLeaf.of_snd he).tlbFill (h.readLeaf.of_snd he).tlbFill

theorem l1Clear {cluster scope asid page : Nat} (h : Intact a s) : Intact a (l1Clear s cluster scope asid page) :=
  h.withCores (fun e he => by
    obtain ⟨e', he', rfl⟩ := List.mem_map.1 he
    dsimp only
    split
    · exact (h.accs he' : WfFrom a e'.2.acc)
    · exact h.accs he')

theorem execTlbinv {x : F7} (h : Intact a s) : OutIntact a (execTlbinv x s) := by
  refine h.issueWith (fun _ => .ite trivial (h.ifActive (.ite trivial ?_)))
  exact waitPend (l1Clear (h.setCluster (h.pool _)))

theorem tryTlbinv {p : Pend} {scope asid page : Nat} (h : Intact a s) : OptIntact a (tryTlbinv s p scope asid page) :=
  .ite trivial (.ite trivial h.l1Clear.setG)

theorem tryReissue {p : Pend} (h : Intact a s) : OptIntact a (tryReissue s p) := by
  unfold Machine.tryReissue
  refine .ite trivial (.ite h.lateFault ?_)
  dsimp only
  split
  · exact .ite (lateFault (ite h.deny h)) (.ite h.lateFault h.setG)
  · exact .ite trivial h.addMisses

theorem execLogReissue {gid id : Nat} (h : Intact a s) : OutIntact a (execLogReissue gid id s) := by
  unfold Machine.execLogReissue
  split
  · exact withGroup (h.withCur.tryReissue.getD h.withCur)
  · exact h

theorem execLogrd {d x : F7} (h : Intact a s) : OutIntact a (execLogrd d x s) := by
  refine h.issue (.ite trivial ?_)
  split
  · trivial
  · exact .ite trivial h.writeV

theorem execEret (h : Intact a s) : OutIntact a (execEret s) := by
  refine h.issue ?_
  dsimp only
  split
  · trivial
  · exact .ite trivial h.setG

theorem execClock {d : F7} (h : Intact a s) : OutIntact a (execClock d s) := h.issue (h.ifActive h.writeUnis)

theorem execTimewait {x : F7} (h : Intact a s) : OutIntact a (execTimewait x s) := h.issueWith (fun _ => h.ifActive h.addPend)

theorem tryTimewait {p : Pend} (h : Intact a s) : OptIntact a (tryTimewait s p) := by
  unfold Machine.tryTimewait
  split
  · exact .ite h.setG trivial
  · trivial

theorem execTimewaitExpire {gid id : Nat} (h : Intact a s) : OutIntact a (execTimewaitExpire gid id s) := by
  unfold Machine.execTimewaitExpire
  split
  · exact withGroup (h.withCur.tryTimewait.getD h.withCur)
  · exact h

theorem setRole {cluster bank role : Nat} (h : Intact a s) : Intact a (setRole s cluster bank role) := by
  unfold Machine.setRole
  refine ite h ?_
  extract_lets cl pool u
  have hp : WfFrom a pool := by
    simp only [pool]
    split
    · exact (h.pool cluster).filter
    · exact h.pool cluster
  have hu : Intact a u := h.setCluster hp
  exact ite hu.rehash hu

theorem tryBank {cluster bank : Nat} (h : Intact a s) : OptIntact a (tryBank s cluster bank) := by
  unfold Machine.tryBank
  split
  · trivial
  · exact .ite (withGroup (setG h.setRole.withCur)) trivial

theorem execBankroleSwitch {cluster bank : Nat} (h : Intact a s) : OutIntact a (execBankroleSwitch cluster bank s) := h.tryBank.getD h

end Intact
end Sys2Proof.Machine
end

section
/-! SUPPORT. The same of the package's own events: what is performed late, the dealers, the fabric and the device. -/

namespace Sys2Proof.Machine

open Sys2Proof.Claims

variable {a s t : State}

namespace Intact

/-! ### What is issued is performed (08, 09, 13) -/

theorem tryBwait {p : Pend} {cls n : Nat} (h : Intact a s) : OptIntact a (tryBwait s p cls n) := .ite h.l1Drop.setG trivial

theorem tryPend {p : Pend} (h : Intact a s) : OptIntact a (tryPend s p) := by
  unfold Machine.tryPend
  split
  · exact h.tryLoad
  · exact h.tryLoad
  · exact .ite h.ackHost h.tryStore
  · exact h.tryAtom
  iterate 6 exact h.tryPool
  · exact h.tryFence
  · exact h.tryOrder
  iterate 4 exact h.tryPush
  · exact h.tryBwait
  · exact h.tryRawait
  · exact h.tryRpoll
  · exact h.tryKlocate
  · exact h.tryKcost
  · exact h.tryRinv
  · exact h.tryTlbinv
  all_goals trivial

theorem withPend {gid id : Nat} {f : State → Pend → Option State} (h : Intact a s) (hf : ∀ s p, Intact a s → OptIntact a (f s p)) :
    OutIntact a (withPend s gid id f) := by
  unfold Machine.withPend
  split
  · exact withGroup ((hf _ _ h.withCur).getD h.withCur)
  · exact h

theorem execMemoryAccessComplete {gid id : Nat} (h : Intact a s) : OutIntact a (execMemoryAccessComplete gid id s) :=
  h.withPend (fun _ _ ht => ht.tryPend)

theorem execQueueOpServe {gid id : Nat} (h : Intact a s) : OutIntact a (execQueueOpServe gid id s) := h.withPend (fun _ _ ht => ht.tryQueue)

theorem tryWrite {p : Pend} (h : Intact a s) : OptIntact a (tryWrite s p) := by
  unfold Machine.tryWrite
  split
  · exact h.setG
  · trivial

theorem execFbInstructionComplete {gid id : Nat} (h : Intact a s) : OutIntact a (execFbInstructionComplete gid id s) :=
  h.withPend (fun _ _ ht => ht.tryWrite)

theorem tryReplay {p : Pend} (h : Intact a s) : OptIntact a (tryReplay s p) := by
  unfold Machine.tryReplay
  split
  · exact h.setG
  · trivial

theorem execSubnormalReplayDone {gid id : Nat} (h : Intact a s) : OutIntact a (execSubnormalReplayDone gid id s) :=
  h.withPend (fun _ _ ht => ht.tryReplay)

theorem ackOne {w : Nat × Nat} (h : Intact a s) : Intact a (ackOne s w) := ite h h.setGroup

theorem tryHome {core k : Nat} (h : Intact a s) : OptIntact a (tryHome s core k) := by
  unfold Machine.tryHome
  split
  · trivial
  next e _ =>
    have hc {sgb : List SgbEntry} : Intact a (s.setCore core { s.core core with sgb := sgb }) := h.setCore (h.acc core)
    exact .ite trivial (foldl _ (foldl _ hc (fun _ _ _ ht => ht.lineWrite)) (fun _ _ _ ht => ht.ackOne))

theorem execHomeAcknowledge {core k : Nat} (h : Intact a s) : OutIntact a (execHomeAcknowledge core k s) := h.tryHome.getD h

theorem trySgbTimeout {core k : Nat} (h : Intact a s) : OptIntact a (trySgbTimeout s core k) := by
  unfold Machine.trySgbTimeout
  split
  · exact .ite trivial h.sgbSend
  · trivial

theorem execSgbEntryTimeout {core k : Nat} (h : Intact a s) : OutIntact a (execSgbEntryTimeout core k s) := h.trySgbTimeout.getD h

theorem tryHostTimeout {p : Pend} (h : Intact a s) : OptIntact a (tryHostTimeout s p) := by
  unfold Machine.tryHostTimeout
  split
  · trivial
  · refine .ite trivial ?_
    dsimp only
    split
    · exact .ite h.postHost.setG trivial
    · exact h.postHost.refuseLoad
    · exact h.postHost.refuseLoad
    · exact h.postHost.refuseLoad
    · trivial

theorem execHostAccessTimeout {gid id : Nat} (h : Intact a s) : OutIntact a (execHostAccessTimeout gid id s) :=
  h.withPend (fun _ _ ht => ht.tryHostTimeout)

/-! ### Mailboxes, counters and the dealers (17, 18) -/

theorem hostWrite {master cls unit addr : Nat} {f : State → State} (h : Intact a s) (hf : Intact a (f s)) :
    Intact a (hostWrite s master cls unit addr f) := ite h (ite hf h.deny)

theorem execMailboxSlotWrite {master mailbox offset : Nat} {data : List Byte} (h : Intact a s) :
    OutIntact a (execMailboxSlotWrite master mailbox offset data s) := .ite (h.hostWrite h.mailboxWrite) h

theorem execMailboxKill {master mailbox : Nat} {value : Word} (h : Intact a s) : OutIntact a (execMailboxKill master mailbox value s) :=
  .ite (h.hostWrite h.mailboxWrite) h

theorem execCounterSet {master counter : Nat} {value : DWord} (h : Intact a s) : OutIntact a (execCounterSet master counter value s) :=
  .ite (h.hostWrite h.counterSetOp) h

theorem execCounterAdd {master counter : Nat} {value : DWord} (h : Intact a s) : OutIntact a (execCounterAdd master counter value s) :=
  .ite (h.hostWrite h.counterAddOp) h

theorem execCounterReset {master counter : Nat} {value : DWord} (h : Intact a s) : OutIntact a (execCounterReset master counter value s) :=
  .ite (h.hostWrite h.counterResetOp) h

theorem tryAccept {m : Nat} (h : Intact a s) : OptIntact a (tryAccept s m) := by
  have hm {n : Word} : Intact a (s.setMailbox m { s.mailbox m with consumed := n }) := h.setMailbox (h.slots m)
  unfold Machine.tryAccept
  extract_lets b slot bs
  clear_value slot bs
  exact .ite trivial (.ite hm.acceptRecord trivial)

theorem execMailboxAccept {mailbox : Nat} (h : Intact a s) : OutIntact a (execMailboxAccept mailbox s) := h.tryAccept.getD h

theorem dropBanks {cluster : Nat} {bs : List Nat} (h : Intact a s) : Intact a (dropBanks s cluster bs) := by
  have hc {banks : Map Bank} : Intact a (s.setCluster cluster { s.cluster cluster with banks := banks }) := h.setCluster (h.pool cluster)
  exact hc.rehash

theorem giveBank {cluster team bank role : Nat} {fifo : List Word} (h : Intact a s) : Intact a (giveBank s cluster team bank role fifo) :=
  (h.setCluster (h.pool cluster).filter).rehash

theorem giveBanks {cluster team role : Nat} {bs : List Nat} (h : Intact a s) : Intact a (giveBanks s cluster team role bs) :=
  foldl _ h (fun _ _ _ ht => ht.giveBank)

theorem clearTiles {core : Nat} {tiles : List Nat} (h : Intact a s) : Intact a (clearTiles s core tiles) := h.setCore (h.acc core).filter

theorem startMember {team tid : Nat} {x : Task} {spot : Spot} {index : Nat} {key : DWord} {m : RoleEnt × Nat} (h : Intact a s) :
    Intact a (startMember team tid x spot index key s m) := h.setGroup

theorem claimSpot {team : Nat} {spot : Spot} (h : Intact a s) : Intact a (claimSpot s team spot) :=
  foldl _ h.giveBanks.giveBanks.giveBanks (fun _ _ _ ht => ht.clearTiles)

theorem startTeam {tid : Nat} {x : Task} {owner : Option (Nat × Nat × DWord)} {spot : Spot} (h : Intact a s) :
    Intact a (startTeam s tid x owner spot) := by
  refine setTeam (foldl _ (setTeam (setTask (foldl _ ?_ ?_))) ?_)
  · exact tick1 (h.claimSpot (team := s.newTeam) (spot := spot))
  · exact fun _ _ _ ht => ht.l1Drop
  · exact fun _ _ _ ht => ht.startMember

theorem saveTeam {team : Nat} (h : Intact a s) : Intact a (saveTeam s team) := by
  unfold Machine.saveTeam
  split
  · exact h
  · exact h.setTeam.withGroups rises_mmap

theorem withoutTeams {ts : List Nat} (h : Intact a s) : Intact a (withoutTeams s ts) := by
  refine foldl _ h (fun u k _ hu => ?_)
  split
  · exact ite hu hu.dropBanks.setTeam
  · exact hu

/-- Stated of its answer: that `placeable` runs over all 768 cores keeps it from being unfolded in a goal. -/
theorem tryPreempt {tid : Nat} {x : Task} {w : Work} (h : Intact a s) (e : Machine.tryPreempt s tid x w = some t) : Intact a t := by
  refine OptIntact.of_eq ?_ e
  unfold Machine.tryPreempt
  extract_lets under s0 lower same
  generalize placeable s0 x w = roomy
  exact .ite trivial (.map (fun _ _ => foldl _ h (fun _ _ _ ht => ht.saveTeam)))

theorem writeTeamArea {tm : Team} (h : Intact a s) : Intact a (writeTeamArea s tm) := h.putArea

theorem shrinkTeam {team : Nat} {banks : List Nat} {units : Nat} (h : Intact a s) : Intact a (shrinkTeam s team banks units) := by
  unfold Machine.shrinkTeam
  split
  · exact h
  · exact h.dropBanks.setTeam

theorem trySaveDone {team : Nat} (h : Intact a s) : OptIntact a (trySaveDone s team) := by
  unfold Machine.trySaveDone
  split
  · trivial
  · exact .ite trivial (refreshOpp (setTeam (dropBanks (writeTeamArea (foldl _ h (fun _ _ _ ht => ht.putArea))))))

theorem execTeamSaveDone {team : Nat} (h : Intact a s) : OutIntact a (execTeamSaveDone team s) := h.trySaveDone.getD h

theorem resumeMember {tm : Team} {spot : Spot} {m : Nat × Nat} (h : Intact a s) : Intact a (resumeMember tm spot s m) :=
  setGroup (l1Drop h.withCmds)

theorem restoreBank {cluster team : Nat} {tm : Team} {bs : List Nat} {k : Nat} (h : Intact a s) :
    Intact a (restoreBank cluster team tm bs s k) := by
  unfold Machine.restoreBank
  exact ite (h.giveBank.setCluster (h.giveBank.pool cluster).bsplice) h.giveBank

theorem restoreAcc {tm : Team} {spot : Spot} {k : Nat} (h : Intact a s) : Intact a (restoreAcc tm spot s k) :=
  h.setCore (.foldl _ (h.acc _) (fun _ _ hm => hm.bsplice))

theorem resumeTeam {team : Nat} {tm : Team} {spot : Spot} (h : Intact a s) : Intact a (resumeTeam s team tm spot) := by
  refine foldl _ (foldl _ (setTeam (foldl _ (foldl _ h ?_) ?_)) ?_) ?_
  · exact fun _ _ _ ht => ht.restoreBank
  · exact fun _ _ _ ht => ht.restoreAcc
  · exact fun _ _ _ ht => ht.setGroup
  · exact fun _ _ _ ht => ht.resumeMember

theorem tryPlace {tid core : Nat} (h : Intact a s) : OptIntact a (tryPlace s tid core) := by
  unfold Machine.tryPlace
  split
  · trivial
  · split
    · trivial
    · refine .ite trivial ?_
      split
      · refine .ite (.ite trivial h.moveOpp) ?_
        split
        · exact h.startTeam.refreshOpp
        · exact .map (fun _ _ => h.resumeTeam.refreshOpp)
      · generalize placeable s _ _ = roomy
        split
        · trivial
        · generalize e : Machine.tryPreempt s _ _ _ = o
          cases o with
          | none => trivial
          | some t => exact h.tryPreempt e

theorem execTeamPlace {task core : Nat} (h : Intact a s) : OutIntact a (execTeamPlace task core s) := h.tryPlace.getD h

theorem tryOpp {q : Nat} (h : Intact a s) : OptIntact a (tryOpp s q) := .map (fun _ _ => h.withDev.moveOpp)

theorem execOppStable {quarter : Nat} (h : Intact a s) : OutIntact a (execOppStable quarter s) := h.tryOpp.getD h

theorem dropGroup {gid : Nat} (h : Intact a s) : Intact a (dropGroup s gid) := by
  have hl : Intact a (Machine.letHandlesGo { s with groups := mdel s.groups gid } (s.group gid).pends) := (h.withGroups rises_mdel).letHandlesGo
  unfold Machine.dropGroup
  refine ite (ite hl ?_) hl
  split
  · have hd (tm : Team) := ite (p := tm.saved = true) hl (hl.dropBanks (cluster := tm.cluster) (bs := tm.banks))
    exact (hd _).withTeams rises_mdel
  · exact hl

theorem dropRunning {gid : Nat} (h : Intact a s) : Intact a (dropRunning s gid) := h

theorem serviceResult {gid : Nat} (h : Intact a s) : Intact a (serviceResult s gid) := by
  unfold Machine.serviceResult
  split
  · exact h
  · exact ite h.dropRunning.tellHandle h.dropRunning.tellHandle

theorem serviceBreak {gid : Nat} {fault : Bool} (h : Intact a s) : Intact a (serviceBreak s gid fault) := by
  unfold Machine.serviceBreak
  split
  · exact h
  · exact h.dropRunning.breakInv

theorem afterGroup {g : Group} (h : Intact a s) : Intact a (afterGroup s g) := h.completeIfDone.refreshOpp

theorem tryRetire {gid : Nat} (h : Intact a s) : OptIntact a (tryRetire s gid) := by
  unfold Machine.tryRetire
  refine .ite trivial ?_
  split
  · exact h.failWalk
  · exact h.serviceResult.dropGroup.afterGroup

theorem execGroupRetire {gid : Nat} (h : Intact a s) : OutIntact a (execGroupRetire gid s) := h.tryRetire.getD h

theorem killGroup {gid : Nat} {fault : Bool} (h : Intact a s) : Intact a (killGroup s gid fault) := by
  unfold Machine.killGroup
  dsimp only
  split
  · exact h.failWalk
  · refine afterGroup (dropGroup ?_)
    split
    · exact ite h.serviceBreak.post.withCmds.setTask h.serviceBreak.post.withCmds
    · exact h.serviceBreak.post.withCmds

theorem tryHeld {gid : Nat} (h : Intact a s) : OptIntact a (tryHeld s gid) := by
  unfold Machine.tryHeld
  dsimp only
  split
  · trivial
  · refine .ite trivial ?_
    split
    · exact h.killGroup
    · exact h.shrinkTeam.setGroup
    · exact .ite trivial (.ite h.setGroup.sgbSend (.ite trivial h.withCmds.setGroup))

theorem execHeldRequestEffect {gid : Nat} (h : Intact a s) : OutIntact a (execHeldRequestEffect gid s) := h.tryHeld.getD h

/-! ### The fabric (23) -/

theorem sweepNotices (h : Intact a s) : Intact a (sweepNotices s) := h.withStreams rises_mmap

theorem execFlitReceive {port : Nat} {flit : List Byte} (h : Intact a s) : OutIntact a (execFlitReceive port flit s) :=
  .ite (sweepNotices (setPort (ite h h.withDev))) h

theorem tryFlitTimeout {port : Nat} (h : Intact a s) : OptIntact a (tryFlitTimeout s port) := .ite h.withDev.setPort trivial

theorem execFlitResendTimeout {port : Nat} (h : Intact a s) : OutIntact a (execFlitResendTimeout port s) := h.tryFlitTimeout.getD h

theorem tryPortDown {port : Nat} (h : Intact a s) : OptIntact a (tryPortDown s port) :=
  .ite trivial (foldl _ h.withDev.setPort (fun _ _ _ ht => ht.resendStream))

theorem execPortDown {port : Nat} (h : Intact a s) : OutIntact a (execPortDown port s) := h.tryPortDown.getD h

theorem execPortRetrainComplete {port : Nat} (h : Intact a s) : OutIntact a (execPortRetrainComplete port s) :=
  .ite (foldl _ h.setPort (fun _ _ _ ht => ht.resendStream)) h

theorem postDest {m : Message} {asid : Nat} {va : DWord} {kind : AccKind} {cause : Nat} (h : Intact a s) :
    Intact a (postDest s m asid va kind cause) := h.post

theorem refuseAt {m : Message} {asid : Nat} {va : DWord} {kind : AccKind} {cause : Nat} (h : Intact a s) :
    Intact a (refuseAt s m asid va kind cause).2.2 := h.postDest

theorem destLoad {m : Message} {asid : Nat} {va pa : DWord} {size : Nat} {x : Sender} (h : Intact a s) :
    Intact a (destLoad s m asid va pa size x).2.2 := by
  unfold Machine.destLoad
  split
  · exact h.refuseAt
  · split
    · split
      · exact h.refuseAt
      · exact h
    · exact h.apertureRead

theorem destStore {m : Message} {asid : Nat} {va pa : DWord} {data : List (Byte × Byte)} {x : Sender} (h : Intact a s) :
    Intact a (destStore s m asid va pa data x).2.2 := by
  unfold Machine.destStore
  split
  · exact h.refuseAt
  · split
    · exact h.openPhase.spanWrite
    · exact h.apertureWrite

theorem destAtoms {op : AtomOp} {home : Option Nat} {pa task : Nat} {x : Sender} {l : List (Word × Word)} (h : Intact a s) :
    Intact a (destAtoms s op home pa task x l).2 := by
  induction l generalizing s with
  | nil => exact h
  | cons e l ih =>
    obtain ⟨y, cmp⟩ := e
    unfold Machine.destAtoms
    split
    next he =>
      refine ih (of_snd ?_ he)
      split
      · exact h.atomAt
      · exact h.apertureAtom

theorem destAtom {m : Message} {op : AtomOp} {asid : Nat} {va pa : DWord} {lanes : List (Word × Word)} {x : Sender} (h : Intact a s) :
    Intact a (destAtom s m op asid va pa lanes x).2.2 := by
  unfold Machine.destAtom
  split
  · exact h.refuseAt
  · split
    · exact h.refuseAt
    · exact h.openPhase.destAtoms

theorem performMsg {m : Message} (h : Intact a s) : Intact a (performMsg s m).2.2 := by
  unfold Machine.performMsg
  dsimp only
  split
  · exact h.destLoad
  · exact h.destStore
  · exact h.destAtom
  · exact h.deliverInv
  · exact h.tellHandle
  · exact h.tellHandle
  · exact h.tellHandle
  · exact h.deepen 65
  · exact h.begunFrom
  · exact h.collArrive
  · exact h.keyspaceMsg
  · exact h

theorem putRecv {m : Message} {r : RecvStream} (h : Intact a s) : Intact a (putRecv s m r) := h

theorem respond {m : Message} {stat : MsgStat} {body : MsgBody} (h : Intact a s) : Intact a (respond s m stat body) := h.sendMsg.getD h

theorem receiveMsg {m : Message} {room : Bool} (h : Intact a s) : Intact a (receiveMsg s m room) := by
  unfold Machine.receiveMsg
  refine ite h (ite (ite h.respond h) ?_)
  dsimp only
  split
  · split
    · split
      · exact h.respond
      · exact h
    · exact h
  · exact ite h (ite h.respond (ite h.performMsg.putRecv.respond h.performMsg.putRecv))

theorem execMessageReceive {m : Message} {room : Bool} (h : Intact a s) : OutIntact a (execMessageReceive m room s) := h.receiveMsg

theorem engineAnswer {id : Nat} {m : Message} {data : List Byte} {conf : Nat} (h : Intact a s) : Intact a (engineAnswer s id m data conf) := by
  unfold Machine.engineAnswer
  split
  · exact h
  · split
    · exact h.setCmd.addConflicts
    · exact h.setCmd

theorem accessAnswer {id lane : Nat} {m : Message} {data : List Byte} {conf : Nat} (h : Intact a s) :
    Intact a (accessAnswer s id lane m data conf) := by
  unfold Machine.accessAnswer
  split
  · exact h
  · split
    · exact h.setG
    · exact h.setG
    · exact h.setG.addConflicts

theorem acceptedReq {m : Message} {w : Waits} {data : List Byte} {conf : Nat} (h : Intact a s) : Intact a (acceptedReq s m w data conf) := by
  unfold Machine.acceptedReq
  split
  · exact h
  · exact h.engineAnswer
  · exact ite h (withGroup (ite h.withCur.setG h.withCur.accessAnswer))

theorem accessRefused {id lane : Nat} {m : Message} {cause : Nat} (h : Intact a s) : Intact a (accessRefused s id lane m cause) := by
  unfold Machine.accessRefused
  split
  · split
    · exact h.postRefusal
    · exact h.postRefusal
    · exact h.postRefusal
    · exact h
  · split
    · exact h.postRefusal.setG
    · exact h.postRefusal.refuseLoad
    · exact h.postRefusal.refuseLoad
    · exact h.postRefusal.setG
    · exact h

theorem engineRefused {id vf : Nat} {m : Message} {cause : Nat} (h : Intact a s) : Intact a (engineRefused s id vf m cause) := by
  unfold Machine.engineRefused
  split
  iterate 2
    dsimp only
    split
    · exact h.post
    · exact h.post.stopCmd
  exact h

theorem refusedReq {m : Message} {w : Waits} {cause : Nat} (h : Intact a s) : Intact a (refusedReq s m w cause) := by
  unfold Machine.refusedReq
  extract_lets u
  have hu : Intact a u := by
    simp only [u]
    split
    · exact h.breakInv
    · exact h.tellHandle
    · exact h
  split
  · exact hu
  · exact hu.engineRefused
  · exact ite hu (withGroup (ite hu.withCur.setG hu.withCur.accessRefused))

theorem dropReq {k : Nat} {st : Stream} {tag : Nat} (h : Intact a s) : Intact a (dropReq s k st tag) :=
  ite (h.withStreams rises_mput) (h.withStreams rises_mput).resendStream

theorem receiveResp {m : Message} (h : Intact a s) : Intact a (receiveResp s m) := by
  unfold Machine.receiveResp
  refine ite h ?_
  dsimp only
  split
  · exact h.putRecv
  · split
    · exact h.putRecv.withStreams rises_mput
    · exact h.putRecv.dropReq.acceptedReq
    · exact h.putRecv.dropReq.refusedReq

theorem execResponseReceive {m : Message} (h : Intact a s) : OutIntact a (execResponseReceive m s) := h.receiveResp

theorem tryRetry {k : Nat} (h : Intact a s) : OptIntact a (tryRetry s k) := by
  unfold Machine.tryRetry
  split
  · trivial
  · split
    · trivial
    · exact .ite trivial (.map (fun _ _ => (h.withStreams rises_mput).transmit))

theorem execMessageRetryResend {stream : Nat} (h : Intact a s) : OutIntact a (execMessageRetryResend stream s) := h.tryRetry.getD h

theorem tryFabricTimeout {k : Nat} (h : Intact a s) : OptIntact a (tryFabricTimeout s k) :=
  .bind (fun _ _ => .map (fun _ _ => h.dropReq.refusedReq))

theorem execFabricTimeout {stream : Nat} (h : Intact a s) : OutIntact a (execFabricTimeout stream s) := h.tryFabricTimeout.getD h

/-! ### The device (24) -/

theorem execSpotTestComplete {part : PartKind} {index : Nat} {found : SpotResult} {addr : DWord} (h : Intact a s) :
    OutIntact a (execSpotTestComplete part index found addr s) :=
  .ite h.withDev (.ite h.withDev.withDev (.ite h.withDev.post h.withDev))

theorem execSvnRaise {signed : Bool} {svn : Word} (h : Intact a s) : OutIntact a (execSvnRaise signed svn s) := .ite h.withDev h

theorem execAttestReportReady {master : Nat} (h : Intact a s) : OutIntact a (execAttestReportReady master s) := by
  unfold Machine.execAttestReportReady
  split
  · exact h.withDev
  · exact h

theorem hostMgmt {master off : Nat} {data : List Byte} (h : Intact a s) : Intact a (hostMgmt s master off data) := ite h (ite h.deny h.mgmtWrite)

/-- What a reset keeps is in neither invariant, and the rest is empty. -/
theorem bringUp {fw : Firmware} : Intact a (bringUp s fw) := by
  constructor
  · exact fun _ => ⟨rfl, by rintro e ⟨⟩, by rintro e ⟨⟩, by rintro e ⟨⟩⟩
  · exact fun _ => ⟨.nil, .nil, .nil, .nil, .nil, .nil⟩

theorem functionReset {vf : Nat} (h : Intact a s) : Intact a (functionReset s vf) :=
  ite h.endReset (foldl _ h.clearSeqs (fun _ _ _ ht => ht.breakTask.killTask))

theorem execFunctionLevelReset {vf : Nat} (h : Intact a s) : OutIntact a (execFunctionLevelReset vf s) := .ite h.functionReset h

theorem execLifetimeClear {signed : Bool} (h : Intact a s) : OutIntact a (execLifetimeClear signed s) := .ite h.withDev h

theorem execThermalThrottle {quarter : Nat} (h : Intact a s) : OutIntact a (execThermalThrottle quarter s) := .ite h.withDev.minptSet h

theorem execThermalTrip {quarter : Nat} (h : Intact a s) : OutIntact a (execThermalTrip quarter s) := .ite bringUp h

theorem execPowerCapLimit {readings : PowerReadings} (h : Intact a s) : OutIntact a (execPowerCapLimit readings s) := by
  unfold Machine.execPowerCapLimit
  refine .ite h ?_
  split
  · exact h.withDev.minptSet
  · exact h

end Intact
end Sys2Proof.Machine
end

section
/-! SUPPORT. Every instruction, every turn and so every step keeps both invariants of the model. -/

namespace Sys2Proof.Machine

open Sys2Proof.Claims

variable {a s t : State}

namespace Intact

/-! ### Instructions that write registers only (06, 07, 10) -/

theorem uni2 {sh : Option Shape} {d x y : F7} {f : Word → Word → Word} (h : Intact a s) : OutIntact a (uni2 sh d x y f s) := h.issue h.writeUnis

theorem uni1 {sh : Option Shape} {d x : F7} {f : Word → Word} (h : Intact a s) : OutIntact a (uni1 sh d x f s) := h.issue h.writeUnis

theorem uni64 {sh : Option Shape} {d : F7} {f : Group → DWord} (h : Intact a s) : OutIntact a (uni64 sh d f s) := h.issue h.writeUnis

theorem aff2 {sh : Option Shape} {checked : Bool} {d x y : F7} {op : AffOp Aff} (h : Intact a s) : OutIntact a (aff2 sh checked d x y op s) :=
  h.issue h.affWrite

theorem affU {sh : Option Shape} {checked : Bool} {d x y : F7} {op : AffOp Word} (h : Intact a s) : OutIntact a (affU sh checked d x y op s) :=
  h.issue h.affWrite

theorem var2 {sh : Option Shape} {d x y : F7} {f : Word → Word → Word} (h : Intact a s) : OutIntact a (var2 sh d x y f s) := h.issue h.writeV

theorem var1 {sh : Option Shape} {d x : F7} {f : Word → Word} (h : Intact a s) : OutIntact a (var1 sh d x f s) := h.issue h.writeV

theorem cmp2 {sh : Option Shape} {d x y : F7} {f : Word → Word → Bool} (h : Intact a s) : OutIntact a (cmp2 sh d x y f s) := h.issue h.writeP

theorem pred2 {sh : Option Shape} {d : F7} {f : Group → Mask} (h : Intact a s) : OutIntact a (pred2 sh d f s) := h.issue h.setG

theorem indexed {sh : Option Shape} {f : F7} {body : State → Res} (h : Intact a s) (hb : ResIntact a (body s)) :
    OutIntact a (indexed sh f body s) := h.issue (.ite trivial (.ite trivial hb))

theorem writeX {d : Nat} {f : Nat → Word} (h : Intact a s) : ResIntact a (writeX s d f) := h.setG

theorem keyOp {sh : Option Shape} {d : F7} {f : Group → Nat → Nat} (h : Intact a s) : OutIntact a (keyOp sh d f s) := h.issue h.writeVs

theorem execReadfirst {d x : F7} (h : Intact a s) : OutIntact a (execReadfirst d x s) := by
  refine h.issue ?_
  split
  · exact h.writeUnis
  · exact h

theorem execVtouEq {d x : F7} (h : Intact a s) : OutIntact a (execVtouEq d x s) := by
  refine h.issue (.ite trivial ?_)
  dsimp only
  split
  · exact h
  · exact .ite trivial (.ite trivial h.writeUnis)

theorem execReduce {d x y : F7} (h : Intact a s) : OutIntact a (execReduce d x y s) := h.issue (withOp (fun _ _ => h.finishUni))

theorem execReduceVarying {d x y : F7} (h : Intact a s) : OutIntact a (execReduceVarying d x y s) := h.issue (withOp (fun _ _ => h.finishFB))

theorem execScan {d x y : F7} (h : Intact a s) : OutIntact a (execScan d x y s) := h.issue (withOp (fun _ _ => h.finishFB))

theorem execScanExcl {d x y : F7} (h : Intact a s) : OutIntact a (execScanExcl d x y s) := h.issue (withOp (fun _ _ => h.finishFB))

/-! ### The dispatch -/

theorem exec (i : Instr) (h : Intact a s) : OutIntact a (exec i s) := by
  unfold Machine.exec
  cases i <;> dsimp only
  case clauseStart => exact h.execClauseStart
  case clauseBoundary => exact h.execClauseBoundary
  case splitRotate => exact h.execSplitRotate
  case timewaitExpire => exact h.execTimewaitExpire
  case bankroleSwitch => exact h.execBankroleSwitch
  case memoryAccessComplete => exact h.execMemoryAccessComplete
  case homeAcknowledge => exact h.execHomeAcknowledge
  case sgbEntryTimeout => exact h.execSgbEntryTimeout
  case walkerStart => exact h.execWalkerStart
  case walkerTimeout => exact h.execWalkerTimeout
  case logReissue => exact h.execLogReissue
  case subnormalReplayDone => exact h.execSubnormalReplayDone
  case engineAccept => exact h.execEngineAccept
  case boArrival => exact h.execBoArrival
  case engineCommandComplete => exact h.execEngineCommandComplete
  case engineResume => exact h.execEngineResume
  case collMatch => exact h.execCollMatch
  case collTimeout => exact h.execCollTimeout
  case queueOpServe => exact h.execQueueOpServe
  case teamBarrierComplete => exact h.execTeamBarrierComplete
  case ordBarrierComplete => exact h.execOrdBarrierComplete
  case weirRebuildComplete => exact h.execWeirRebuildComplete
  case migrationCopyStart => exact h.execMigrationCopyStart
  case migrationCopyComplete => exact h.execMigrationCopyComplete
  case quarterSwitch => exact h.execQuarterSwitch
  case serviceStart => exact h.execServiceStart
  case groupRetire => exact h.execGroupRetire
  case handleResultArrive => exact h.execHandleResultArrive
  case handleTimeout => exact h.execHandleTimeout
  case heldRequestEffect => exact h.execHeldRequestEffect
  case teamSaveDone => exact h.execTeamSaveDone
  case mailboxAccept => exact h.execMailboxAccept
  case teamPlace => exact h.execTeamPlace
  case oppStable => exact h.execOppStable
  case counterSet => exact h.execCounterSet
  case counterAdd => exact h.execCounterAdd
  case counterReset => exact h.execCounterReset
  case mailboxKill => exact h.execMailboxKill
  case hostAccessTimeout => exact h.execHostAccessTimeout
  case flitReceive => exact h.execFlitReceive
  case flitResendTimeout => exact h.execFlitResendTimeout
  case portDown => exact h.execPortDown
  case portRetrainComplete => exact h.execPortRetrainComplete
  case messageReceive => exact h.execMessageReceive
  case messageRetryResend => exact h.execMessageRetryResend
  case responseReceive => exact h.execResponseReceive
  case fabricTimeout => exact h.execFabricTimeout
  case spotTestComplete => exact h.execSpotTestComplete
  case powerOn => exact (bringUp (s := s)).withDev
  case packageReset => exact bringUp
  case hostLinkTrain => exact h.withDev
  case functionLevelReset => exact h.execFunctionLevelReset
  case claim | give | take | minptWrite | mgmtRegisterWrite | attestRequest => exact h.hostMgmt
  case attestReportReady => exact h.execAttestReportReady
  case lifetimeClear => exact h.execLifetimeClear
  case svnRaise => exact h.execSvnRaise
  case thermalThrottle => exact h.execThermalThrottle
  case thermalTrip => exact h.execThermalTrip
  case powerCapLimit => exact h.execPowerCapLimit
  case fbInstructionComplete => exact h.execFbInstructionComplete
  case rebalanceSnapshotComplete => exact h.execRebalanceSnapshotComplete
  case mailboxSlotWrite => exact h.execMailboxSlotWrite
  case nop => exact h.issue h
  case braLikely | braUnlikely | braUniform | bra | brx => exact h.issue h.branch
  case call => exact h.issue h.transfer
  case ret => exact h.execRet
  case ppush | pinv | ppop | setmode => exact h.issue (.ite trivial h.setG)
  case setfmt | exit | yield => exact h.issue h.setG
  case getmode | getfmt | utov | atov | vbfi | xget | imad | klevel => exact h.issue h.writeV
  case spawn => exact h.execSpawn
  case trap | bkpt => exact h.issue h.raiseBoundary
  case sadd | ssub | smul | smulhiI32 | smulhiN32 | sdivI32 | sdivN32 | sremI32 | sremN32 | sminI32 | sminN32 | smaxI32 | smaxN32 |
      saddSatI32 | saddSatN32 | ssubSatI32 | ssubSatN32 | sand | sor | sxor | sshl | sshrN32 | sshrI32 | ssetEq | ssetNe | ssetLtI32 |
      ssetLeI32 | ssetLtN32 | ssetLeN32 => exact h.uni2
  case snot | spopc | sclz | smov => exact h.uni1
  case slit | atou | elect | ordstat => exact h.issue h.writeUnis
  case slit64 | sadd64 | ssub64 | sshl64 | sshr64 => exact h.uni64
  case aadd | asub | aaddC | asubC => exact h.aff2
  case aaddu | asubu | amulu | ashlu | aadduC | asubuC | amuluC | ashluC => exact h.affU
  case amov | astride | utoa | lanea => exact h.issue h.writeAff
  case readfirst => exact h.execReadfirst
  case vtouEq => exact h.execVtouEq
  case vadd | vsub | vmul | vmulhiI32 | vmulhiN32 | vminI32 | vminN32 | vmaxI32 | vmaxN32 | vaddSatI32 | vaddSatN32 | vsubSatI32 |
      vsubSatN32 | vand | vor | vxor | vshl | vshrN32 | vshrI32 | vbfeN32 | vbfeI32 => exact h.var2
  case vnot | vpopc | vclz | vmov | vbrev => exact h.var1
  case vcmpEq | vcmpNe | vcmpLtI32 | vcmpLeI32 | vcmpLtN32 | vcmpLeN32 => exact h.cmp2
  case pand | por | pxor | pnot | pmov => exact h.pred2
  case vxrd => exact h.indexed h.writeV
  case vxwr => exact h.indexed h.setG
  case xset | xadd => exact h.issue h.writeX
  case vrand | kdec => exact h.issue h.writeVs
  case shflIdx | shflUp | shflDown | shflXor => exact h.shuffle
  case reduce => exact h.execReduce
  case reduceVarying => exact h.execReduceVarying
  case scan => exact h.execScan
  case scanExcl => exact h.execScanExcl
  case reduceMini | voteAll | voteAny | spread => exact h.issue h.finishUni
  case ballot => exact h.issue h.finishFB
  case fadd | fsub | fmul | fmin | fmax | fabs | fneg | frint | ffma => exact h.floatOp
  case fcmpEq | fcmpNe | fcmpLt | fcmpLe | fcmpUn => exact h.fcmp
  case hadd | hsub | hmul | hmin | hmax | hfma => exact h.halfOp
  case f2iI32 | f2iN32 | i2fI32 | i2fN32 | h2fLo | h2fHi | f2h => exact h.convert
  case frcp | frsq | fsqrt | fexp2 | flog2 | fsin | fcos => exact h.specialOp
  case ld | ldVaryingAddress | st | stVaryingAddress => exact h.issueWith (fun _ => h.ifActive h.issueGlobal)
  case ldc | ldcVaryingAddress => exact h.issueWith (fun _ => h.ldcAt)
  case stc | stcVaryingAddress => exact h.issueWith (fun _ => h.stcAt)
  case ldp | stp => exact h.issueWith (fun _ => h.ifActive h.issuePool)
  case boset => exact h.execBoset
  case boadd => exact h.execBoadd
  case bowait => exact h.execBowait
  case bopoll => exact h.execBopoll
  case bar => exact h.execBar
  case pref => exact h.execPref
  case atomAddI32 | atomAddF32 | atomMinI32 | atomMinN32 | atomMaxI32 | atomMaxN32 | atomXchg | atomCas | atomAnd | atomOr | atomXor =>
    exact h.issueWith (fun _ => h.atomIssue)
  case qpush | qpushUniform | qpop | qpopElect => exact h.issueWith (fun _ => h.ifActive h.issueQueue)
  case qpopUniform => exact h.issueWith (fun _ => .ite trivial (h.ifActive h.issueQueue))
  case fence => exact h.issueWith (fun _ => h.waitPend)
  case cpy | gather | scatter | mma | mmadrain | idxwalk | cstore | cload | coll => exact h.issue h.issueCmd
  case batchCopy | batchGather | batchMatrix | batchIndex | batchColl => exact h.issue h.closeBatch
  case bwaitCopy | bwaitGather | bwaitMatrix | bwaitIndex | bwaitColl => exact h.issueWith (fun _ => h.batchWait)
  case bstatCopy | bstatGather | bstatMatrix | bstatIndex | bstatColl => exact h.issue h.batchStat
  case kenc | kparent | kchild | knbrXm | knbrXp | knbrYm | knbrYp | knbrZm | knbrZp => exact h.keyOp
  case klocate => exact h.execKlocate
  case kowner => exact h.execKowner
  case krefine | kcoarsen => exact h.issue h.stageReq
  case kcost => exact h.execKcost
  case kcommit => exact h.execKcommit
  case krebal => exact h.execKrebal
  case ordb | orde => exact h.issueWith (fun _ => h.ordArrive)
  case rinvKey | rinvPkg | rinvHdl => exact h.issueWith (fun _ => h.issueRinv)
  case rawait | rawaitTrap => exact h.issueWith (fun _ => h.issueRawait)
  case rpoll => exact h.execRpoll
  case rdrop => exact h.execRdrop
  case sysrd => exact h.execSysrd
  case syswr => exact h.execSyswr
  case tlbfill => exact h.execTlbfill
  case tlbinv => exact h.execTlbinv
  case logrd => exact h.execLogrd
  case eret => exact h.execEret
  case clock => exact h.execClock
  case timewait => exact h.execTimewait

/-! ### A step -/

theorem illegalWord {w : Word} {r : Reject} (h : Intact a s) : Intact a (illegalWord s w r) := h.enterHandler

theorem fetchFault {cause : Nat} (h : Intact a s) : Intact a (fetchFault s cause) := h.enterHandler

theorem runWord (h : Intact a s) : OutIntact a (runWord s) := by
  unfold Machine.runWord
  have hf := h.fetchInstr
  split
  next he =>
    rw [he] at hf
    split
    · exact hf.exec _
    · exact .ite hf hf.illegalWord
  next he =>
    rw [he] at hf
    exact hf.fetchFault
  next he =>
    rw [he] at hf
    exact hf

theorem runGroup {gid : Nat} (h : Intact a s) : OutIntact a (runGroup gid s) := by
  unfold Machine.runGroup
  have hu : Intact a { s with cur := gid } := h.withCur
  generalize ({ s with cur := gid } : State) = u at hu
  dsimp only
  split
  · exact .ite (hu.exec _) (hu.exec _)
  · have hv : Intact a (if u.G.off && !u.G.offSeat then u.setG { u.G with off := false } else u) := ite hu.setG hu
    exact .ite hu (.ite (hv.exec _) hv.runWord)

theorem hostRead {master off n : Nat} {w : HostWindow} (h : Intact a s) : Intact a (hostRead s master w off n).2 := by
  unfold Machine.hostRead
  split
  · exact h
  · split
    · exact h.deny
    · split
      all_goals exact h

theorem configWrite {master function off : Nat} (h : Intact a s) : Intact a (configWrite s master function off) := ite h h.deny

theorem turn {u : Turn} (h : Intact a s) : OutIntact a (turn u s) := by
  cases u with
  | issue gid => exact h.runGroup
  | event i => exact h.exec i
  | tick ns => exact h
  | hostRead master w off n => exact h.hostRead
  | configWrite master function off => exact h.configWrite
  | quarterDown q down => exact h.withDev

theorem keepSpill {old : Option Task} {tid : Nat} {x : Task} (h : Intact a s) : Intact a (keepSpill old tid x s) :=
  ite (ite h h.setTask) (ite h h.setTask.putArea)

theorem keepHandles {before : State} (h : Intact a s) : Intact a (keepHandles before s) :=
  foldl _ h (fun _ _ _ ht => ht.withMem ht.mem.bsplice)

theorem afterTurn {before : State} (h : Intact a s) : Intact a (afterTurn before s) := by
  refine keepHandles (foldl _ (foldl _ (h.withGroups rises_mmap) (fun _ _ _ ht => ?_)) (fun _ _ _ ht => ht.keepSpill))
  exact ite ht ht.keepRecords

theorem settled {before : State} {o : Host.Outcome State Fault Refusal} (h : OutIntact a o) : OutIntact a (settled before o) := by
  cases o
  case next => exact afterTurn h
  all_goals trivial

end Intact

/-- Every step of the package keeps both invariants of the model. -/
theorem step_intact (s : State) : OutIntact s (step s) := by
  unfold step
  refine Intact.settled ?_
  split
  · exact Intact.turn (Intact.refl s)
  · exact Intact.turn (Intact.refl s)

/-- Settles O59: every operation that a step is made of writes byte memories by `bput`, `bsplice` and the like, which keep their form. -/
theorem memoryStaysCanonical : Obligations.MemoryStaysCanonical := by
  intro s t hs ht
  have h := step_intact s
  rw [ht] at h
  exact h.1 hs

end Sys2Proof.Machine
end

section
/-! SUPPORT. Decode and encode (02; R55, R71 to R73, R80, R81). `Shape.Fits` says what a three-operand word must hold to stand for a shape.
Cell by cell, the decoder names only instructions whose shape the word fits; instruction by instruction, every word that fits a shape is
decoded to its instruction. The four-operand words of class 111 have two instructions and are compared directly. -/

namespace Sys2Proof

/-! ### The codes of widths, orders and scopes -/

theorem Width.code_of_ofCode {n : Nat} {w : Width} (h : Width.ofCode n = some w) : w.code = n := by
  unfold Width.ofCode at h
  split at h <;> cases h <;> rfl

theorem FenceOrder.code_of_ofCode {n : Nat} {o : FenceOrder} (h : FenceOrder.ofCode n = some o) : o.code = n := by
  unfold FenceOrder.ofCode at h
  split at h <;> cases h <;> rfl

theorem AtomOrder.code_ofCode_mod (n : Nat) : (AtomOrder.ofCode (n % 4)).code = n % 4 := by
  have h : ∀ k < 4, (AtomOrder.ofCode k).code = k := by decide
  exact h _ (Nat.mod_lt _ (by decide))

theorem Scope.code_ofCode_mod (n : Nat) : (Scope.ofCode (n % 8)).code = n % 8 := by
  have h : ∀ k < 8, (Scope.ofCode k).code = k := by decide
  exact h _ (Nat.mod_lt _ (by decide))

theorem Width.code_lt (w : Width) : w.code < 5 := by cases w <;> decide

theorem ShflW.code_lt (w : ShflW) : w.code < 4 := by cases w <;> decide

theorem AtomOrder.code_lt (o : AtomOrder) : o.code < 4 := by cases o <;> decide

theorem FenceOrder.code_lt (o : FenceOrder) : o.code < 3 := by cases o <;> decide

theorem Scope.code_lt (q : Scope) : q.code < 8 := by cases q <;> decide

theorem toNat_secondBit (n : Nat) : (n / 2 % 2 == 1).toNat = n / 2 % 2 := by
  rcases Nat.mod_two_eq_zero_or_one (n / 2) with h | h <;> rw [h] <;> rfl

theorem eq_of_bitVec_two : ∀ m : BitVec 2, m = 0 ∨ m = 1 ∨ m = 2 ∨ m = 3 := by decide

/-! ### Words and their fields (R71, R72) -/

theorem packWord_fieldsOf (w : Word) :
    packWord (fieldsOf w).cls (fieldsOf w).fn (fieldsOf w).d (fieldsOf w).a (fieldsOf w).b (fieldsOf w).sub = w := by
  simp only [packWord, fieldsOf, BitVec.ofNat_toNat, BitVec.setWidth_eq,
    BitVec.extractLsb'_append_extractLsb'_eq_extractLsb', BitVec.extractLsb'_eq_self]

theorem fieldsOf_packWord {cls fn sub : Nat} {d a b : F7} (hc : cls < 8) (hf : fn < 8) (hs : sub < 32) :
    fieldsOf (packWord cls fn d a b sub) = ⟨cls, fn, d, a, b, sub⟩ := by
  simp (disch := decide) only [packWord, fieldsOf, BitVec.extractLsb'_append_eq_of_le, BitVec.extractLsb'_append_eq_of_add_le,
    Nat.reduceSub, BitVec.extractLsb'_eq_self, BitVec.toNat_ofNat, Nat.mod_eq_of_lt hc, Nat.mod_eq_of_lt hf, Nat.mod_eq_of_lt hs]

theorem extractLsb'_one (w : Word) (k : Nat) : w.extractLsb' k 1 = BitVec.ofBool (w.getLsbD k) := by
  ext i hi
  obtain rfl : i = 0 := by omega
  simp only [BitVec.getElem_extractLsb', Nat.add_zero, BitVec.getElem_ofBool]

theorem ofNat_toNat_eq_ofBool : ∀ b : Bool, BitVec.ofNat 1 b.toNat = BitVec.ofBool b := by decide

theorem cls_packFour (op : Nat) (d a b c : F7) : (fieldsOf (packFour op d a b c)).cls = 7 := by
  simp (disch := decide) only [packFour, fieldsOf, BitVec.extractLsb'_append_eq_of_le, Nat.reduceSub, BitVec.extractLsb'_eq_self]
  rfl

theorem op_packFour (op : Bool) (d a b c : F7) : (packFour op.toNat d a b c).getLsbD 28 = op := by
  rw [← BitVec.ofBool_eq_iff_eq, ← extractLsb'_one, ← ofNat_toNat_eq_ofBool]
  simp (disch := decide) only [packFour, BitVec.extractLsb'_append_eq_of_le, BitVec.extractLsb'_append_eq_of_add_le,
    Nat.reduceSub, BitVec.extractLsb'_eq_self]

theorem packFour_of_cls {w : Word} (h : (fieldsOf w).cls = 7) :
    packFour (w.getLsbD 28).toNat (w.extractLsb' 21 7) (w.extractLsb' 14 7) (w.extractLsb' 7 7) (w.extractLsb' 0 7) = w := by
  have hc : (7 : BitVec 3) = w.extractLsb' 29 3 := BitVec.eq_of_toNat_eq h.symm
  simp only [packFour, hc, ofNat_toNat_eq_ofBool, ← extractLsb'_one,
    BitVec.extractLsb'_append_extractLsb'_eq_extractLsb', BitVec.extractLsb'_eq_self]

/-! ### When a word fits a shape -/

/-- A field holds an operand; a field that the shape leaves unused may hold anything. -/
inductive Opd.Fits : Option Opd → F7 → Prop
  | unused (v : F7) : Opd.Fits none v
  | used (k : Kind) (r : Role) (v : F7) : Opd.Fits (some ⟨k, r, v⟩) v

theorem Opd.fits_field (o : Option Opd) : Opd.Fits o (Opd.field o) := by
  cases o <;> constructor

theorem Opd.Fits.field_eq {o : Option Opd} {v : F7} (h : Opd.Fits o v) (hz : (o.isSome || v == 0) = true) : Opd.field o = v := by
  cases h with
  | unused v => exact (beq_iff_eq.1 hz).symm
  | used => rfl

/-- The fields of a word (R71) and the two words after it hold what the shape says, its unused fields left aside. -/
structure Shape.Fits (sh : Shape) (f : Fields) (lit hi : Word) : Prop where
  cls : sh.cls = f.cls
  fn : sh.fn = f.fn
  sub : sh.sub = f.sub
  d : Opd.Fits sh.d f.d
  a : Opd.Fits sh.a f.a
  b : Opd.Fits sh.b f.b
  lits : sh.lits = [lit, hi].take sh.lits.length

/-- The instruction has a shape, and the fields fit it. -/
def Instr.Fits (i : Instr) (f : Fields) (lit hi : Word) : Prop := ∃ sh, i.shape = some sh ∧ sh.Fits f lit hi

/-! ### The cells name only instructions that fit (R84 to R93)

First the cells of class 101 in which SUB is made up of a width, a mode, an order or a scope. -/

section
variable {d a b : F7} {sub : Nat} {lit hi : Word} {i : Instr}

theorem cell50_fits (h : cell50 d a b sub = some i) : i.Fits ⟨5, 0, d, a, b, sub⟩ lit hi := by
  have hb := toNat_secondBit sub
  unfold cell50 at h
  split at h
  case h_1 w hw =>
    have hc := Width.code_of_ofCode hw
    split at h
    · cases h
      exact ⟨_, rfl, rfl, rfl, by dsimp only; omega, .used .., .used .., .used .., rfl⟩
    · cases h
      exact ⟨_, rfl, rfl, rfl, by dsimp only; omega, .used .., .used .., .unused _, rfl⟩
  case h_2 => cases h

theorem cell51_fits (h : cell51 d a b sub = some i) : i.Fits ⟨5, 1, d, a, b, sub⟩ lit hi := by
  unfold cell51 at h
  split at h
  case h_1 w hw hs =>
    have hc := Width.code_of_ofCode hw
    cases h
    exact ⟨_, rfl, rfl, rfl, by dsimp only; omega, .used .., .used .., .used .., rfl⟩
  case h_2 w hw hs =>
    have hc := Width.code_of_ofCode hw
    cases h
    exact ⟨_, rfl, rfl, rfl, by dsimp only; omega, .used .., .used .., .unused _, rfl⟩
  case h_3 => cases h

theorem cell52_fits (h : cell52 d a b sub = some i) : i.Fits ⟨5, 2, d, a, b, sub⟩ lit hi := by
  have hm : (BitVec.ofNat 2 (sub / 4 % 4)).toNat = sub / 4 % 4 := Nat.mod_eq_of_lt (by omega)
  have hb := toNat_secondBit sub
  unfold cell52 at h
  split at h
  case h_7 => cases h
  all_goals
    cases h
    exact ⟨_, rfl, rfl, rfl, by dsimp only; omega, .used .., .used .., by constructor, rfl⟩

theorem cell53_fits (h : cell53 d a b sub = some i) : i.Fits ⟨5, 3, d, a, b, sub⟩ lit hi := by
  unfold cell53 at h
  split at h
  case h_7 =>
    split at h
    · obtain ⟨w, hw, rfl⟩ := Option.map_eq_some_iff.1 h
      have hc := Width.code_of_ofCode hw
      exact ⟨_, rfl, rfl, rfl, by dsimp only; omega, .used .., .used .., .used .., rfl⟩
    · split at h
      · obtain ⟨w, hw, rfl⟩ := Option.map_eq_some_iff.1 h
        have hc := Width.code_of_ofCode hw
        exact ⟨_, rfl, rfl, rfl, by dsimp only; omega, .used .., .used .., .used .., rfl⟩
      · cases h
  all_goals
    cases h
    exact ⟨_, rfl, by constructor <;> constructor⟩

theorem cell54_fits (h : cell54 d a b sub = some i) : i.Fits ⟨5, 4, d, a, b, sub⟩ lit hi := by
  have ho := AtomOrder.code_ofCode_mod sub
  unfold cell54 at h
  split at h
  case h_9 => cases h
  all_goals
    cases h
    exact ⟨_, rfl, rfl, rfl, by dsimp only; omega, .used .., .used .., .used .., rfl⟩

theorem cell55_fits (h : cell55 d a b sub = some i) : i.Fits ⟨5, 5, d, a, b, sub⟩ lit hi := by
  have ho := AtomOrder.code_ofCode_mod sub
  unfold cell55 at h
  split at h
  case h_4 => cases h
  all_goals
    cases h
    exact ⟨_, rfl, rfl, rfl, by dsimp only; omega, .used .., .used .., .used .., rfl⟩

theorem cell57_fits (h : cell57 d a b sub = some i) : i.Fits ⟨5, 7, d, a, b, sub⟩ lit hi := by
  obtain ⟨o, ho, rfl⟩ := Option.map_eq_some_iff.1 h
  have hc := FenceOrder.code_of_ofCode ho
  have hq := Scope.code_ofCode_mod sub
  exact ⟨_, rfl, rfl, rfl, by dsimp only; omega, .unused _, .unused _, .unused _, rfl⟩

end

/-- Arms 27 to 32 and 34 of `decodeCell` are the cells above, arm 40 is class 111 and arm 41 the empty cells; every other cell names
one instruction for each SUB, whose shape is read off. -/
theorem fits_of_decodeCell {w lit hi : Word} {i : Instr} (h : decodeCell w lit hi = some i) (h7 : (fieldsOf w).cls ≠ 7) :
    i.Fits (fieldsOf w) lit hi := by
  unfold decodeCell at h
  generalize fieldsOf w = f at h h7 ⊢
  obtain ⟨cls, fn, d, a, b, sub⟩ := f
  dsimp only at h h7
  split at h
  case h_27 => exact cell50_fits h
  case h_28 => exact cell51_fits h
  case h_29 => exact cell52_fits h
  case h_30 => exact cell53_fits h
  case h_31 => exact cell54_fits h
  case h_32 => exact cell55_fits h
  case h_34 => exact cell57_fits h
  case h_40 => contradiction
  case h_41 => cases h
  all_goals
    simp only [cell00, cell01, cell02, cell03, cell04, cell05, cell10, cell11, cell12, cell13, cell14, cell20, cell21, cell22,
      cell23, cell30, cell31, cell32, cell33, cell34, cell35, cell40, cell41, cell42, cell43, cell44, cell56, cell60, cell61,
      cell62, cell63, cell64] at h
    split at h <;> cases h <;> exact ⟨_, rfl, by constructor <;> constructor⟩

/-! ### Every instruction is read from the words that fit its shape -/

theorem decodeCell_of_fits {i : Instr} {sh : Shape} {w lit hi : Word} (h : i.shape = some sh) (h7 : sh.cls ≠ 7)
    (hw : sh.Fits (fieldsOf w) lit hi) : decodeCell w lit hi = some i := by
  unfold decodeCell
  generalize fieldsOf w = f at hw
  obtain ⟨cls, fn, d, a, b, sub⟩ := f
  cases i
  case ffma | imad => cases h; contradiction
  all_goals cases h
  all_goals
    obtain ⟨hcls, hfn, hsub, hd, ha, hb, hl⟩ := hw
    dsimp only at hcls hfn hsub hd ha hb
    subst hcls hfn hsub
    cases hd; cases ha; cases hb; cases hl
  case shflIdx w | shflUp w | shflDown w | shflXor w => cases w <;> rfl
  case ld w byp | ldVaryingAddress w byp => dsimp only; cases w <;> cases byp <;> rfl
  case st w | stVaryingAddress w | ldp w | stp w => dsimp only; cases w <;> rfl
  case ldc m byp | ldcVaryingAddress m byp =>
    dsimp only
    rcases eq_of_bitVec_two m with rfl | rfl | rfl | rfl <;> cases byp <;> rfl
  case stc m | stcVaryingAddress m =>
    dsimp only
    rcases eq_of_bitVec_two m with rfl | rfl | rfl | rfl <;> rfl
  case fence o q => dsimp only; cases o <;> cases q <;> rfl
  case atomAddI32 o | atomAddF32 o | atomMinI32 o | atomMinN32 o | atomMaxI32 o | atomMaxN32 o | atomXchg o | atomCas o |
      atomAnd o | atomOr o | atomXor o => dsimp only; cases o <;> rfl
  all_goals rfl

/-! ### The ranges of a shape's numbers -/

theorem Instr.shape_cls_fn_lits {i : Instr} {sh : Shape} (h : i.shape = some sh) :
    sh.cls < 8 ∧ sh.fn < 8 ∧ sh.lits.length ≤ 2 := by
  cases i
  all_goals cases h
  all_goals exact ⟨Nat.le_of_ble_eq_true rfl, Nat.le_of_ble_eq_true rfl, Nat.le_of_ble_eq_true rfl⟩

theorem Instr.shape_sub_lt {i : Instr} {sh : Shape} (h : i.shape = some sh) : sh.sub < 32 := by
  cases i
  all_goals cases h
  case shflIdx w | shflUp w | shflDown w | shflXor w | st w | stVaryingAddress w | ldp w | stp w =>
    have := w.code_lt
    dsimp only
    omega
  case ld w byp | ldVaryingAddress w byp =>
    have := w.code_lt
    have := byp.toNat_le
    dsimp only
    omega
  case ldc m byp | ldcVaryingAddress m byp =>
    have := byp.toNat_le
    dsimp only
    omega
  case stc m | stcVaryingAddress m => dsimp only; omega
  case fence o q =>
    have := o.code_lt
    have := q.code_lt
    dsimp only
    omega
  case atomAddI32 o | atomAddF32 o | atomMinI32 o | atomMinN32 o | atomMaxI32 o | atomMaxN32 o | atomXchg o | atomCas o |
      atomAnd o | atomOr o | atomXor o =>
    have := o.code_lt
    dsimp only
    omega
  all_goals exact Nat.le_of_ble_eq_true rfl

/-! ### The four-operand words of class 111 (R72) -/

theorem eq_fourOperand_of_cls {i : Instr} {sh : Shape} (h : i.shape = some sh) (h7 : sh.cls = 7) :
    ∃ d a b c, i = .ffma d a b c ∨ i = .imad d a b c := by
  cases i
  case ffma => exact ⟨_, _, _, _, .inl rfl⟩
  case imad => exact ⟨_, _, _, _, .inr rfl⟩
  all_goals cases h
  all_goals cases h7

theorem decodeCell_of_cls {w lit hi : Word} (h : (fieldsOf w).cls = 7) : decodeCell w lit hi =
    some (if w.getLsbD 28 then .imad (w.extractLsb' 21 7) (w.extractLsb' 14 7) (w.extractLsb' 7 7) (w.extractLsb' 0 7)
      else .ffma (w.extractLsb' 21 7) (w.extractLsb' 14 7) (w.extractLsb' 7 7) (w.extractLsb' 0 7)) := by
  simp only [decodeCell, h]
  split <;> rfl

theorem decodeCell_packFour (op : Bool) (d a b c : F7) (lit hi : Word) :
    decodeCell (packFour op.toNat d a b c) lit hi = some (if op then .imad d a b c else .ffma d a b c) := by
  rw [decodeCell_of_cls (cls_packFour ..), op_packFour]
  simp (disch := decide) only [packFour, BitVec.extractLsb'_append_eq_of_le, BitVec.extractLsb'_append_eq_of_add_le,
    Nat.reduceSub, BitVec.extractLsb'_eq_self]

/-! ### The word of a shape -/

theorem Shape.word_of_cls {sh : Shape} (h7 : sh.cls ≠ 7) :
    sh.word = packWord sh.cls sh.fn (Opd.field sh.d) (Opd.field sh.a) (Opd.field sh.b) sh.sub := if_neg h7

theorem fieldsOf_word {i : Instr} {sh : Shape} (h : i.shape = some sh) (h7 : sh.cls ≠ 7) :
    fieldsOf sh.word = ⟨sh.cls, sh.fn, Opd.field sh.d, Opd.field sh.a, Opd.field sh.b, sh.sub⟩ := by
  obtain ⟨hc, hf, -⟩ := Instr.shape_cls_fn_lits h
  rw [Shape.word_of_cls h7, fieldsOf_packWord hc hf (Instr.shape_sub_lt h)]

theorem decodeCell_word {i : Instr} {sh : Shape} {lit hi : Word} (h : i.shape = some sh)
    (hl : sh.lits = [lit, hi].take sh.lits.length) : decodeCell sh.word lit hi = some i := by
  by_cases h7 : sh.cls = 7
  · obtain ⟨d, a, b, c, rfl | rfl⟩ := eq_fourOperand_of_cls h h7
    · cases h
      exact decodeCell_packFour false d a b c lit hi
    · cases h
      exact decodeCell_packFour true d a b c lit hi
  · refine decodeCell_of_fits h h7 ?_
    rw [fieldsOf_word h h7]
    exact ⟨rfl, rfl, rfl, Opd.fits_field _, Opd.fits_field _, Opd.fits_field _, hl⟩

theorem unusedZero_word {i : Instr} {sh : Shape} (h : i.shape = some sh) : sh.unusedZero sh.word = true := by
  have hz (o : Option Opd) : (o.isSome || Opd.field o == 0) = true := by cases o <;> rfl
  by_cases h7 : sh.cls = 7
  · simp only [Shape.unusedZero, h7, beq_self_eq_true, Bool.true_or]
  · simp only [Shape.unusedZero, fieldsOf_word h h7, hz, Bool.and_self, Bool.or_true]

theorem Shape.Fits.word_eq {sh : Shape} {w lit hi : Word} (h : sh.Fits (fieldsOf w) lit hi) (h7 : sh.cls ≠ 7)
    (hz : sh.unusedZero w = true) : sh.word = w := by
  have h7' : (sh.cls == 7) = false := beq_false_of_ne h7
  simp only [Shape.unusedZero, h7', Bool.false_or, Bool.and_eq_true] at hz
  obtain ⟨⟨hd, ha⟩, hb⟩ := hz
  rw [Shape.word_of_cls h7, h.d.field_eq hd, h.a.field_eq ha, h.b.field_eq hb, h.cls, h.fn, h.sub, packWord_fieldsOf]

theorem word_of_decodeCell {w lit hi : Word} {i : Instr} (h : decodeCell w lit hi = some i) :
    ∃ sh, i.shape = some sh ∧ sh.lits = [lit, hi].take sh.lits.length ∧ (sh.unusedZero w = true → sh.word = w) := by
  by_cases h7 : (fieldsOf w).cls = 7
  · have hw := packFour_of_cls h7
    rw [decodeCell_of_cls h7] at h
    cases hop : w.getLsbD 28 <;> rw [hop] at h hw <;> cases h <;> exact ⟨_, rfl, rfl, fun _ => hw⟩
  · obtain ⟨sh, hsh, hf⟩ := fits_of_decodeCell h h7
    exact ⟨sh, hsh, hf.lits, hf.word_eq (hf.cls ▸ h7)⟩

/-! ### Decode and encode -/

theorem decode_cons_eq_ok {w : Word} {rest rest' : List Word} {i : Instr} :
    decode (w :: rest) = .ok (i, rest') ↔ ∃ sh, decodeCell w (rest.getD 0 0) (rest.getD 1 0) = some i ∧ i.shape = some sh ∧
      sh.unusedZero w = true ∧ sh.lits.length ≤ rest.length ∧ rest.drop sh.lits.length = rest' := by
  unfold decode
  dsimp only
  cases hc : decodeCell w (rest.getD 0 0) (rest.getD 1 0) with
  | none => simp only [reduceCtorEq, false_and, exists_false]
  | some j =>
    dsimp only
    constructor
    · intro h
      split at h
      · cases h
      · next sh hsh =>
        split at h
        · cases h
        · next hz =>
          split at h
          · cases h
          · next hl =>
            cases h
            exact ⟨sh, rfl, hsh, by simpa only [Bool.not_eq_true', Bool.not_eq_false] using hz, Nat.le_of_not_lt hl, rfl⟩
    · rintro ⟨sh, hj, hsh, hz, hl, rfl⟩
      obtain rfl := Option.some.inj hj
      simp only [hsh, hz, Bool.not_true, Bool.false_eq_true, if_false, Nat.not_lt.2 hl]

theorem encode_of_shape {i : Instr} {sh : Shape} (h : i.shape = some sh) : encode i = sh.word :: sh.lits := by
  unfold encode
  rw [h]

theorem take_getD_zero_one {rest : List Word} {k : Nat} (hk : k ≤ 2) (h : k ≤ rest.length) :
    [rest.getD 0 0, rest.getD 1 0].take k = rest.take k := by
  match k, rest with
  | 0, _ => rfl
  | 1, _ :: _ => rfl
  | 2, _ :: _ :: _ => rfl

theorem decode_encode {i : Instr} (rest : List Word) (hi : i.shape ≠ none) : decode (encode i ++ rest) = .ok (i, rest) := by
  obtain ⟨sh, hsh⟩ := Option.ne_none_iff_exists'.1 hi
  obtain ⟨-, -, hl⟩ := Instr.shape_cls_fn_lits hsh
  have hlen : sh.lits.length ≤ (sh.lits ++ rest).length := by
    rw [List.length_append]
    exact Nat.le_add_right ..
  rw [encode_of_shape hsh, List.cons_append, decode_cons_eq_ok]
  refine ⟨sh, decodeCell_word hsh ?_, hsh, unusedZero_word hsh, hlen, List.drop_left⟩
  rw [take_getD_zero_one hl hlen, List.take_left]

theorem encode_of_decode {ws rest : List Word} {i : Instr} (h : decode ws = .ok (i, rest)) :
    i.shape ≠ none ∧ ws = encode i ++ rest := by
  cases ws with
  | nil => cases h
  | cons w tail =>
    obtain ⟨sh, hc, hsh, hz, hlen, rfl⟩ := decode_cons_eq_ok.1 h
    obtain ⟨sh', hsh', hlits, hw⟩ := word_of_decodeCell hc
    obtain rfl : sh = sh' := Option.some.inj (hsh.symm.trans hsh')
    obtain ⟨-, -, hl⟩ := Instr.shape_cls_fn_lits hsh
    rw [take_getD_zero_one hl hlen] at hlits
    refine ⟨by simp only [hsh, ne_eq, reduceCtorEq, not_false_eq_true], ?_⟩
    calc w :: tail = w :: (tail.take sh.lits.length ++ tail.drop sh.lits.length) := by rw [List.take_append_drop]
      _ = encode i ++ tail.drop sh.lits.length := by rw [← hlits, encode_of_shape hsh, hw hz, List.cons_append]

/-! ### Headers (R73) -/

/-- The fields of a header word, as they stand in it. -/
def headerOf (w : Word) : Header :=
  ⟨w.extractLsb' 14 12, (w.extractLsb' 9 5).toNat, (w.extractLsb' 5 4).toNat, (w.extractLsb' 1 4).toNat⟩

/-- LEN is 1 to 24, FA and FB are flags or 15. -/
def Header.InRange (h : Header) : Prop := 1 ≤ h.len ∧ h.len ≤ 24 ∧ (h.fa < 12 ∨ h.fa = 15) ∧ (h.fb < 12 ∨ h.fb = 15)

theorem decodeHeader_eq_some {w : Word} {h : Header} : decodeHeader w = some h ↔
    w.extractLsb' 26 6 = 0 ∧ w.extractLsb' 0 1 = 0 ∧ h = headerOf w ∧ h.InRange := by
  have ha := (w.extractLsb' 5 4).isLt
  have hb := (w.extractLsb' 1 4).isLt
  have hr : w.extractLsb' 26 6 = 0 ↔ (w.extractLsb' 26 6).toNat = 0 := BitVec.toNat_inj.symm
  have h0 : w.extractLsb' 0 1 = 0 ↔ w.getLsbD 0 = false := by rw [extractLsb'_one]; cases w.getLsbD 0 <;> decide
  simp only [decodeHeader, hr, h0, ← Bool.not_eq_true]
  constructor
  · intro hd
    split at hd
    · cases hd
    · next hbad =>
      split at hd
      · cases hd
      · next hflag =>
        cases hd
        refine ⟨by omega, fun h => hbad (.inr (.inl h)), rfl, ?_⟩
        dsimp only [Header.InRange]
        omega
  · rintro ⟨hr, h0, rfl, hin⟩
    dsimp only [Header.InRange, headerOf] at hin
    have hbad : ¬((w.extractLsb' 26 6).toNat ≠ 0 ∨ w.getLsbD 0 = true ∨
        (w.extractLsb' 9 5).toNat = 0 ∨ 24 < (w.extractLsb' 9 5).toNat) := by
      rintro (h | h | h)
      · exact h hr
      · exact h0 h
      · omega
    rw [if_neg hbad, if_neg (by omega)]
    rfl

theorem extract_encodeHeader (h : Header) :
    (encodeHeader h).extractLsb' 26 6 = 0 ∧ (encodeHeader h).extractLsb' 0 1 = 0 ∧
    headerOf (encodeHeader h) = ⟨h.wait, h.len % 32, h.fa % 16, h.fb % 16⟩ := by
  simp (disch := decide) only [encodeHeader, headerOf, BitVec.extractLsb'_append_eq_of_le, BitVec.extractLsb'_append_eq_of_add_le,
    Nat.reduceSub, BitVec.extractLsb'_eq_self, BitVec.toNat_ofNat, Nat.reducePow, and_self]

theorem decodeHeader_encodeHeader {h : Header} (hin : h.InRange) : decodeHeader (encodeHeader h) = some h := by
  obtain ⟨hr, h0, hf⟩ := extract_encodeHeader h
  refine decodeHeader_eq_some.2 ⟨hr, h0, ?_, hin⟩
  obtain ⟨-, hl, ha, hb⟩ := hin
  rw [hf, Nat.mod_eq_of_lt (by omega : h.len < 32), Nat.mod_eq_of_lt (by omega : h.fa < 16), Nat.mod_eq_of_lt (by omega : h.fb < 16)]

theorem encodeHeader_headerOf {w : Word} (hr : w.extractLsb' 26 6 = 0) (h0 : w.extractLsb' 0 1 = 0) : w = encodeHeader (headerOf w) := by
  simp only [encodeHeader, headerOf, ← hr, ← h0, BitVec.ofNat_toNat, BitVec.setWidth_eq,
    BitVec.extractLsb'_append_extractLsb'_eq_extractLsb', BitVec.extractLsb'_eq_self]

theorem encodeHeader_of_decodeHeader {w : Word} {h : Header} (hd : decodeHeader w = some h) : w = encodeHeader h ∧ h.InRange := by
  obtain ⟨hr, h0, rfl, hin⟩ := decodeHeader_eq_some.1 hd
  exact ⟨encodeHeader_headerOf hr h0, hin⟩

/-- Settles O55: every instruction is read from the words that fit its shape, the cells name no other, and a word that fits is the shape's. -/
theorem decodeEncode : Obligations.DecodeEncode := by
  refine ⟨⟨fun i rest hi => decode_encode rest hi, fun ws rest i h => encode_of_decode h⟩, ?_, fun w h hd => ?_⟩
  · exact fun h hl hl' ha hb => decodeHeader_encodeHeader ⟨hl, hl', ha, hb⟩
  · exact encodeHeader_of_decodeHeader hd

end Sys2Proof
end

section
/-! SUPPORT. Single words and single turns: the words of the chapters decode as the encoder lays them out (R71, R72); and the turn of a
word leaves the line that it was fetched from in the core's L1 (R308). -/

namespace Sys2Proof

open Machine Claims Tests

/-- A list of words that the encoder lays out for an instruction decodes to it, with no word left. -/
theorem decode_of_encode_eq {i : Instr} {ws : List Word} (hi : i.shape ≠ none) (h : encode i = ws) : decode ws = .ok (i, []) := by
  have hd := decode_encode [] hi
  rwa [List.append_nil, h] at hd

/-- Settles O56: each sample is the encoding of its instruction, and encodings decode (O55). -/
theorem decodeSamples : Obligations.DecodeSamples := by
  unfold Obligations.DecodeSamples
  and_intros
  all_goals exact decode_of_encode_eq nofun rfl

/-! ### What fetching leaves in L1 -/

/-- The physical lines in the L1 of a core after a turn; none after a turn that has no next state. -/
def l1LinesAfter (core : Nat) : Host.Outcome State Fault Refusal → List Nat
  | .next t => (t.core core).l1.map (·.pline)
  | .fault _ | .refused _ => []

/-- The clause of the group whose next word `placed` puts in memory: one word, none fetched. -/
def placedClause : Clause := ⟨0x2000000, 1, 0, 15, 15, 0, 0, false, []⟩

theorem clause_placed : ((placed 0x20680180).group 1).clause = some placedClause := by decide +kernel

/-- Line 0x40000 holds the word's text, at address 0x2000004. -/
theorem l1LinesAfter_step_placed : l1LinesAfter 0 (step (placed 0x20680180)) = [0x40000] := by decide +kernel

theorem l1LinesAfter_exec_fetchedState : l1LinesAfter 0 (settled (placed 0x20680180) (exec (.sadd 13 0 12)
    (fetchedState { placed 0x20680180 with sched := [] } 1 placedClause [0x20680180]))) = [] := by decide +kernel

/-- Refutes O52: where a word is not fetched yet, the step fills the core's L1 with its line (R308), which `fetchedState` does not have; the
instruction there is SADD.I32 s13, s0, s12, the only word of its clause, with every cache empty. -/
theorem not_stepRunsDecoded : ¬ Obligations.StepRunsDecoded := by
  unfold Obligations.StepRunsDecoded
  rintro ⟨hruns, -⟩
  obtain ⟨c, hsched, hahead, -⟩ := wit_words
  have henc : encode (.sadd 13 0 12) = [0x20680180] := rfl
  obtain rfl : placedClause = c := Option.some.inj (clause_placed.symm.trans hahead.1)
  have hstep := hruns _ 1 [] placedClause [0x20680180] (.sadd 13 0 12) hsched (henc ▸ hahead) (decode_of_encode_eq nofun rfl)
  have hlines := congrArg (l1LinesAfter 0) hstep
  rw [l1LinesAfter_step_placed, l1LinesAfter_exec_fetchedState] at hlines
  cases hlines

end Sys2Proof
end
